-- ==== Sys2Proof/Word.lean ====
section
/-! DEFINITION. The plain number types of the FN-24 and the fixed-length table its blocks are made of.
Numbers the manual counts from 1 (channels, links, masters, mute groups, slots, keys) are indexed from 0 here:
index `i` stands for number `i + 1`. -/

namespace Sys2Proof

/-- A level in tenths of a decibel (00_scope §5.3, R1). -/
abbrev Level := Int

/-- OFF, silence: the value −900 (R1). -/
def off : Level := -900

/-- A station number 0..31 (00_scope §5.5). -/
abbrev Station := Fin 32

/-- A channel; index `i` is channel `i + 1` of 1..24. -/
abbrev Channel := Fin 24

/-- A cue number 0..4095; cue 0 means "no cue" (00_scope §5.5). -/
abbrev Cue := Fin 4096

/-- A spread link; index `i` is SL`(i+1)` of SL1..SL32. -/
abbrev LinkNo := Fin 32

/-- A group master; index `i` is GM`(i+1)` of GM1..GM8. -/
abbrev MasterNo := Fin 8

/-- A mute group; index `i` is MG`(i+1)` of MG1..MG16. -/
abbrev GroupNo := Fin 16

/-- A fader slot of the sense converter; index `i` is sense slot `i + 1` of 1..28. -/
abbrev FaderSlot := Fin 28

/-- `clamp(x, lo, hi)` of 00_scope §5.2: `x` limited to the range `lo..hi`. -/
def clamp (x lo hi : Int) : Int := max lo (min x hi)

/-- A collection of exactly `n` like entries. -/
abbrev Table (n : Nat) (α : Type) := Vector α n

variable {n : Nat} {α : Type}

/-- The entry at index `i`. -/
def Table.get (t : Table n α) (i : Fin n) : α := t[i.val]

/-- The table with entry `i` replaced by `a`. -/
def Table.set (t : Table n α) (i : Fin n) (a : α) : Table n α := Vector.set t i.val a i.isLt

/-- The table whose entry at `i` is `f i`. -/
def Table.ofFn (f : Fin n → α) : Table n α := Vector.ofFn f

/-- The table with entry `i` passed through `f`. -/
def Table.modify (t : Table n α) (i : Fin n) (f : α → α) : Table n α := t.set i (f (t.get i))

/-- The table with every entry passed through `f`, which is also told the index. -/
def Table.mapAt (t : Table n α) (f : Fin n → α → α) : Table n α := Table.ofFn fun i => f i (t.get i)

/-- `n` copies of one entry. -/
def Table.const (n : Nat) {α : Type} (a : α) : Table n α := Table.ofFn fun _ => a

/-- Whether some index satisfies `p`. -/
def anyIndex (n : Nat) (p : Fin n → Bool) : Bool := (List.finRange n).any p

/-- How many indices satisfy `p`. -/
def countIndex (n : Nat) (p : Fin n → Bool) : Nat := (List.finRange n).countP p

/-- The indices 0..`n`−1 in ascending order, each applied to the state in turn. -/
def forEach (n : Nat) {σ : Type} (f : Fin n → σ → σ) (s : σ) : σ :=
  (List.finRange n).foldl (fun acc i => f i acc) s

/-- The number whose bit `i` is set exactly when `p i` holds. -/
def maskNat (n : Nat) (p : Fin n → Bool) : Nat :=
  (List.finRange n).foldl (fun acc i => acc + if p i then 2 ^ i.val else 0) 0

end Sys2Proof
end

