-- ==== Sys2Proof/Syntax.lean ====
section
/-! DEFINITION. The commands the FN-24 takes: one constructor per row of spec/opcode_table.json.
A message command carries its sender and the fields of its payload; an event command carries what the event brings. -/

namespace Sys2Proof

/-- How a GO arose at the station that first took it (§3.3, layout of GO in §8.9). -/
inductive Cause
  | key
  | follow
deriving DecidableEq, Repr

/-- The reason a GOTO carries (R50). -/
inductive GotoReason
  | goto
  | back
deriving DecidableEq, Repr

/-- How an offered frame met an error (R145): no acknowledgement, or any other error. -/
inductive TxErrorKind
  | noAcknowledgement
  | bit
  | stuff
  | form
  | acknowledgementDelimiter
deriving DecidableEq, Repr

/-- Why a received frame is ignored or disregarded (R143). -/
inductive IgnoredFrame
  /-- A data frame whose sender is 0. -/
  | senderZero
  /-- A data frame whose kind is not in the table of §8.2. -/
  | unknownKind (sender : Station)
  /-- A data frame with fewer data bytes than its kind needs. -/
  | tooFewBytes (sender : Station)
  /-- A frame with a 29-bit identifier. -/
  | extended
  /-- A remote frame. -/
  | remote
deriving DecidableEq, Repr

/-- The commands. Level fields are the 11 bits received; a target field is a station number, 0 being all stations;
a `channel` field of a store message is the 5-bit number received (1..24 valid), elsewhere a `Channel` index. -/
inductive Instr
  | powerOn (stationStraps : Station) (rateStraps : Fin 4)
  | resetLine (stationStraps : Station) (rateStraps : Fin 4)
  | restart (sender target : Station)
  | go (sender : Station) (cue : Cue) (cause : Cause)
  | goto (sender : Station) (cue : Cue) (fade : Fin 65536) (reason : GotoReason)
  | hold (sender : Station)
  | resume (sender : Station)
  | linkTouch (sender : Station) (link : LinkNo) (stamp : Fin 16777216) (toucher : Station) (held : Bool) (level : BitVec 11)
  | linkState (sender : Station) (link : LinkNo) (stamp : Fin 16777216) (toucher : Station) (held : Bool) (level : BitVec 11)
  | linkRelease (sender : Station) (link : LinkNo) (stamp : Fin 16777216) (toucher : Station) (held : Bool) (level : BitVec 11)
  | muteGroup (sender : Station) (group : GroupNo) (asserted : Bool)
  | groupLevel (sender : Station) (master : MasterNo) (level : BitVec 11)
  | presence (sender : Station) (joining held : Bool) (cue : Cue) (mask : BitVec 16) (summary : BitVec 8)
  | statusRequest (sender target : Station)
  | statusReply (sender : Station)
  | panelLock (sender target : Station) (lock : Bool)
  | configBegin (sender target : Station)
  | configItem (sender target : Station) (code index : Nat) (value : BitVec 16)
  | configEnd (sender target : Station)
  | stepLoad (sender target : Station) (cue : Cue) (channel : Fin 32) (level : BitVec 11) (fade : Fin 65536) (delay : Fin 2048) (curve mute : Fin 4)
  | stepDelete (sender target : Station) (cue : Cue) (channel : Fin 32)
  | headerLoad (sender target : Station) (cue : Cue) (followPresent : Bool) (follow : Fin 65536)
  | headerDelete (sender target : Station) (cue : Cue)
  | bankSet (sender target : Station) (bank : Fin 16) (remoteGo localGo : Bool) (kind : Nat)
  | cueErase (sender target : Station) (cue : Cue)
  | tableClear (sender target : Station)
  | ignoredFrame (frame : IgnoredFrame)
  | receiveError
  | recessiveRun
  | linkOffEnd
  | frameOffer
  | lostArbitration
  | txError (kind : TxErrorKind)
  | txSuccess
  | frameCount
  | followExpiry
  | advance
  | fadeComplete (channel : Channel)
  | pendingStepStart (channel : Channel)
  | glideTimer
  | returnGlideEnd (channel : Channel)
  | recoveryTimer
  | recoveryGlideEnd (channel : Channel)
  | calibrationReading (reading : Fin 4096)
  | faderReading (slot : FaderSlot) (reading : Fin 4096)
  | spareSlotReading (slot : Fin 3)
  | touchLineActive (channel : Channel)
  | touchLineInactive (channel : Channel)
  | quietTimerExpiry (channel : Channel)
  | goKeyPress
  | backKeyPress
  | stopKeyPress
  | muteKeyPress (channel : Channel)
  | groupKeyPress (key : Fin 8)
  | keyRelease (key : Fin 35)
  | unlockTimerExpiry
  | staleTimerExpiry (master : MasterNo)
  | groupRefreshExpiry
  | gainRefreshExpiry
  | presenceTimerExpiry
  | aloneTimerExpiry
  | clashTimerExpiry
  | silenceTimerExpiry (peer : Station)
  | windowTimerExpiry
  | limitTimerExpiry
  | indicatorTimerExpiry
  | burstTimerExpiry
  | levelTransfer
  | transferComplete (gin : BitVec 32)
  | malformedLink (sender : Station) (link : LinkNo)
deriving DecidableEq, Repr

end Sys2Proof
end

