-- ==== Sys2Proof/Decode.lean ====
section
/-! DEFINITION. Reading commands from bits. The opcode table gives its rows no bits, so no table word spells a command;
the layouts of §8.2 and §8.9 do give the frames of the central message kinds, and `decodeFrame` reads those. -/

namespace Sys2Proof

/-- The command that a word of `nbits` bits spells by the opcode table's bits. Every row of the table has no bits. -/
def decodeTableWord (_nbits _w : Nat) : Option Instr := none

/-- The format of a received frame (R143). -/
inductive FrameFormat
  | data
  | extended
  | remote
deriving DecidableEq, Repr

/-- A frame received without error: its format, an 11-bit identifier and 0 to 8 data bytes (§8.2). -/
structure RawFrame where
  format : FrameFormat
  ident : BitVec 11
  data : List (BitVec 8)
deriving DecidableEq, Repr

/-- The kind of a frame: the identifier divided by 32 (R143). -/
def RawFrame.kind (f : RawFrame) : Nat := f.ident.toNat / 32

/-- The sender of a frame: the identifier modulo 32 (R143). -/
def RawFrame.sender (f : RawFrame) : Station := ⟨f.ident.toNat % 32, by omega⟩

/-- The data bytes of each kind; `none` for a code that is no kind (§8.2). -/
def kindBytes (kind : Nat) : Option Nat :=
  match kind with
  | 1 => some 2
  | 2 => some 4
  | 3 => some 0
  | 4 => some 0
  | 8 => some 6
  | 12 => some 1
  | 16 => some 2
  | 20 => some 5
  | 32 => some 1
  | 33 => some 8
  | 40 => some 1
  | 44 => some 1
  | 48 => some 1
  | 49 => some 5
  | 50 => some 1
  | 56 => some 8
  | 57 => some 3
  | 58 => some 5
  | 59 => some 3
  | 60 => some 2
  | 61 => some 3
  | 62 => some 1
  | _ => none

/-- The first `n` bytes as one number, byte 0 most significant (§8.9). Extra bytes are disregarded (R143). -/
def payloadNumber (n : Nat) (data : List (BitVec 8)) : Nat :=
  (data.take n).foldl (fun acc b => acc * 256 + b.toNat) 0

/-- The field of `width` bits whose lowest bit is `lo`, of a payload number. -/
def field (v lo width : Nat) : Fin (2 ^ width) := ⟨v / 2 ^ lo % 2 ^ width, Nat.mod_lt _ (Nat.two_pow_pos width)⟩

/-- A one-bit field. -/
def flagField (v lo : Nat) : Bool := v.testBit lo

/-- A field read as bits. -/
def bitsField (v lo width : Nat) : BitVec width := BitVec.ofNat width (v / 2 ^ lo)

/-- The command that a payload of a kind spells, for the kinds whose layout §8.9 gives. `none` for the other kinds:
MUTE_GROUP, STATUS_REQUEST, PANEL_LOCK, RESTART, the configuration messages and the other store messages. -/
def decodePayload (kind : Nat) (sender : Station) (v : Nat) : Option Instr :=
  match kind with
  | 1 => some (.go sender (field v 4 12) (if flagField v 3 then .follow else .key))
  | 2 => some (.goto sender (field v 20 12) (field v 4 16) (if flagField v 3 then .back else .goto))
  | 3 => some (.hold sender)
  | 4 => some (.resume sender)
  | 8 =>
    let link : LinkNo := field v 43 5
    let stamp : Fin 16777216 := field v 17 24
    let toucher : Station := field v 12 5
    let held := flagField v 11
    let level := bitsField v 0 11
    match (field v 41 2).val with
    | 0 => some (.linkTouch sender link stamp toucher held level)
    | 1 => some (.linkRelease sender link stamp toucher held level)
    | 2 => some (.linkState sender link stamp toucher held level)
    | _ => some (.malformedLink sender link)
  | 16 => some (.groupLevel sender (field v 13 3) (bitsField v 2 11))
  | 20 =>
    some (.presence sender (flagField v 39) (flagField v 38) (field v 26 12) (bitsField v 10 16) (bitsField v 2 8))
  | 33 => some (.statusReply sender)
  | 56 =>
    some (.stepLoad sender (field v 59 5) (field v 47 12) (field v 42 5) (bitsField v 31 11) (field v 15 16)
      (field v 4 11) (field v 2 2) (field v 0 2))
  | 58 => some (.headerLoad sender (field v 35 5) (field v 23 12) (flagField v 22) (field v 6 16))
  | _ => none

/-- The command that a received frame is (R143): disregarded formats, then the sender, the kind and the byte count, then the
payload. `none` where the manual gives the kind no layout. -/
def decodeFrame (f : RawFrame) : Option Instr :=
  match f.format with
  | .extended => some (.ignoredFrame .extended)
  | .remote => some (.ignoredFrame .remote)
  | .data =>
    if f.sender = 0 then some (.ignoredFrame .senderZero)
    else
      match kindBytes f.kind with
      | none => some (.ignoredFrame (.unknownKind f.sender))
      | some n =>
        if f.data.length < n then some (.ignoredFrame (.tooFewBytes f.sender))
        else decodePayload f.kind f.sender (payloadNumber n f.data)

end Sys2Proof
end

