-- ==== Sys2Proof/Config.lean ====
section
/-! DEFINITION. The constants that the FN-24 fixes: capacities, times in milliseconds, ends of ranges.
The manual leaves no value of this part open, so there is no free value here. -/

namespace Sys2Proof.Config

/-- The top of the level scale, +10.0 dB (R1). -/
def levelTop : Int := 100
/-- The quietest level that is not silence (R1). -/
def levelFloor : Int := -899

/-- Largest number of steps (R20). -/
def maxSteps : Nat := 2048
/-- Largest number of headers (R21). -/
def maxHeaders : Nat := 512
/-- Largest number of transmit queue entries (R145). -/
def maxQueue : Nat := 16
/-- Attempts after which an entry is dropped (R145). -/
def maxAttempts : Nat := 16
/-- The value at which every station counter stays (R176). -/
def counterTop : Nat := 63
/-- The largest link stamp (R112, R114). -/
def stampTop : Nat := 16777215

/-- Period of the frame, glide and recovery timers (R72, R110, R175). -/
def frameMs : Nat := 10
/-- Period of SG's refresh timer (R126). -/
def groupRefreshMs : Nat := 500
/-- Run of a master's stale timer (R127). -/
def staleMs : Nat := 1500
/-- Period of GP's refresh timer (R168). -/
def gainRefreshMs : Nat := 1000
/-- Period of the presence timer (R152). -/
def presenceMs : Nat := 250
/-- Run of the alone timer (R150). -/
def aloneMs : Nat := 1000
/-- Run of the clash timer (R144). -/
def clashMs : Nat := 1000
/-- Run of a peer's silence timer (R151). -/
def silenceMs : Nat := 1000
/-- Run of the window timer (R154). -/
def windowMs : Nat := 2000
/-- Run of the limit timer (R154). -/
def limitMs : Nat := 10000
/-- Run of the unlock timer (R99). -/
def unlockMs : Nat := 2000
/-- Run of the burst timer (R178). -/
def burstMs : Nat := 1000
/-- Period of the indicator timer, and the step of the indicator phase (R178). -/
def indicatorMs : Nat := 25
/-- The indicator phase wraps before this value (R178). -/
def phaseWrap : Nat := 6000

/-- Occurrences of 11 recessive bits that end LINK_OFF (R149). -/
def recessiveEnd : Nat := 128
/-- Count at which the controller is error-passive (R148). -/
def passiveAt : Nat := 128
/-- The transmit error count of a bus-off controller (R148). -/
def busOffAt : Nat := 256
/-- The largest receive error count (R148). -/
def receiveTop : Nat := 255

end Sys2Proof.Config
end

