-- ==== Sys2Proof/Machine/Configuration.lean ====
section
/-! DEFINITION. The configuration record of a station (§8.7.1) and its default. -/

namespace Sys2Proof.Machine

/-- Automation mode of a channel (R102). -/
inductive Mode
  | auto
  | latch
  | safe
deriving DecidableEq, Repr

/-- Touch source of a channel (R89). -/
inductive TouchSource
  | line
  | motion
deriving DecidableEq, Repr

/-- A protective action (R172), from lowest to highest. -/
inductive Action
  | none
  | hold
  | duck
  | mute
deriving DecidableEq, Repr

/-- The per-channel configuration items 1 to 6. -/
structure ChannelConfig where
  /-- Item 1 (R102). -/
  mode : Mode
  /-- Item 2 (R89). -/
  source : TouchSource
  /-- Item 3, in −899..+100 after clamping (R2). -/
  ceiling : Level
  /-- Item 4: GM`k` on bit `k − 1` (R137). -/
  masters : BitVec 8
  /-- Item 5: MG`g` on bit `g − 1` (R137). -/
  groups : BitVec 16
  /-- Item 6 (R122). -/
  link : Option LinkNo
deriving DecidableEq, Repr

/-- The per-master configuration items 7 and 8 (R124, R137). -/
structure MasterConfig where
  owner : Option Station
  /-- Index `k` is the master fader slot M`(k+1)`. -/
  slot : Option (Fin 4)
deriving DecidableEq, Repr

/-- One configuration: the record in force, or the copy in assembly (§8.7). -/
structure Configuration where
  chan : Table 24 ChannelConfig
  master : Table 8 MasterConfig
  /-- Item 9 (R96). -/
  keyMap : Table 8 (Option GroupNo)
  /-- Item 10 (R85). -/
  deadband : Nat
  /-- Item 11 (R86). -/
  faultCount : Nat
  /-- Item 12, in units of 10 ms (R91). -/
  quietTime : Nat
  /-- Item 13 (R110). -/
  returnTime : Nat
  /-- Item 14 (R51). -/
  backTime : Nat
  /-- Item 15 (R59). -/
  gotoTime : Nat
  /-- Item 16 (R45). -/
  guardWindow : Nat
  /-- Item 17 (R166). -/
  readbackWindow : Nat
  /-- Item 18 (R167). -/
  readbackLimit : Nat
  /-- Item 19, in −899..0 after clamping (R2, R16). -/
  duck : Level
  /-- Item 20 (R173). -/
  recoveryTime : Nat
  /-- Item 21: FADER_FAULT, GROUP_STALE, READBACK_MISMATCH, LINK_OFF in that order (R172). -/
  actions : Table 4 Action
  /-- Item 22, index 0: how many code positions form the unlock sequence (R98). -/
  unlockLength : Nat
  /-- Item 22, indices 1..6. -/
  unlockCodes : Table 6 Nat
  /-- Item 23 (R97). -/
  lockAtStart : Bool
  /-- Item 24: breakpoints B0..B15 (R9, R11). -/
  law : Table 16 Level
  /-- Items 25 and 26 (R82). -/
  scanStart : Nat
  scanStop : Nat
  /-- Item 27: flag `n` on bit `n − 1`, a set bit masks its flag (R177). -/
  faultMask : BitVec 12
deriving DecidableEq, Repr

/-- The default fader law (R11). -/
def defaultLaw : Table 16 Level :=
  #v[-900, -600, -480, -400, -340, -290, -250, -210, -175, -140, -110, -80, -50, -25, 0, 100]

/-- The per-channel defaults of §8.7.1. -/
def defaultChannel : ChannelConfig :=
  { mode := .auto, source := .line, ceiling := 100, masters := 0, groups := 0, link := none }

/-- The default configuration (§8.7.1, R157). -/
def defaultConfiguration : Configuration :=
  { chan := Table.const 24 defaultChannel
    master := Table.ofFn fun m => ⟨none, if h : m.val < 4 then some ⟨m.val, h⟩ else none⟩
    keyMap := Table.ofFn fun k => some ⟨k.val, by omega⟩
    deadband := 4, faultCount := 3, quietTime := 60
    returnTime := 50, backTime := 300, gotoTime := 300, guardWindow := 50
    readbackWindow := 2, readbackLimit := 3
    duck := -200, recoveryTime := 30, actions := Table.const 4 .none
    unlockLength := 3, unlockCodes := #v[3, 3, 1, 0, 0, 0], lockAtStart := false
    law := defaultLaw, scanStart := 0, scanStop := 28, faultMask := 0 }

end Sys2Proof.Machine
end

