-- ==== Sys2Proof/Machine/State.lean ====
section
/-! DEFINITION. The state of the FN-24, block by block, as plain data, and the state right after reset. -/

namespace Sys2Proof.Machine

/-- A timer: stopped, or running toward the stated time. How much of the time has passed is not modelled (log 2):
an expiry arrives as a command. -/
inductive Timer
  | stopped
  | running (ms : Nat)
deriving DecidableEq, Repr

/-! ## Cue Store (chapter 2) -/

/-- A fade or glide curve (R4). -/
inductive Curve
  | linear
  | easeIn
  | easeOut
  | sCurve
deriving DecidableEq, Repr

/-- The mute action of a step (R17). -/
inductive MuteAction
  | none
  | mute
  | unmute
deriving DecidableEq, Repr

/-- A step (R17). `level = none` is an absent target. -/
structure CueStep where
  cue : Cue
  channel : Channel
  level : Option Level
  fade : Nat
  delay : Nat
  curve : Curve
  mute : MuteAction
deriving DecidableEq, Repr

/-- A header (R18). `follow = none` is an absent follow delay. -/
structure Header where
  cue : Cue
  follow : Option Nat
deriving DecidableEq, Repr

/-- The kind of a bank (R19). -/
inductive BankKind
  | plain
  | priority
  | parked
deriving DecidableEq, Repr

/-- A bank entry (R19). -/
structure Bank where
  remoteGo : Bool
  localGo : Bool
  kind : BankKind
deriving DecidableEq, Repr

/-- The Cue Store: step list (R20), header list (R21), bank table (R19). -/
structure CueStore where
  steps : List CueStep
  headers : List Header
  banks : Table 16 Bank
deriving DecidableEq, Repr

/-! ## Cue Sequencer (chapter 3) -/

/-- The Cue Sequencer's state (the table at the head of chapter 3). -/
structure Sequencer where
  currentCue : Cue
  held : Bool
  frameCount : BitVec 32
  goStamp : Option (BitVec 32)
  keyStamp : Option (BitVec 32)
  /-- `none` is disarmed; `some r` is armed with `r` frames remaining (R44). -/
  follow : Option Nat
  adoptedCue : Cue
  adoptedHeld : Bool
  adoptionSource : Option Station
  cueSettled : Bool
  heldSettled : Bool
deriving DecidableEq, Repr

/-! ## Fade Engine (chapter 4) -/

/-- A fade record (R64). -/
structure FadeRecord where
  cue : Cue
  start : Level
  target : Level
  duration : Nat
  elapsed : Nat
  curve : Curve
deriving DecidableEq, Repr

/-- A pending entry (R65). -/
structure PendingStep where
  channel : Channel
  cue : Cue
  remaining : Nat
  level : Option Level
  fade : Nat
  curve : Curve
  mute : MuteAction
  priority : Bool
deriving DecidableEq, Repr

/-- What FE holds for one channel (R62 to R64). -/
structure FadeChannel where
  cueLevel : Level
  cueMute : Bool
  slot : Option FadeRecord
deriving DecidableEq, Repr

/-- The Fade Engine. -/
structure FadeEngine where
  chan : Table 24 FadeChannel
  /-- The pending list (R65). -/
  waiting : List PendingStep
  frameTimer : Timer
deriving DecidableEq, Repr

/-! ## Panel Input (chapter 5) -/

/-- What PI holds for one fader slot (R84 to R88). -/
structure SlotState where
  accepted : Option Nat
  level : Level
  faulted : Bool
  run : Nat
  catchUp : Bool
deriving DecidableEq, Repr

/-- What PI holds for one channel's touch (R89 to R91). -/
structure TouchState where
  touched : Bool
  lineActive : Bool
  rearm : Bool
  quiet : Timer
deriving DecidableEq, Repr

/-- Panel Input. -/
structure Panel where
  /-- The slot being converted (R82). -/
  scanSlot : Nat
  /-- Whether the scan range has changed during the conversion in progress (R82). -/
  rangeChanged : Bool
  calOffset : Int
  calFault : Bool
  slot : Table 28 SlotState
  touch : Table 24 TouchState
  /-- Debounced keys; index `i` is key code `i + 1`; `true` is pressed (R93). -/
  keyDown : Table 35 Bool
  panelMute : Table 24 Bool
  ownAssert : Table 16 Bool
  locked : Bool
  /-- Whether a PANEL_LOCK has been taken since the reset (R97). -/
  lockTaken : Bool
  matchPos : Nat
  unlockTimer : Timer
deriving DecidableEq, Repr

/-! ## Takeover and Spread Links (chapter 6) -/

/-- Takeover state of a channel (R103). -/
inductive Takeover
  | cue
  | touched
  | latched
  | returning
  | overridden
  | safeManual
deriving DecidableEq, Repr

/-- A return or recovery glide (R110, R173): start level A, elapsed count e, duration D. -/
structure Glide where
  start : Level
  elapsed : Nat
  duration : Nat
deriving DecidableEq, Repr

/-- What TK holds for one channel. Its mode and link stand in the configuration in force. -/
structure TakeoverChannel where
  state : Takeover
  manual : Level
  glide : Option Glide
  /-- The OVERRIDDEN mark (R109). -/
  mark : Bool
deriving DecidableEq, Repr

/-- A link record and the touching list of its link (R112, R114). -/
structure LinkRecord where
  stamp : Nat
  holder : Option Station
  level : Level
  held : Bool
  lastToucher : Option Station
  touching : List Channel
deriving DecidableEq, Repr

/-- Takeover and Spread Links. -/
structure TakeoverUnit where
  chan : Table 24 TakeoverChannel
  link : Table 32 LinkRecord
  glideTimer : Timer
deriving DecidableEq, Repr

/-! ## Shared Groups (chapter 7) -/

/-- A master record (R124). Its owner and bound slot stand in the configuration in force. -/
structure MasterRecord where
  level : Level
  fresh : Bool
  stale : Timer
deriving DecidableEq, Repr

/-- Shared Groups. An asserter set is held as its membership by station number (R131). -/
structure SharedGroups where
  master : Table 8 MasterRecord
  asserters : Table 16 (Table 32 Bool)
  refreshTimer : Timer
deriving DecidableEq, Repr

/-! ## Show Link Controller (chapter 8) -/

/-- The action of a LINK message (R113). -/
inductive LinkAction
  | touch
  | release
  | state
deriving DecidableEq, Repr

/-- A message a block of this station queues, with its content (§8.2, §8.9). -/
inductive Msg
  | go (cue : Cue) (cause : Cause)
  | goto (cue : Cue) (fade : Nat) (reason : GotoReason)
  | hold
  | resume
  | link (link : LinkNo) (action : LinkAction) (stamp : Nat) (toucher : Option Station) (held : Bool) (level : Level)
  | muteGroup (group : GroupNo) (asserted : Bool)
  | groupLevel (master : MasterNo) (level : Level)
  | presence (joining held : Bool) (cue : Cue) (mask : BitVec 16) (summary : BitVec 8)
  | statusReply (part : Fin 5) (payload : BitVec 64)
deriving DecidableEq, Repr

/-- An entry of the transmit queue (R145). `sending` is the content of its frame on the line, while it is there. -/
structure TxEntry where
  msg : Msg
  attempts : Nat
  amended : Bool
  sending : Option Msg
deriving DecidableEq, Repr

/-- State of a peer entry (R151). -/
inductive PeerState
  | unknown
  | present
  | absent
deriving DecidableEq, Repr

/-- A peer entry (R151). -/
structure Peer where
  state : PeerState
  joining : Bool
  hold : Bool
  cue : Cue
  silence : Timer
deriving DecidableEq, Repr

/-- The station state (R154). -/
inductive StationState
  | joining
  | running
deriving DecidableEq, Repr

/-- The bit rate in kbit/s from the straps (R141). -/
inductive BitRate
  | k250
  | k500
  | k1000
deriving DecidableEq, Repr

/-- The link side (R150). -/
inductive LinkSide
  | normal
  | linkOff
  | alone
deriving DecidableEq, Repr

/-- A configuration in assembly (R156). -/
structure Assembly where
  config : Configuration
  rejected : Bool
deriving DecidableEq, Repr

/-- The Show Link Controller. -/
structure ShowLink where
  station : Station
  rate : BitRate
  state : StationState
  /-- Transmit error count; 256 is bus-off (R148). -/
  txErrors : Nat
  /-- Receive error count (R148). -/
  rxErrors : Nat
  recessive : Nat
  queue : List TxEntry
  /-- Peer entries by station number; the entries of 0 and of this station's own number are not used. -/
  peer : Table 32 Peer
  presenceTimer : Timer
  aloneTimer : Timer
  aloneCond : Bool
  clashTimer : Timer
  clashCond : Bool
  windowTimer : Timer
  limitTimer : Timer
  config : Configuration
  assembly : Option Assembly
deriving DecidableEq, Repr

/-! ## Gain Composer (chapters 1 and 10) -/

/-- Action state of a channel (R173). -/
inductive ActionState
  | none
  | hold
  | duck
  | mute
  | recovering
deriving DecidableEq, Repr

/-- What GC holds for one channel. -/
structure ComposerChannel where
  composed : Level
  applied : Level
  action : ActionState
  held : Option Level
  glide : Option Glide
deriving DecidableEq, Repr

/-- The Gain Composer. -/
structure Composer where
  chan : Table 24 ComposerChannel
  recoveryTimer : Timer
deriving DecidableEq, Repr

/-! ## Gain Port (chapter 9) -/

/-- A transfer in flight (R161): LEVEL for a channel, or POLL. -/
inductive Transfer
  | level (channel : Channel) (level : Level) (seq : BitVec 8)
  | poll (seq : BitVec 8)
deriving DecidableEq, Repr

/-- The previous transfer record (R166). -/
structure SentRecord where
  channel : Channel
  seq : BitVec 8
  level : Level
deriving DecidableEq, Repr

/-- What GP holds for one channel (R163, R167). -/
structure PortChannel where
  lastSent : Option Level
  run : Nat
  mismatch : Bool
deriving DecidableEq, Repr

/-- The Gain Port. -/
structure GainPort where
  queue : List Channel
  chan : Table 24 PortChannel
  inFlight : Option Transfer
  previous : Option SentRecord
  seq : BitVec 8
  refreshTimer : Timer
deriving DecidableEq, Repr

/-! ## Fault and Indicator Unit (chapter 10) -/

/-- The twelve sticky flags, in the order that numbers them (§8.7.1, item 27). -/
inductive Flag
  | calFault
  | configRejected
  | tableFull
  | loadRefused
  | txOverflow
  | linkOff
  | linkAlone
  | stationClash
  | goRefused
  | anyFaderFault
  | anyGroupStale
  | anyReadbackMismatch
deriving DecidableEq, Repr

/-- A refusal reason (R176). -/
inductive Reason
  | badChannel
  | badCue
  | badKind
  | tableFull
  | notJoining
  | badItem
deriving DecidableEq, Repr

/-- The four counters of the station fault record (R176), each 0..63. -/
structure Counters where
  loadsRefused : Nat
  goRefused : Nat
  remoteIgnored : Nat
  txDrops : Nat
deriving DecidableEq, Repr

/-- The fault conditions FI keeps for one channel (R171). -/
structure ChannelConditions where
  faderFault : Bool
  groupStale : Bool
  mismatch : Bool
deriving DecidableEq, Repr

/-- The pattern an LED shows (R178). -/
inductive Pattern
  | steady
  | slow
  | pulse
  | fast
  | off
deriving DecidableEq, Repr

/-- The Fault and Indicator Unit. -/
structure FaultUnit where
  cond : Table 24 ChannelConditions
  effective : Table 24 Action
  /-- The conditions of the condition flags as FI last took them, by flag; event flags have none (R171, R176). -/
  taken : Table 12 Bool
  flags : Table 12 Bool
  counters : Counters
  lastReason : Option Reason
  phase : Nat
  indicatorTimer : Timer
  burstTimer : Timer
  /-- The FAULT line: `true` is driven active (low) (R177). -/
  faultLine : Bool
  stateLed : Table 24 Pattern
  muteLed : Table 24 Pattern
  goLed : Pattern
  stationLed : Pattern
deriving DecidableEq, Repr

/-! ## The machine -/

/-- The state of the block, and the commands waiting for it, first in, first out (the queue is the model's own, log 1). -/
structure State where
  cs : CueStore
  seq : Sequencer
  fe : FadeEngine
  pi : Panel
  tk : TakeoverUnit
  sg : SharedGroups
  sl : ShowLink
  gc : Composer
  gp : GainPort
  fi : FaultUnit
  pending : List Instr
deriving DecidableEq, Repr

/-- Reasons to stop with a fault. The manual gives none: every event it describes leaves the part in a next state,
so this type has no constructor (safe). -/
inductive Fault
deriving DecidableEq, Repr

/-- Reasons to refuse a command. -/
inductive Refusal
  /-- Raised by `exec` for a command that has no meaning yet; safe. No arm of `exec` raises it now. -/
  | notModelled (mnemonic : String)
deriving DecidableEq, Repr

/-! ## After reset -/

/-- The Cue Store after a power-on (R38). -/
def emptyStore : CueStore := ⟨[], [], Table.const 16 ⟨true, true, .plain⟩⟩

/-- The machine right after a power-on (R11, R15, R38, R61, R80, R101, R123, R140, R160, R170, R180) with every strap at 0
(the manual gives the straps no value; log 3), so that it is a silent station, whose first PRESENCE is discarded (R141). -/
def State.reset : State :=
  { cs := emptyStore
    seq :=
      { currentCue := 0, held := false, frameCount := 0, goStamp := none, keyStamp := none, follow := none
        adoptedCue := 0, adoptedHeld := false, adoptionSource := none, cueSettled := false, heldSettled := false }
    fe := { chan := Table.const 24 ⟨off, false, none⟩, waiting := [], frameTimer := .running 10 }
    pi :=
      { scanSlot := 0, rangeChanged := false, calOffset := 0, calFault := false
        slot := Table.const 28 ⟨none, off, false, 0, true⟩
        touch := Table.const 24 ⟨false, false, false, .stopped⟩
        keyDown := Table.const 35 false, panelMute := Table.const 24 false, ownAssert := Table.const 16 false
        locked := false, lockTaken := false, matchPos := 0, unlockTimer := .stopped }
    tk :=
      { chan := Table.const 24 ⟨.cue, off, none, false⟩
        link := Table.const 32 ⟨0, none, off, false, none, []⟩
        glideTimer := .running 10 }
    sg :=
      { master := Table.const 8 ⟨0, false, .stopped⟩
        asserters := Table.const 16 (Table.const 32 false)
        refreshTimer := .running 500 }
    sl :=
      { station := 0, rate := .k250, state := .joining, txErrors := 0, rxErrors := 0, recessive := 0, queue := []
        peer := Table.const 32 ⟨.unknown, false, false, 0, .stopped⟩
        presenceTimer := .running 250, aloneTimer := .running 1000, aloneCond := false
        clashTimer := .stopped, clashCond := false, windowTimer := .running 2000, limitTimer := .stopped
        config := defaultConfiguration, assembly := none }
    gc := { chan := Table.const 24 ⟨off, off, .none, none, none⟩, recoveryTimer := .running 10 }
    gp :=
      { queue := List.finRange 24, chan := Table.const 24 ⟨none, 0, false⟩
        inFlight := none, previous := none, seq := 0, refreshTimer := .running 1000 }
    fi :=
      { cond := Table.const 24 ⟨false, false, false⟩, effective := Table.const 24 .none
        taken := Table.const 12 false, flags := Table.const 12 false, counters := ⟨0, 0, 0, 0⟩, lastReason := none
        phase := 0, indicatorTimer := .running 25, burstTimer := .stopped, faultLine := false
        stateLed := Table.const 24 .off, muteLed := Table.const 24 .off, goLed := .off, stationLed := .pulse }
    pending := [] }

end Sys2Proof.Machine
end

