-- ==== Sys2Proof/Machine/Levels.lean ====
section
/-! DEFINITION. Level arithmetic (chapter 1): progress, curves, interpolation, the fader law, composition. -/

namespace Sys2Proof.Machine

/-! ## Clamping (R2) -/

/-- A received level, clamped to −900..+100. -/
def clampLevel (x : Int) : Level := clamp x off Config.levelTop

/-- A ceiling item, clamped to −899..+100. -/
def clampCeiling (x : Int) : Level := clamp x Config.levelFloor Config.levelTop

/-- A duck level item, clamped to −899..0. -/
def clampDuck (x : Int) : Level := clamp x Config.levelFloor 0

/-! ## Progress and curves (R3, R4) -/

/-- The progress of an operation of duration `d ≥ 1` at elapsed count `e` (R3). -/
def progress (e d : Nat) : Nat := e * 4096 / d

/-- Shaped progress (R4). -/
def shape (curve : Curve) (p : Nat) : Nat :=
  match curve with
  | .linear => p
  | .easeIn => p * p / 4096
  | .easeOut => 4096 - (4096 - p) * (4096 - p) / 4096
  | .sCurve => p * p * (12288 - 2 * p) / 16777216

/-! ## Interpolation (R5, R7, R8) -/

/-- `a + trunc((t − a) × s / 4096)`: the level at shaped progress `s` between `a` and `t` (R5, R7). -/
def interpolate (a t : Level) (s : Nat) : Level := a + Int.tdiv ((t - a) * s) 4096

/-- The level of a fade record at its elapsed count: the formula of R5, which on a long EASE_OUT fade gives the target before the
completion, where R5's prose says that none does (DEDUCED, log 21). -/
def FadeRecord.level (r : FadeRecord) : Level :=
  interpolate r.start r.target (shape r.curve (progress r.elapsed r.duration))

/-- The level of a glide toward the live target `t` (R7); an ended glide, one of duration 0 among them, gives `t` (R8). -/
def Glide.level (g : Glide) (t : Level) : Level :=
  if g.duration ≤ g.elapsed then t else interpolate g.start t (progress g.elapsed g.duration)

/-! ## The fader law (R9, R10) -/

/-- The calibrated reading of a raw reading (R9 step 1). -/
def calibrate (raw : Nat) (offset : Int) : Nat := (clamp (raw + offset) 0 4095).toNat

/-- Whether a calibrated reading lies in a rail (R10, R84). -/
def isRail (c : Nat) : Bool := c < 32 || 4063 < c

/-- The position of a calibrated reading (R9 step 2). -/
def position (c : Nat) : Nat := min (c - 128) 3839

/-- A breakpoint by number; numbers past 15 do not arise. -/
def breakpoint (law : Table 16 Level) (k : Nat) : Level := if h : k < 16 then law.get ⟨k, h⟩ else off

/-- The level of a calibrated reading under a law (R9 steps 2 to 5). -/
def lawLevel (law : Table 16 Level) (c : Nat) : Level :=
  let q := position c
  let k := q / 256
  let f := q % 256
  breakpoint law k + Int.tdiv ((breakpoint law (k + 1) - breakpoint law k) * f) 255

/-- Whether each breakpoint is no lower than the one before it (R11). -/
def lawOrdered (law : Table 16 Level) : Bool :=
  (List.range 15).all fun k => decide (breakpoint law k ≤ breakpoint law (k + 1))

/-! ## Composition (R12 to R14, R16) -/

/-- The sum of a source level and master levels; `none` is an OFF sum (R12). -/
def levelSum (source : Level) (masters : List Level) : Option Int :=
  if source = off ∨ off ∈ masters then none else some (source + masters.sum)

/-- The saturated level of a sum under a ceiling (R13). -/
def saturate (ceiling : Level) : Option Int → Level
  | none => off
  | some x => if x < Config.levelFloor then off else min x ceiling

/-- The level under DUCK (R16). -/
def ducked (duck composed : Level) : Level := min composed duck

end Sys2Proof.Machine
end

