-- ==== Sys2Proof/Machine/Operands.lean ====
section
/-! DEFINITION. How the fields a command carries are read: store fields (R24, R29), straps (R141), the gain port words
(chapter 9), configuration item values (§8.7.1), and the layouts of what this station sends (§8.9). -/

namespace Sys2Proof.Machine

/-! ## Message fields -/

/-- A level field of 11 bits: a signed number (00_scope §5.3). -/
def rawLevel (v : BitVec 11) : Int := v.toInt

/-- The level of a LINK or GROUP_LEVEL (R2). -/
def messageLevel (v : BitVec 11) : Level := clampLevel (rawLevel v)

/-- The target of a STEP_LOAD: −1024 is absent, anything else is clamped (R2, R24). -/
def stepTarget (v : BitVec 11) : Option Level :=
  if rawLevel v = -1024 then none else some (clampLevel (rawLevel v))

/-- Curve codes (R24). -/
def curveOf (code : Fin 4) : Curve :=
  match code with
  | 0 => .linear
  | 1 => .easeIn
  | 2 => .easeOut
  | 3 => .sCurve

/-- Mute codes; code 3 is read as NONE (R24). -/
def muteOf (code : Fin 4) : MuteAction :=
  match code with
  | 0 => .none
  | 1 => .mute
  | 2 => .unmute
  | 3 => .none

/-- Kind codes of a BANK_SET; any other code is refused (R29). -/
def bankKindOf (code : Nat) : Option BankKind :=
  match code with
  | 0 => some .plain
  | 1 => some .priority
  | 2 => some .parked
  | _ => none

/-- A number counted from 1 as an index below `n`, if it is one. -/
def oneBased (n i : Nat) : Option (Fin n) :=
  if h : 0 < i ∧ i ≤ n then some ⟨i - 1, by omega⟩ else none

/-- The channel of a store message's channel field; 0 and 25..31 are no channel (R24). -/
def channelOf (field : Fin 32) : Option Channel := oneBased 24 field.val

/-- A toucher field: 0 means none (§8.9). -/
def toucherOf (field : Station) : Option Station := if field = 0 then none else some field

/-- Bit-rate strap codes (R141). -/
def bitRateOf (straps : Fin 4) : BitRate :=
  match straps with
  | 0 => .k250
  | 1 => .k500
  | 2 => .k1000
  | 3 => .k500

/-! ## Key codes (§5.8) -/

/-- The key code of a debounced key, and of each kind of key. -/
def keyCode (key : Fin 35) : Nat := key.val + 1
def goKey : Fin 35 := 0
def backKey : Fin 35 := 1
def stopKey : Fin 35 := 2
/-- MUTE keys: channel `n` on code `n + 3`. -/
def muteKey (c : Channel) : Fin 35 := ⟨c.val + 3, by omega⟩
/-- Group keys: K`k` on code `k + 27`. -/
def groupKey (k : Fin 8) : Fin 35 := ⟨k.val + 27, by omega⟩

/-! ## The engine's answer (§9.1) -/

def ginValid (gin : BitVec 32) : Bool := gin.getLsbD 31
def ginChannel (gin : BitVec 32) : Nat := (gin.extractLsb' 26 5).toNat
def ginLevel (gin : BitVec 32) : Int := (gin.extractLsb' 15 11).toInt
def ginSeq (gin : BitVec 32) : BitVec 8 := gin.extractLsb' 7 8

/-- Whether a reported level agrees with the level sent (R166). -/
def levelsAgree (window : Nat) (sent reported : Int) : Bool :=
  if reported ≤ off then sent = off else sent ≠ off && decide ((reported - sent).natAbs ≤ window)

/-- Whether the GIN word is a match for the previous transfer record (R166). -/
def isMatch (window : Nat) (r : SentRecord) (gin : BitVec 32) : Bool :=
  ginValid gin && decide (ginChannel gin = r.channel.val + 1) && decide (ginSeq gin = r.seq)
    && levelsAgree window r.level (ginLevel gin)

/-- A level as a signed field of 11 bits. -/
def levelField (x : Level) : BitVec 11 := BitVec.ofInt 11 x

/-- The GOUT word of a transfer (§9.1, R163, R165). -/
def goutWord (t : Transfer) : BitVec 32 :=
  match t with
  | .level c x seq => 0#2 ++ BitVec.ofNat 5 (c.val + 1) ++ levelField x ++ seq ++ 0#6
  | .poll seq => 1#2 ++ 0#5 ++ 0#11 ++ seq ++ 0#6

/-! ## Configuration items (§8.7.1) -/

/-- A level item: a signed number, out of range outside −1024..+1023. -/
def levelItem (v : BitVec 16) : Option Int :=
  if -1024 ≤ v.toInt ∧ v.toInt ≤ 1023 then some v.toInt else none

/-- A number item with its range. -/
def rangeItem (v : BitVec 16) (lo hi : Nat) : Option Nat :=
  if lo ≤ v.toNat ∧ v.toNat ≤ hi then some v.toNat else none

/-- An item whose 0 is none and whose other values count from 1 to `n`. -/
def optionItem (n : Nat) (v : BitVec 16) : Option (Option (Fin n)) :=
  if v.toNat = 0 then some none else (oneBased n v.toNat).map some

/-- An owner item: 0 none, 1..31 a station (item 7). -/
def ownerItem (v : BitVec 16) : Option (Option Station) :=
  if h : v.toNat < 32 then some (toucherOf ⟨v.toNat, h⟩) else none

/-- Item 1. -/
def modeItem (v : BitVec 16) : Option Mode :=
  match v.toNat with
  | 0 => some .auto
  | 1 => some .latch
  | 2 => some .safe
  | _ => none

/-- Item 2. -/
def sourceItem (v : BitVec 16) : Option TouchSource :=
  match v.toNat with
  | 0 => some .line
  | 1 => some .motion
  | _ => none

/-- Item 21. -/
def actionItem (v : BitVec 16) : Option Action :=
  match v.toNat with
  | 0 => some .none
  | 1 => some .hold
  | 2 => some .duck
  | 3 => some .mute
  | _ => none

/-- Item 24: a level in −900..+100, not clamped (R11). -/
def lawItem (v : BitVec 16) : Option Level :=
  if off ≤ v.toInt ∧ v.toInt ≤ Config.levelTop then some v.toInt else none

/-- The item enters the channel's record if the index is a channel and the value is in range. -/
def enterChannel {α : Type} (k : Configuration) (index : Nat) (value : Option α)
    (f : ChannelConfig → α → ChannelConfig) : Option Configuration := do
  let c ← oneBased 24 index
  let v ← value
  some { k with chan := k.chan.modify c fun x => f x v }

/-- The item enters the master's record if the index is a master and the value is in range. -/
def enterMaster {α : Type} (k : Configuration) (index : Nat) (value : Option α)
    (f : MasterConfig → α → MasterConfig) : Option Configuration := do
  let m ← oneBased 8 index
  let v ← value
  some { k with master := k.master.modify m fun x => f x v }

/-- A station item enters if its index is 0 and its value is in range. -/
def enterStation {α : Type} (index : Nat) (value : Option α) (f : α → Configuration) : Option Configuration :=
  if index = 0 then value.map f else none

/-- The configuration with one item entered, or `none` where the code, the index or the value is not one of
§8.7.1 (R156). -/
def enterItem (k : Configuration) (code index : Nat) (v : BitVec 16) : Option Configuration :=
  match code with
  | 1 => enterChannel k index (modeItem v) fun x a => { x with mode := a }
  | 2 => enterChannel k index (sourceItem v) fun x a => { x with source := a }
  | 3 => enterChannel k index (levelItem v) fun x a => { x with ceiling := clampCeiling a }
  | 4 => enterChannel k index (rangeItem v 0 255) fun x a => { x with masters := BitVec.ofNat 8 a }
  | 5 => enterChannel k index (some v) fun x a => { x with groups := a }
  | 6 => enterChannel k index (optionItem 32 v) fun x a => { x with link := a }
  | 7 => enterMaster k index (ownerItem v) fun x a => { x with owner := a }
  | 8 => enterMaster k index (optionItem 4 v) fun x a => { x with slot := a }
  | 9 => do
    let i ← oneBased 8 index
    let g ← optionItem 16 v
    some { k with keyMap := k.keyMap.set i g }
  | 10 => enterStation index (rangeItem v 0 63) fun a => { k with deadband := a }
  | 11 => enterStation index (rangeItem v 1 15) fun a => { k with faultCount := a }
  | 12 => enterStation index (rangeItem v 10 200) fun a => { k with quietTime := a }
  | 13 => enterStation index (rangeItem v 0 1000) fun a => { k with returnTime := a }
  | 14 => enterStation index (some v.toNat) fun a => { k with backTime := a }
  | 15 => enterStation index (some v.toNat) fun a => { k with gotoTime := a }
  | 16 => enterStation index (rangeItem v 0 200) fun a => { k with guardWindow := a }
  | 17 => enterStation index (rangeItem v 0 31) fun a => { k with readbackWindow := a }
  | 18 => enterStation index (rangeItem v 1 15) fun a => { k with readbackLimit := a }
  | 19 => enterStation index (levelItem v) fun a => { k with duck := clampDuck a }
  | 20 => enterStation index (rangeItem v 0 1000) fun a => { k with recoveryTime := a }
  | 21 => do
    let i ← oneBased 4 index
    let a ← actionItem v
    some { k with actions := k.actions.set i a }
  | 22 =>
    if index = 0 then (rangeItem v 1 6).map fun a => { k with unlockLength := a }
    else do
      let i ← oneBased 6 index
      let a ← rangeItem v 0 35
      some { k with unlockCodes := k.unlockCodes.set i a }
  | 23 => enterStation index (rangeItem v 0 1) fun a => { k with lockAtStart := a == 1 }
  | 24 =>
    if h : index < 16 then (lawItem v).map fun a => { k with law := k.law.set ⟨index, h⟩ a } else none
  | 25 => enterStation index (rangeItem v 0 31) fun a => { k with scanStart := a }
  | 26 => enterStation index (rangeItem v 0 31) fun a => { k with scanStop := a }
  | 27 => enterStation index (rangeItem v 0 4095) fun a => { k with faultMask := BitVec.ofNat 12 a }
  | _ => none

/-- The unlock sequence: the first code positions, as many as the length (§8.7.1, item 22). -/
def Configuration.unlockSequence (k : Configuration) : List Nat :=
  ((List.finRange 6).map k.unlockCodes.get).take k.unlockLength

/-- The scan start in force: one greater than the scan stop is taken as equal to it (R82). -/
def Configuration.scanFirst (k : Configuration) : Nat := min k.scanStart k.scanStop

/-! ## Messages this station sends (§8.2, §8.9) -/

/-- The kind code of a message (§8.2). -/
def Msg.kind : Msg → Nat
  | .go .. => 1
  | .goto .. => 2
  | .hold => 3
  | .resume => 4
  | .link .. => 8
  | .muteGroup .. => 12
  | .groupLevel .. => 16
  | .presence .. => 20
  | .statusReply .. => 33

/-- The identifier of a message sent by a station: kind times 32 plus the station number (§8.2). -/
def identifier (sender : Station) (m : Msg) : Nat := m.kind * 32 + sender.val

def linkActionCode : LinkAction → Nat
  | .touch => 0
  | .release => 1
  | .state => 2

/-- A station that may be none, as a field: 0 means none. -/
def stationField (s : Option Station) : Nat := (s.map Fin.val).getD 0

/-- The payload of a message as its number of bytes and one number, first byte most significant (§8.9). The manual gives
no layout for MUTE_GROUP. -/
def Msg.payload : Msg → Option ((n : Nat) × BitVec (8 * n))
  | .go cue cause => some ⟨2, BitVec.ofNat 12 cue.val ++ BitVec.ofBool (cause == .follow) ++ 0#3⟩
  | .goto cue fade reason =>
    some ⟨4, BitVec.ofNat 12 cue.val ++ BitVec.ofNat 16 fade ++ BitVec.ofBool (reason == .back) ++ 0#3⟩
  | .hold => some ⟨0, 0#0⟩
  | .resume => some ⟨0, 0#0⟩
  | .link l a stamp toucher held level =>
    some ⟨6, BitVec.ofNat 5 l.val ++ BitVec.ofNat 2 (linkActionCode a) ++ BitVec.ofNat 24 stamp
      ++ BitVec.ofNat 5 (stationField toucher) ++ BitVec.ofBool held ++ levelField level⟩
  | .muteGroup .. => none
  | .groupLevel m level => some ⟨2, BitVec.ofNat 3 m.val ++ levelField level ++ 0#2⟩
  | .presence joining held cue mask summary =>
    some ⟨5, BitVec.ofBool joining ++ BitVec.ofBool held ++ BitVec.ofNat 12 cue.val ++ mask ++ summary ++ 0#2⟩
  | .statusReply _ payload => some ⟨8, payload⟩

end Sys2Proof.Machine
end

