-- ==== Sys2Proof/Machine/Lookups.lean ====
section
/-! DEFINITION. What the blocks answer when another block reads them: configuration accessors, the store's lookups (§2.4),
the state of the panel, of links, masters and groups, and of the link side. None of them changes the state. -/

namespace Sys2Proof.Machine

/-! ## Configuration -/

def State.config (s : State) : Configuration := s.sl.config
def State.mode (s : State) (c : Channel) : Mode := (s.config.chan.get c).mode
def State.linkOf (s : State) (c : Channel) : Option LinkNo := (s.config.chan.get c).link
def State.source (s : State) (c : Channel) : TouchSource := (s.config.chan.get c).source

/-! ## The store's lookups -/

/-- The steps of cue `n`, in list order (R33). -/
def CueStore.stepsOf (cs : CueStore) (n : Cue) : List CueStep := cs.steps.filter fun st => decide (st.cue = n)

/-- The header of cue `n`, if it is listed (R18). -/
def CueStore.header (cs : CueStore) (n : Cue) : Option Header := cs.headers.find? fun h => decide (h.cue = n)

/-- The smaller of two cue numbers, the first perhaps missing. -/
def lowerCue (best : Option Cue) (n : Cue) : Option Cue :=
  match best with
  | none => some n
  | some b => if n.val < b.val then some n else some b

/-- The greater of two cue numbers, the first perhaps missing. -/
def higherCue (best : Option Cue) (n : Cue) : Option Cue :=
  match best with
  | none => some n
  | some b => if b.val < n.val then some n else some b

/-- The smallest listed cue greater than `c` (R34). -/
def CueStore.next (cs : CueStore) (c : Cue) : Option Cue :=
  ((cs.headers.map Header.cue).filter fun n => decide (c.val < n.val)).foldl lowerCue none

/-- The greatest listed cue less than `c` (R34). -/
def CueStore.previous (cs : CueStore) (c : Cue) : Option Cue :=
  ((cs.headers.map Header.cue).filter fun n => decide (n.val < c.val)).foldl higherCue none

/-- The bank entry that governs a cue (R19). -/
def CueStore.bankOf (cs : CueStore) (n : Cue) : Bank := cs.banks.get ⟨n.val / 256, by omega⟩

/-- Whether a bank lets a local GO, follow or BACK through (R46, R47, R51). -/
def Bank.allowsLocal (b : Bank) : Bool := b.localGo && b.kind != .parked

/-- Whether a bank lets a received GO or GOTO through (R48, R50, R57). -/
def Bank.allowsRemote (b : Bank) : Bool := b.remoteGo && b.kind != .parked

/-- The later step of a channel that satisfies `p`, of the best so far and the next one in the list. -/
def laterStep (p : CueStep → Bool) (best : Option CueStep) (st : CueStep) : Option CueStep :=
  if p st then
    match best with
    | none => some st
    | some b => if b.cue.val ≤ st.cue.val then some st else some b
  else best

/-- The step for channel `c` with the greatest cue number not above `n` among those that satisfy `p`. -/
def CueStore.latest (cs : CueStore) (c : Channel) (n : Cue) (p : CueStep → Bool) : Option CueStep :=
  cs.steps.foldl (laterStep fun st => decide (st.channel = c) && decide (st.cue.val ≤ n.val) && p st) none

/-- The tracked level of channel `c` at cue `n` (R35). -/
def CueStore.trackedLevel (cs : CueStore) (c : Channel) (n : Cue) : Level :=
  ((cs.latest c n fun st => st.level.isSome).bind CueStep.level).getD off

/-- Whether channel `c` is tracked muted at cue `n` (R36). -/
def CueStore.trackedMute (cs : CueStore) (c : Channel) (n : Cue) : Bool :=
  match cs.latest c n fun st => st.mute != .none with
  | none => false
  | some st => st.mute == .mute

/-- The TABLE_FULL condition (R23). -/
def CueStore.full (cs : CueStore) : Bool :=
  decide (Config.maxSteps ≤ cs.steps.length) || decide (Config.maxHeaders ≤ cs.headers.length)

/-! ## Panel, takeover, groups, link side -/

/-- Whether the panel accepts operator input (R88). -/
def State.acceptsInput (s : State) : Bool := s.sl.state == .running && !s.pi.locked

/-- The sense slot of a channel's fader, and of a master fader slot (§5.1). -/
def channelSlot (c : Channel) : FaderSlot := ⟨c.val, by omega⟩
def masterSlot (k : Fin 4) : FaderSlot := ⟨k.val + 24, by omega⟩

/-- The fader level of a channel (R85). -/
def State.faderLevel (s : State) (c : Channel) : Level := (s.pi.slot.get (channelSlot c)).level

/-- The source level of a channel (R103). A RETURNING channel's glide takes the cue level as its live target (R110). -/
def State.sourceLevel (s : State) (c : Channel) : Level :=
  let ch := s.tk.chan.get c
  let cueLevel := (s.fe.chan.get c).cueLevel
  match ch.state with
  | .cue => cueLevel
  | .touched => ch.manual
  | .latched => ch.manual
  | .returning => (ch.glide.map fun g => g.level cueLevel).getD cueLevel
  | .overridden => cueLevel
  | .safeManual => s.faderLevel c

/-- Whether this station holds a link (R112). -/
def State.holdsLink (s : State) (l : LinkNo) : Bool := (s.tk.link.get l).holder == some s.sl.station

/-- Whether any channel of this station is a member of a link (R116). -/
def State.hasMember (s : State) (l : LinkNo) : Bool := anyIndex 24 fun c => s.linkOf c == some l

/-- Whether a master is owned here (R124). -/
def State.ownedHere (s : State) (m : MasterNo) : Bool := (s.config.master.get m).owner == some s.sl.station

/-- Whether a channel's master set holds a master, and its mute group set a group (§8.7.1). -/
def State.inMaster (s : State) (c : Channel) (m : MasterNo) : Bool := (s.config.chan.get c).masters.getLsbD m.val
def State.inGroup (s : State) (c : Channel) (g : GroupNo) : Bool := (s.config.chan.get c).groups.getLsbD g.val

/-- Whether a group is muting: its asserter set is nonempty (R131). -/
def State.muting (s : State) (g : GroupNo) : Bool := anyIndex 32 fun n => (s.sg.asserters.get g).get n

/-- Whether a group in the channel's mute group set is muting (R14). -/
def State.groupMuted (s : State) (c : Channel) : Bool := anyIndex 16 fun g => s.inGroup c g && s.muting g

/-- The group stale condition of a channel (R128). -/
def State.groupStale (s : State) (c : Channel) : Bool :=
  anyIndex 8 fun m => s.inMaster c m && !(s.sg.master.get m).fresh

/-- Whether the controller is bus-off (R148). -/
def State.busOff (s : State) : Bool := decide (Config.busOffAt ≤ s.sl.txErrors)

/-- Whether the controller is error-passive (R148). -/
def State.errorPassive (s : State) : Bool :=
  decide (Config.passiveAt ≤ s.sl.txErrors) || decide (Config.passiveAt ≤ s.sl.rxErrors)

/-- The link side (R148, R150). -/
def State.linkSide (s : State) : LinkSide :=
  if s.busOff then .linkOff else if s.sl.aloneCond then .alone else .normal

/-- Whether the station acknowledges the frames it receives without error (R142). -/
def State.acknowledges (s : State) : Bool := s.sl.station != 0 && !s.busOff

/-- Whether a station is a PRESENT peer (R112, R151). -/
def State.present (s : State) (p : Station) : Bool :=
  p != 0 && p != s.sl.station && (s.sl.peer.get p).state == .present

/-- The number of PRESENT peers (R150). -/
def State.presentCount (s : State) : Nat := countIndex 32 fun p => s.present p

/-- Whether a stamp is within the guard window (R39). -/
def State.withinGuard (s : State) (stamp : Option (BitVec 32)) : Bool :=
  match stamp with
  | none => false
  | some st => decide ((s.seq.frameCount - st).toNat < s.config.guardWindow)

/-- The own assertion mask: MG`g` on bit `g − 1` (R152). -/
def State.ownMask (s : State) : BitVec 16 := BitVec.ofNat 16 (maskNat 16 fun g => s.pi.ownAssert.get g)

end Sys2Proof.Machine
end

