-- ==== Sys2Proof/Machine/Flags.lean ====
section
/-! DEFINITION. The station fault record: sticky flags, counters, the last refusal reason, the conditions behind the
condition flags, and the FAULT line (§10.3). -/

namespace Sys2Proof.Machine

/-- The bit of a flag: flag `n` of §8.7.1 on bit `n − 1`. -/
def Flag.bit : Flag → Fin 12
  | .calFault => 0
  | .configRejected => 1
  | .tableFull => 2
  | .loadRefused => 3
  | .txOverflow => 4
  | .linkOff => 5
  | .linkAlone => 6
  | .stationClash => 7
  | .goRefused => 8
  | .anyFaderFault => 9
  | .anyGroupStale => 10
  | .anyReadbackMismatch => 11

/-- The flag on a bit. -/
def flagAt (b : Fin 12) : Flag :=
  match b with
  | 0 => .calFault
  | 1 => .configRejected
  | 2 => .tableFull
  | 3 => .loadRefused
  | 4 => .txOverflow
  | 5 => .linkOff
  | 6 => .linkAlone
  | 7 => .stationClash
  | 8 => .goRefused
  | 9 => .anyFaderFault
  | 10 => .anyGroupStale
  | 11 => .anyReadbackMismatch

/-- Whether a flag is set. -/
def State.flag (s : State) (f : Flag) : Bool := s.fi.flags.get f.bit

/-- Set a flag. -/
def State.setFlag (s : State) (f : Flag) : State := { s with fi.flags := s.fi.flags.set f.bit true }

/-- A counter raised by one; at 63 it stays (R176). -/
def bump (n : Nat) : Nat := if n < Config.counterTop then n + 1 else n

/-- Count a remote message ignored (R55, R143). -/
def State.countIgnored (s : State) : State :=
  { s with fi.counters.remoteIgnored := bump s.fi.counters.remoteIgnored }

/-- Count a transmit drop (R145, R147, R148). -/
def State.countDrop (s : State) : State := { s with fi.counters.txDrops := bump s.fi.counters.txDrops }

/-- A refused store or configuration message (R23, R156). -/
def State.refuseLoad (s : State) (r : Reason) : State :=
  let s1 := { s.setFlag .loadRefused with
    fi.counters.loadsRefused := bump s.fi.counters.loadsRefused
    fi.lastReason := some r }
  if r = .tableFull then s1.setFlag .tableFull else s1

/-- A refused local GO, follow or BACK (R54); the burst timer starts afresh (R178). -/
def State.refuseGo (s : State) : State :=
  { s.setFlag .goRefused with
    fi.counters.goRefused := bump s.fi.counters.goRefused
    fi.burstTimer := .running Config.burstMs }

/-- Whether the condition of a condition flag is present at its source; an event flag has no condition (R176). -/
def State.condition (s : State) : Flag → Bool
  | .calFault => s.pi.calFault
  | .configRejected => false
  | .tableFull => s.cs.full
  | .loadRefused => false
  | .txOverflow => false
  | .linkOff => s.busOff
  | .linkAlone => s.sl.aloneCond
  | .stationClash => s.sl.clashCond
  | .goRefused => false
  | .anyFaderFault => anyIndex 28 fun k => (s.pi.slot.get k).faulted
  | .anyGroupStale => anyIndex 24 fun c => s.groupStale c
  | .anyReadbackMismatch => anyIndex 24 fun c => (s.gp.chan.get c).mismatch

/-- FI takes the conditions behind the flags: a flag whose condition has become present is set (R176). -/
def State.takeConditions (s : State) : State :=
  { s with
    fi.taken := Table.ofFn fun b => s.condition (flagAt b)
    fi.flags := Table.ofFn fun b => s.fi.flags.get b || (s.condition (flagAt b) && !s.fi.taken.get b) }

/-- The clearing of a STATUS_REQUEST: every event flag, and every condition flag whose condition is absent (R177). -/
def State.clearSpent (s : State) : State :=
  { s with fi.flags := Table.ofFn fun b => s.fi.flags.get b && s.condition (flagAt b) }

/-- Whether the FAULT line is driven active: some flag is set that the mask does not mask (R177). -/
def State.faultActive (s : State) : Bool :=
  anyIndex 12 fun b => s.fi.flags.get b && !s.config.faultMask.getLsbD b.val

/-- The three conditions of a channel at their sources (R171). -/
def State.channelConditions (s : State) (c : Channel) : ChannelConditions :=
  { faderFault := (s.pi.slot.get (channelSlot c)).faulted
    groupStale := s.groupStale c
    mismatch := (s.gp.chan.get c).mismatch }

/-- The rank of an action (R172). -/
def Action.rank : Action → Nat
  | .none => 0
  | .hold => 1
  | .duck => 2
  | .mute => 3

/-- The higher of two actions. -/
def Action.max (a b : Action) : Action := if a.rank < b.rank then b else a

/-- The action a condition adds: the mapped action while present, NONE otherwise (R172). -/
def mapped (present : Bool) (a : Action) : Action := if present then a else .none

/-- The effective action of a channel under its conditions and the station's LINK_OFF condition (R172). -/
def Configuration.effective (k : Configuration) (cond : ChannelConditions) (linkOff : Bool) : Action :=
  (mapped cond.faderFault (k.actions.get 0)).max <|
    (mapped cond.groupStale (k.actions.get 1)).max <|
      (mapped cond.mismatch (k.actions.get 2)).max (mapped linkOff (k.actions.get 3))

end Sys2Proof.Machine
end

