-- ==== Sys2Proof/Machine/Compose.lean ====
section
/-! DEFINITION. The Gain Composer (R12 to R16, R173, R174), the indicators (R178, R179), and what every event ends with:
the composed and applied levels, the conditions, actions and indicators follow from what the event left, and each channel
whose applied level changed is marked for the gain port (R162). -/

namespace Sys2Proof.Machine

/-! ## Composition -/

/-- The levels of the masters in a channel's master set. -/
def State.masterLevels (s : State) (c : Channel) : List Level :=
  ((List.finRange 8).filter fun m => s.inMaster c m).map fun m => (s.sg.master.get m).level

/-- Whether a mute bears on a channel (R14). -/
def State.isMuted (s : State) (c : Channel) : Bool :=
  (s.fe.chan.get c).cueMute || s.pi.panelMute.get c || s.groupMuted c

/-- The composed level of a channel, from its inputs as they stand (R12, R13, R14). -/
def State.composedLevel (s : State) (c : Channel) : Level :=
  if s.isMuted c then off
  else saturate (s.config.chan.get c).ceiling (levelSum (s.sourceLevel c) (s.masterLevels c))

/-! ## The protective-action stage -/

/-- The applied level that a channel's action state gives (R174). -/
def ComposerChannel.level (g : ComposerChannel) (duck : Level) : Level :=
  match g.action with
  | .none => g.composed
  | .hold => g.held.getD g.applied
  | .duck => ducked duck g.composed
  | .mute => off
  | .recovering => (g.glide.map fun r => r.level g.composed).getD g.composed

/-- The applied level formed afresh. -/
def ComposerChannel.form (g : ComposerChannel) (duck : Level) : ComposerChannel := { g with applied := g.level duck }

/-- The channel under a newly handed effective action (R173). -/
def ComposerChannel.hand (g : ComposerChannel) (a : Action) (recoveryTime : Nat) : ComposerChannel :=
  match a with
  | .hold => { g with action := .hold, held := some g.applied, glide := none }
  | .duck => { g with action := .duck, held := none, glide := none }
  | .mute => { g with action := .mute, held := none, glide := none }
  | .none =>
    if recoveryTime = 0 then { g with action := .none, held := none, glide := none }
    else { g with action := .recovering, held := none, glide := some ⟨g.applied, 0, recoveryTime⟩ }

/-- The effective action of a channel, evaluated from the conditions at their sources (R172). -/
def State.effectiveAction (s : State) (c : Channel) : Action :=
  s.config.effective (s.channelConditions c) s.busOff

/-- GC's record of a channel brought up to the inputs: the composed level first, then the applied level under the action
state as it stands, then the action handed by FI, if it is a new one (R15, R173, R174). That a level comes before an action where
one event brings both is read from R87, R127 and R130 (DEDUCED, log 13). -/
def State.composeChannel (s : State) (c : Channel) (g : ComposerChannel) : ComposerChannel :=
  let g1 := { g with composed := s.composedLevel c }.form s.config.duck
  if s.effectiveAction c = s.fi.effective.get c then g1
  else (g1.hand (s.effectiveAction c) s.config.recoveryTime).form s.config.duck

/-- FI takes a change of one of a channel's conditions at once: a new effective action is handed to GC, which takes it from the
applied level as it stands (R172, R173). -/
def State.handAction (c : Channel) (s : State) : State :=
  if s.effectiveAction c = s.fi.effective.get c then s
  else
    { s with
      gc.chan := s.gc.chan.modify c fun g => (g.hand (s.effectiveAction c) s.config.recoveryTime).form s.config.duck
      fi.effective := s.fi.effective.set c (s.effectiveAction c) }

/-- Every channel composed, and its conditions and effective action as FI now holds them. -/
def State.compose (s : State) : State :=
  { s with
    gc.chan := s.gc.chan.mapAt s.composeChannel
    fi.cond := Table.ofFn s.channelConditions
    fi.effective := Table.ofFn s.effectiveAction }

/-! ## Indicators -/

/-- The pattern of a channel's STATE LED (R179). -/
def State.statePattern (s : State) (c : Channel) : Pattern :=
  if (s.channelConditions c).faderFault then .fast
  else
    match (s.tk.chan.get c).state with
    | .overridden => .pulse
    | .touched => .steady
    | .latched => .slow
    | .returning => .pulse
    | .safeManual => .slow
    | .cue => .off

/-- The pattern of a channel's MUTE LED (R179). -/
def State.mutePattern (s : State) (c : Channel) : Pattern :=
  if (s.gc.chan.get c).action = .mute then .fast
  else if s.pi.panelMute.get c then .steady
  else if (s.fe.chan.get c).cueMute || s.groupMuted c then .slow
  else .off

/-- Whether a next cue exists that the GO key may take (R56, R179). -/
def State.goReady (s : State) : Bool :=
  match s.cs.next s.seq.currentCue with
  | none => false
  | some n => (s.cs.bankOf n).allowsLocal

/-- The pattern of the GO LED: a running burst shows FAST over the underlying pattern (R178, R179). -/
def State.goPattern (s : State) : Pattern :=
  if s.fi.burstTimer ≠ .stopped then .fast
  else if s.seq.held then .slow
  else if s.goReady then .steady
  else .off

/-- The pattern of the STATION LED (R179). -/
def State.stationPattern (s : State) : Pattern :=
  if s.sl.state = .joining then .pulse
  else if s.busOff || s.sl.clashCond then .fast
  else if s.sl.aloneCond then .slow
  else .steady

/-- The LEDs and the FAULT line driven from what the blocks now hold (R177, R179). -/
def State.drive (s : State) : State :=
  { s with
    fi.faultLine := s.faultActive
    fi.stateLed := Table.ofFn s.statePattern
    fi.muteLed := Table.ofFn s.mutePattern
    fi.goLed := s.goPattern
    fi.stationLed := s.stationPattern }

/-- Whether an LED showing a pattern is lit at an indicator phase (R178). -/
def Pattern.lit (p : Pattern) (phase : Nat) : Bool :=
  match p with
  | .steady => true
  | .slow => decide (phase % 2000 < 1000)
  | .pulse => decide (phase % 1200 < 150)
  | .fast => decide (phase % 250 < 125)
  | .off => false

/-! ## The end of an event -/

/-- GC, FI and the indicators brought up to what the other blocks hold. -/
def State.settle (s : State) : State := s.compose.takeConditions.drive

/-- A mark from GC: the channel joins the end of the update queue if it is not in it and its applied level differs from
its last-sent level, or it has none (R162). -/
def State.mark (c : Channel) (s : State) : State :=
  if c ∉ s.gp.queue ∧ (s.gp.chan.get c).lastSent ≠ some (s.gc.chan.get c).applied then
    { s with gp.queue := s.gp.queue ++ [c] }
  else s

/-- The marks of an event that began in `before`: one for each channel whose applied level it changed (R162, R174),
in ascending channel order (log 6). -/
def State.markChanges (s before : State) : State :=
  forEach 24 (fun c t => if (s.gc.chan.get c).applied = (before.gc.chan.get c).applied then t else t.mark c) s

/-- The end of an event that began in `before` and has done its work in `s`. -/
def State.commit (s before : State) : State := s.settle.markChanges before

end Sys2Proof.Machine
end

