-- ==== Sys2Proof/Machine/Ops.lean ====
section
/-! DEFINITION. Operations several blocks share: queueing a message (R145 to R148), building a PRESENCE and a LINK,
taking a received frame (R143, R144, R151), and answering a command. -/

namespace Sys2Proof.Machine

/-! ## The transmit queue -/

/-- Whether a new message and a waiting one have the same coalescing key (R146). -/
def Msg.sameKey : Msg → Msg → Bool
  | .groupLevel m _, .groupLevel n _ => m == n
  | .link l _ _ _ _ _, .link k _ _ _ _ _ => l == k
  | .presence j _ _ _ _, .presence i _ _ _ _ => j == i
  | _, _ => false

/-- A waiting entry with new content; it is marked amended if its frame is on the line (R146). -/
def TxEntry.amend (e : TxEntry) (m : Msg) : TxEntry :=
  { e with msg := m, amended := e.amended || e.sending.isSome }

/-- The queue with every entry of the message's key amended (R146; there is at most one). -/
def amendKey (m : Msg) (q : List TxEntry) : List TxEntry :=
  q.map fun e => if m.sameKey e.msg then e.amend m else e

/-- An entry placed behind every entry of its kind or a lower one (R145). -/
def placeEntry (e : TxEntry) : List TxEntry → List TxEntry
  | [] => [e]
  | x :: rest => if e.msg.kind < x.msg.kind then e :: x :: rest else x :: placeEntry e rest

/-- The highest kind code among the entries whose frame is not on the line (R147). -/
def worstKind (q : List TxEntry) : Nat :=
  (q.filter fun e => e.sending.isNone).foldl (fun k e => max k e.msg.kind) 0

/-- The queue without its newest entry of kind `k` whose frame is not on the line (R147). -/
def dropNewest (k : Nat) (q : List TxEntry) : List TxEntry :=
  (q.reverse.eraseP fun e => e.sending.isNone && e.msg.kind == k).reverse

/-- The queue after a message joins it, coalesced or placed, at the expense of another if it is full; and whether a message
was dropped for want of room (R145, R146, R147). -/
def joinQueue (m : Msg) (q : List TxEntry) : List TxEntry × Bool :=
  let e : TxEntry := ⟨m, 0, false, none⟩
  if q.any fun x => m.sameKey x.msg then (amendKey m q, false)
  else if q.length < Config.maxQueue then (placeEntry e q, false)
  else if m.kind < worstKind q then (placeEntry e (dropNewest (worstKind q) q), true)
  else (q, true)

/-- A block queues a message (R145). A silent station discards it uncounted (R141); in LINK_OFF it is discarded and counted
(R148). -/
def State.enqueue (s : State) (m : Msg) : State :=
  if s.sl.station = 0 then s
  else if s.busOff then s.countDrop
  else
    let r := joinQueue m s.sl.queue
    let s1 := { s with sl.queue := r.1 }
    if r.2 then (s1.setFlag .txOverflow).countDrop else s1

/-! ## Messages built from the state -/

/-- The fault summary of a PRESENCE: FAULT line and seven flags (§8.9, R177), bit 9 of the payload first. -/
def State.faultSummary (s : State) : BitVec 8 :=
  BitVec.ofBool s.faultActive ++ BitVec.ofBool (s.flag .calFault) ++ BitVec.ofBool (s.flag .anyFaderFault)
    ++ BitVec.ofBool (s.flag .anyGroupStale) ++ BitVec.ofBool (s.flag .anyReadbackMismatch)
    ++ BitVec.ofBool (s.flag .linkAlone) ++ BitVec.ofBool (s.flag .tableFull) ++ BitVec.ofBool (s.flag .stationClash)

/-- The PRESENCE of this station as its state stands (R152). -/
def State.presenceMsg (s : State) : Msg :=
  .presence (s.sl.state == .joining) s.seq.held s.seq.currentCue s.ownMask s.faultSummary

/-- Queue a PRESENCE (R152). -/
def State.queuePresence (s : State) : State := s.enqueue s.presenceMsg

/-- The LINK of a link record (R113): in a TOUCH and a RELEASE the toucher is this station and the held flag is set and clear;
in a STATE they are the record's. -/
def State.linkMsg (s : State) (l : LinkNo) (a : LinkAction) : Msg :=
  let r := s.tk.link.get l
  match a with
  | .touch => .link l .touch r.stamp (some s.sl.station) true r.level
  | .release => .link l .release r.stamp (some s.sl.station) false r.level
  | .state => .link l .state r.stamp r.lastToucher r.held r.level

/-- Queue a LINK (R113). -/
def State.queueLink (l : LinkNo) (a : LinkAction) (s : State) : State := s.enqueue (s.linkMsg l a)

/-- Queue the GROUP_LEVEL of a master if it is owned here and FRESH (R126). -/
def State.queueLevel (m : MasterNo) (s : State) : State :=
  if s.ownedHere m && (s.sg.master.get m).fresh then s.enqueue (.groupLevel m (s.sg.master.get m).level) else s

/-- Queue a GROUP_LEVEL for every owned-here master that is FRESH (R126, R149, R153). DESIGN CHOICE (log 23): in ascending master
number. -/
def State.queueLevels (s : State) : State := forEach 8 State.queueLevel s

/-! ## Receiving -/

/-- The alone condition ends and the alone timer stops: a peer entry has become PRESENT (R150). -/
def State.endAlone (s : State) : State := { s with sl.aloneTimer := .stopped, sl.aloneCond := false }

/-- A peer has been heard: its entry becomes PRESENT and its silence timer starts afresh (R151). -/
def State.hearPeer (s : State) (p : Station) : State :=
  let was := (s.sl.peer.get p).state
  let s1 := { s with sl.peer := s.sl.peer.modify p fun e => { e with state := .present, silence := .running Config.silenceMs } }
  if was = .present then s1 else s1.endAlone

/-- The clash condition becomes present and the clash timer starts afresh (R144); FI sets STATION_CLASH at once if the
condition was absent (R176), so that what this event builds later finds the flag set. -/
def State.beginClash (s : State) : State :=
  { s with
    sl.clashCond := true
    sl.clashTimer := .running Config.clashMs
    fi.flags := if s.sl.clashCond then s.fi.flags else s.fi.flags.set Flag.stationClash.bit true }

/-- A frame received without error lowers the receive error count by 1 (R148). -/
def State.countReceived (s : State) : State := { s with sl.rxErrors := s.sl.rxErrors - 1 }

/-- What the sender of a data frame brings about before the frame goes further (R143): a clash if it is this station's own
number (R144), else the update of its peer entry (R151). -/
def State.hearSender (s : State) (sender : Station) : State :=
  if sender = s.sl.station then s.beginClash else s.hearPeer sender

/-- A frame received without error from a sender other than 0, as far as SL itself goes: the receive error count falls, then
the peer entry is updated or the clash begins (R143, R148). -/
def State.heard (s : State) (sender : Station) : State := s.countReceived.hearSender sender

/-- A data frame received without error from `sender`: ignored and counted if the sender is 0, otherwise handed on to
`body` (R143). At a silent station a sender of 0 is this station's own number as well, and the clash comes first. -/
def State.receive (s : State) (sender : Station) (body : State → State) : State :=
  if sender = 0 then
    (if s.sl.station = 0 then s.countReceived.beginClash else s.countReceived).countIgnored
  else body (s.heard sender)

/-- Whether an addressed message reaches this station: its target is this station's number or 0 (R22, R143). -/
def State.addressed (s : State) (target : Station) : Bool := target == s.sl.station || target == 0

/-- An addressed message: handed on if it reaches this station, otherwise it stops, uncounted (R143). -/
def State.receiveAddressed (s : State) (sender target : Station) (body : State → State) : State :=
  s.receive sender fun t => if t.addressed target then body t else t

/-! ## Answering a command -/

/-- The outcome of a command whose event does `work`. Every event of the manual leaves the part in a next state. -/
def State.take (s : State) (work : State → State) : Host.Outcome State Fault Refusal := .next ((work s).commit s)

/-- The outcome of a command that names an event of which `enabled` says whether it can come about in this state: where it
cannot (an expiry of a stopped timer, the end of a frame that is not on the line), there is no such event, and the state is
left as it is (log 4). -/
def State.takeWhen (s : State) (enabled : Bool) (work : State → State) : Host.Outcome State Fault Refusal :=
  if enabled then s.take work else .next s

end Sys2Proof.Machine
end

