-- ==== Sys2Proof/Machine/Takeover.lean ====
section
/-! DEFINITION. Takeover and Spread Links: takeover states, return glides, link records and touching lists (chapter 6). -/

namespace Sys2Proof.Machine

/-! ## Updates -/

/-- A change of one channel's takeover record. -/
def State.modifyTk (s : State) (c : Channel) (f : TakeoverChannel → TakeoverChannel) : State :=
  { s with tk.chan := s.tk.chan.modify c f }

/-- A change of one link record. -/
def State.modifyLink (s : State) (l : LinkNo) (f : LinkRecord → LinkRecord) : State :=
  { s with tk.link := s.tk.link.modify l f }

/-- Whether a channel is a member of a link that follows it: in AUTO or LATCH mode (R118). -/
def State.follows (s : State) (l : LinkNo) (c : Channel) : Bool := s.linkOf c == some l && s.mode c != .safe

/-! ## Release transition and the effects on members (R106, R118) -/

/-- The release transition of a channel (R106): in AUTO a return glide from the manual level, or CUE at once with a return
time of 0; in LATCH the latched level. -/
def TakeoverChannel.release (ch : TakeoverChannel) (mode : Mode) (returnTime : Nat) : TakeoverChannel :=
  match mode with
  | .auto =>
    if returnTime = 0 then { ch with state := .cue, glide := none }
    else { ch with state := .returning, glide := some ⟨ch.manual, 0, returnTime⟩ }
  | .latch => { ch with state := .latched, glide := none }
  | .safe => ch

/-- A channel made TOUCHED at a level; a running return glide is abandoned (R105, R118). -/
def TakeoverChannel.hold (ch : TakeoverChannel) (level : Level) : TakeoverChannel :=
  { ch with state := .touched, manual := level, glide := none }

/-- Hold begin: every following member becomes TOUCHED at the link level (R118). -/
def State.holdBegin (s : State) (l : LinkNo) : State :=
  { s with tk.chan := s.tk.chan.mapAt fun c ch => if s.follows l c then ch.hold (s.tk.link.get l).level else ch }

/-- Level change: every TOUCHED following member takes the link level (R118). -/
def State.levelChange (s : State) (l : LinkNo) : State :=
  { s with
    tk.chan := s.tk.chan.mapAt fun c ch =>
      if s.follows l c && ch.state == .touched then { ch with manual := (s.tk.link.get l).level } else ch }

/-- A TOUCHED member at the release of its link (R118): its manual level is the final link level, which an accepted message
may carry with the release (R104), and from there it takes its release transition. -/
def TakeoverChannel.releaseAt (ch : TakeoverChannel) (level : Level) (mode : Mode) (returnTime : Nat) : TakeoverChannel :=
  { ch with manual := level }.release mode returnTime

/-- Release: every TOUCHED following member takes its release transition from the final link level (R118; log 20). -/
def State.membersRelease (s : State) (l : LinkNo) : State :=
  { s with
    tk.chan := s.tk.chan.mapAt fun c ch =>
      if s.follows l c && ch.state == .touched then
        ch.releaseAt (s.tk.link.get l).level (s.mode c) s.config.returnTime
      else ch }

/-! ## Taking and giving up the hold (R114, R115) -/

/-- A touch begin on member `c` takes the hold of `l` at this station (R114). At a silent station the stamp and the last
toucher stand. -/
def State.takeHold (s : State) (l : LinkNo) (c : Channel) : State :=
  let own := s.sl.station
  let s1 := s.modifyLink l fun r =>
    { r with
      stamp := if own = 0 then r.stamp else min (r.stamp + 1) Config.stampTop
      lastToucher := if own = 0 then r.lastToucher else some own
      holder := some own
      held := true
      level := s.faderLevel c
      touching := r.touching.erase c ++ [c] }
  (s1.queueLink l .touch).holdBegin l

/-- The driving channel's fader level becomes the link level, and a TOUCH is queued (R115). -/
def State.driveLink (s : State) (l : LinkNo) (c : Channel) : State :=
  ((s.modifyLink l fun r => { r with level := s.faderLevel c }).queueLink l .touch).levelChange l

/-- The station gives up the hold: its touching list has become empty (R115). -/
def State.giveUp (s : State) (l : LinkNo) : State :=
  ((s.modifyLink l fun r => { r with holder := none, held := false }).queueLink l .release).membersRelease l

/-- Channel `c` leaves the touching list of `l` (R115): a new driving channel drives, or an empty list gives up the hold. -/
def State.leaveList (s : State) (l : LinkNo) (c : Channel) : State :=
  let before := (s.tk.link.get l).touching
  if c ∈ before then
    let rest := before.erase c
    let s1 := s.modifyLink l fun r => { r with touching := rest }
    match rest.getLast? with
    | none => s1.giveUp l
    | some d => if before.getLast? = some c then s1.driveLink l d else s1
  else s

/-! ## What PI and FE hand over (R105 to R109) -/

/-- A touch begin on channel `c` (R105). -/
def State.touchBegin (s : State) (c : Channel) : State :=
  let s1 := s.modifyTk c fun ch =>
    let ch1 := { ch with mark := false }
    match s.mode c, s.linkOf c with
    | .safe, _ => if ch.state = .overridden then { ch1 with state := .safeManual } else ch1
    | _, none => ch1.hold (s.faderLevel c)
    | _, some _ => ch1
  match s.linkOf c with
  | none => s1
  | some l => s1.takeHold l c

/-- A touch end on channel `c` (R106, R109, R115): a disregarded touch only clears the mark. -/
def State.touchEnd (s : State) (c : Channel) : State :=
  if (s.tk.chan.get c).mark then s.modifyTk c fun ch => { ch with mark := false }
  else
    match s.linkOf c with
    | some l => s.leaveList l c
    | none =>
      s.modifyTk c fun ch => if ch.state = .touched then ch.release (s.mode c) s.config.returnTime else ch

/-- A change of fader level on channel `c` (R106, R115): it acts on an unlinked channel whose touch is counted, or on the
link if `c` drives it. A SAFE_MANUAL channel's source level is the fader level itself (R103). -/
def State.faderChange (s : State) (c : Channel) : State :=
  match s.linkOf c with
  | none =>
    s.modifyTk c fun ch =>
      if ch.state = .touched ∧ (s.pi.touch.get c).touched ∧ !ch.mark then { ch with manual := s.faderLevel c } else ch
  | some l =>
    if (s.tk.link.get l).touching.getLast? = some c then s.driveLink l c else s

/-- A target-start notice with a clear priority mark: LATCHED becomes CUE (R107). -/
def TakeoverChannel.clearNotice (ch : TakeoverChannel) : TakeoverChannel :=
  if ch.state = .latched then { ch with state := .cue } else ch

/-- A target-start notice for channel `c` (R107, R108). With a set mark the channel becomes OVERRIDDEN, its counted touch is
disregarded from here on, and it leaves its link's touching list. -/
def State.notice (s : State) (c : Channel) (priority : Bool) : State :=
  if priority then
    let s1 := s.modifyTk c fun ch =>
      { ch with state := .overridden, glide := none, mark := ch.mark || (s.pi.touch.get c).touched }
    match s.linkOf c with
    | none => s1
    | some l => s1.leaveList l c
  else s.modifyTk c TakeoverChannel.clearNotice

/-! ## Receiving LINK messages (R116, R117, R119) -/

/-- Whether a TOUCH or STATE with stamp `t` and toucher `p` is accepted (R116). A toucher of none is lower than no station
and is no record's last toucher (log 9). -/
def LinkRecord.acceptsTouch (r : LinkRecord) (t : Nat) (p : Option Station) : Bool :=
  decide (r.stamp < t) ||
    (decide (t = r.stamp) &&
      match r.lastToucher, p with
      | some last, some n => decide (n.val ≤ last.val)
      | _, _ => false)

/-- Whether a RELEASE with stamp `t` and toucher `p` is accepted (R117). -/
def LinkRecord.acceptsRelease (r : LinkRecord) (t : Nat) (p : Option Station) : Bool :=
  decide (r.stamp < t) || (decide (t = r.stamp) && decide (r.lastToucher = p) && p.isSome)

/-- The loss of the hold, if this station holds the link: the channels on the touching list are marked and leave it (R119). -/
def State.loseHold (s : State) (l : LinkNo) : State :=
  if s.holdsLink l then
    let lost := (s.tk.link.get l).touching
    { s.modifyLink l fun r => { r with touching := [] } with
      tk.chan := s.tk.chan.mapAt fun c ch => if c ∈ lost then { ch with mark := true } else ch }
  else s

/-- The holder that an accepted TOUCH or STATE names: none where it is this station, or no PRESENT peer (R116). -/
def State.namedHolder (s : State) (p : Option Station) (held : Bool) : Option Station :=
  match p with
  | none => none
  | some n => if held && s.present n then some n else none

/-- An accepted TOUCH or STATE (R116, R118, R119). -/
def State.acceptTouch (s : State) (l : LinkNo) (t : Nat) (p : Option Station) (held : Bool) (level : Level) : State :=
  let old := s.tk.link.get l
  let lost := s.holdsLink l
  let holder := s.namedHolder p held
  let s1 := (s.loseHold l).modifyLink l fun r =>
    { r with stamp := t, lastToucher := p, level := level, holder := holder, held := holder.isSome }
  if holder.isSome then
    if !old.held || old.stamp != t || old.lastToucher != p || lost then s1.holdBegin l else s1.levelChange l
  else if old.held then s1.membersRelease l
  else s1

/-- An accepted RELEASE (R117, R118, R119). -/
def State.acceptRelease (s : State) (l : LinkNo) (t : Nat) (p : Option Station) (level : Level) : State :=
  let old := s.tk.link.get l
  let s1 := (s.loseHold l).modifyLink l fun r =>
    { r with stamp := t, lastToucher := p, level := level, holder := none, held := false }
  if old.held then s1.membersRelease l else s1

/-- The counting of a LINK that is not malformed: one for a link with no member here counts as ignored (R116). -/
def State.countForeign (s : State) (l : LinkNo) : State := if s.hasMember l then s else s.countIgnored

/-! ## Releases (R120) and answers (R121) -/

/-- A link held by `p` is released (R120). -/
def State.releaseIfHeldBy (p : Station) (l : LinkNo) (s : State) : State :=
  if (s.tk.link.get l).holder = some p then
    (s.modifyLink l fun r => { r with holder := none, held := false }).membersRelease l
  else s

/-- Every link whose holder is `p` is released (R120). -/
def State.releaseHeldBy (s : State) (p : Station) : State := forEach 32 (State.releaseIfHeldBy p) s

/-- Whether a joining station is told a link's record (R121). -/
def State.answersLink (s : State) (l : LinkNo) : Bool :=
  let r := s.tk.link.get l
  r.holder == some s.sl.station || (r.holder == none && r.lastToucher == some s.sl.station)

/-- The LINK STATEs that answer a joining station (R121, R153). DESIGN CHOICE (log 23): in ascending link number. -/
def State.answerLinks (s : State) : State :=
  forEach 32 (fun l t => if t.answersLink l then t.queueLink l .state else t) s

/-- The TOUCHes that re-announce the held links at the end of LINK_OFF (R113, R149). DESIGN CHOICE (log 23): in ascending link
number. -/
def State.announceLinks (s : State) : State :=
  forEach 32 (fun l t => if t.holdsLink l then t.queueLink l .touch else t) s

/-! ## The return glide (R110) -/

/-- A return glide that has reached its duration ends: the channel becomes CUE (R110). -/
def TakeoverChannel.endGlide (ch : TakeoverChannel) : TakeoverChannel :=
  match ch.glide with
  | none => ch
  | some g => if g.duration ≤ g.elapsed then { ch with state := .cue, glide := none } else ch

/-- One glide timer expiry on one channel (R110). -/
def TakeoverChannel.advanceGlide (ch : TakeoverChannel) : TakeoverChannel :=
  match ch.glide with
  | none => ch
  | some g => { ch with glide := some { g with elapsed := g.elapsed + 1 } }.endGlide

/-! ## Meanings -/

/-- LINK TOUCH (R116). -/
def execLinkTouch (sender : Station) (link : LinkNo) (stamp : Fin 16777216) (toucher : Station) (_held : Bool)
    (level : BitVec 11) (s : State) : Host.Outcome State Fault Refusal :=
  s.take fun s => s.receive sender fun s =>
    if toucher ≠ sender then s.countIgnored
    else
      let s1 := s.countForeign link
      if (s1.tk.link.get link).acceptsTouch stamp.val (toucherOf toucher) then
        s1.acceptTouch link stamp.val (toucherOf toucher) true (messageLevel level)
      else s1

/-- LINK STATE (R116). -/
def execLinkState (sender : Station) (link : LinkNo) (stamp : Fin 16777216) (toucher : Station) (held : Bool)
    (level : BitVec 11) (s : State) : Host.Outcome State Fault Refusal :=
  s.take fun s => s.receive sender fun s =>
    let s1 := s.countForeign link
    if (s1.tk.link.get link).acceptsTouch stamp.val (toucherOf toucher) then
      s1.acceptTouch link stamp.val (toucherOf toucher) held (messageLevel level)
    else s1

/-- LINK RELEASE (R117). -/
def execLinkRelease (sender : Station) (link : LinkNo) (stamp : Fin 16777216) (toucher : Station) (_held : Bool)
    (level : BitVec 11) (s : State) : Host.Outcome State Fault Refusal :=
  s.take fun s => s.receive sender fun s =>
    if toucher ≠ sender then s.countIgnored
    else
      let s1 := s.countForeign link
      if (s1.tk.link.get link).acceptsRelease stamp.val (toucherOf toucher) then
        s1.acceptRelease link stamp.val (toucherOf toucher) (messageLevel level)
      else s1

/-- A LINK with action code 3 (R116). -/
def execMalformedLink (sender : Station) (_link : LinkNo) (s : State) : Host.Outcome State Fault Refusal :=
  s.take fun s => s.receive sender State.countIgnored

/-- An expiry of the glide timer (R110): every running return glide advances by one and is evaluated afresh. -/
def execGlideTimer (s : State) : Host.Outcome State Fault Refusal :=
  s.take fun s =>
    { s with tk.chan := s.tk.chan.mapAt fun _ ch => ch.advanceGlide, tk.glideTimer := .running Config.frameMs }

/-- The end of a channel's return glide (R110). The glide timer's expiry already ends every glide that reaches its duration;
this command does so for one channel (log 5). -/
def execReturnGlideEnd (c : Channel) (s : State) : Host.Outcome State Fault Refusal :=
  s.takeWhen (match (s.tk.chan.get c).glide with | none => false | some g => decide (g.duration ≤ g.elapsed))
    fun s => s.modifyTk c TakeoverChannel.endGlide

end Sys2Proof.Machine
end

