-- ==== Sys2Proof/Machine/Fades.lean ====
section
/-! DEFINITION. The Fade Engine: steps taken and started, fades, the pending list, the advance, GOTO requests (chapter 4). -/

namespace Sys2Proof.Machine

/-- A change of one channel's record in FE. -/
def State.modifyFe (s : State) (c : Channel) (f : FadeChannel → FadeChannel) : State :=
  { s with fe.chan := s.fe.chan.modify c f }

/-! ## Starting a fade (R69, R70) -/

/-- The start level of a fade on channel `c` (R69). A SAFE_MANUAL channel is handed no step with a clear mark (R66). -/
def State.startLevel (s : State) (c : Channel) (priority : Bool) : Level :=
  let cueLevel := (s.fe.chan.get c).cueLevel
  match (s.tk.chan.get c).state with
  | .cue => cueLevel
  | .overridden => cueLevel
  | .latched => s.sourceLevel c
  | .touched => if priority then s.sourceLevel c else cueLevel
  | .returning => if priority then s.sourceLevel c else cueLevel
  | .safeManual => if priority then s.sourceLevel c else cueLevel

/-- The channel's record after a fade of `cue` to `target` starts from `start` (R6, R70). -/
def FadeChannel.begin (ch : FadeChannel) (cue : Cue) (start target : Level) (fade : Nat) (curve : Curve) : FadeChannel :=
  if fade = 0 then { ch with cueLevel := target, slot := none }
  else { ch with cueLevel := start, slot := some ⟨cue, start, target, fade, 0, curve⟩ }

/-- A step or GOTO fade with a target starts on channel `c`, and TK takes the target-start notice (R70). -/
def State.startFade (s : State) (c : Channel) (cue : Cue) (target : Level) (fade : Nat) (curve : Curve) (priority : Bool) :
    State :=
  (s.modifyFe c fun ch => ch.begin cue (s.startLevel c priority) target fade curve).notice c priority

/-! ## Taking and starting a step (R67, R68, R71) -/

/-- A mute action on a cue-mute flag (R71). -/
def MuteAction.apply (a : MuteAction) (flag : Bool) : Bool :=
  match a with
  | .none => flag
  | .mute => true
  | .unmute => false

/-- A step starts (R68): its fade if it has a target, then its mute action. -/
def State.startStep (s : State) (p : PendingStep) : State :=
  let s1 :=
    match p.level with
    | none => s
    | some t => s.startFade p.channel p.cue t p.fade p.curve p.priority
  s1.modifyFe p.channel fun ch => { ch with cueMute := p.mute.apply ch.cueMute }

/-- The order of the pending list: by remaining delay, then by channel (R65). -/
def PendingStep.before (a b : PendingStep) : Bool :=
  decide (a.remaining < b.remaining) || (decide (a.remaining = b.remaining) && decide (a.channel.val < b.channel.val))

/-- An entry joins the pending list at the place it calls for (R67). -/
def placePending (p : PendingStep) : List PendingStep → List PendingStep
  | [] => [p]
  | x :: rest => if p.before x then p :: x :: rest else x :: placePending p rest

/-- The copy of a stored step that is handed to FE, its delay still to be counted (R43, R65). -/
def CueStep.handed (st : CueStep) (priority : Bool) : PendingStep :=
  { channel := st.channel, cue := st.cue, remaining := st.delay, level := st.level, fade := st.fade, curve := st.curve
    mute := st.mute, priority := priority }

/-- Taking a handed step (R67): the channel's pending entry leaves, and the step starts or joins the list. -/
def State.takeStep (s : State) (p : PendingStep) : State :=
  let rest := s.fe.waiting.filter fun e => !decide (e.channel = p.channel)
  let s1 := { s with fe.waiting := rest }
  if p.remaining = 0 then s1.startStep p else { s with fe.waiting := placePending p rest }

/-! ## The advance (R72 to R74) -/

/-- A fade that has reached its duration completes: the cue level takes the target and the slot empties (R73). -/
def FadeChannel.complete (ch : FadeChannel) : FadeChannel :=
  match ch.slot with
  | none => ch
  | some r => if r.duration ≤ r.elapsed then { ch with cueLevel := r.target, slot := none } else ch

/-- One advance of one channel's fade record (R73). -/
def FadeChannel.advance (ch : FadeChannel) : FadeChannel :=
  match ch.slot with
  | none => ch
  | some r =>
    let r1 := { r with elapsed := r.elapsed + 1 }
    { ch with cueLevel := r1.level, slot := some r1 }.complete

/-- The pending list counted down by one (R74). -/
def countDown (q : List PendingStep) : List PendingStep := q.map fun p => { p with remaining := p.remaining - 1 }

/-- The entries that have reached 0, in list order, and those that have not (R74). -/
def dueSteps (q : List PendingStep) : List PendingStep := q.filter fun p => decide (p.remaining = 0)
def undueSteps (q : List PendingStep) : List PendingStep := q.filter fun p => !decide (p.remaining = 0)

/-- An advance: every fade record moves by one frame, then the pending list counts down and the due steps start (R73, R74). -/
def State.advanceFades (s : State) : State :=
  let counted := countDown s.fe.waiting
  let s1 := { s with fe.chan := s.fe.chan.mapAt fun _ ch => ch.advance, fe.waiting := undueSteps counted }
  (dueSteps counted).foldl State.startStep s1

/-! ## GOTO requests (R76) -/

/-- One named channel of a GOTO request: a fade to its tracked level and its tracked mute (R76). A SAFE channel is not named. -/
def State.gotoChannel (cue : Cue) (fade : Nat) (c : Channel) (s : State) : State :=
  if s.mode c = .safe then s
  else
    (s.startFade c cue (s.cs.trackedLevel c cue) fade .linear false).modifyFe c fun ch =>
      { ch with cueMute := s.cs.trackedMute c cue }

/-- A GOTO request: the pending list is cleared, then each named channel fades in ascending order (R76). -/
def State.gotoRequest (s : State) (cue : Cue) (fade : Nat) : State :=
  forEach 24 (State.gotoChannel cue fade) { s with fe.waiting := [] }

/-! ## Counts for the status record (R79) -/

/-- The number of channels whose slot holds a record. -/
def State.fadesRunning (s : State) : Nat := countIndex 24 fun c => (s.fe.chan.get c).slot.isSome

/-- The smallest cue among all fade records and pending entries, or 0. -/
def State.lowestCue (s : State) : Cue :=
  let records := (List.finRange 24).filterMap fun c => (s.fe.chan.get c).slot.map FadeRecord.cue
  ((records ++ s.fe.waiting.map PendingStep.cue).foldl lowerCue none).getD 0

/-! ## Meanings -/

/-- FE takes a frame timer expiry: an advance while HELD is clear, nothing otherwise (R72, R73, R74). -/
def execAdvance (s : State) : Host.Outcome State Fault Refusal :=
  s.take fun s => if s.seq.held then s else s.advanceFades

/-- The completion of a channel's fade (R73). The advance already completes every fade that reaches its duration; this
command does so for one channel (log 5). -/
def execFadeComplete (c : Channel) (s : State) : Host.Outcome State Fault Refusal :=
  s.takeWhen (match (s.fe.chan.get c).slot with | none => false | some r => decide (r.duration ≤ r.elapsed))
    fun s => s.modifyFe c FadeChannel.complete

/-- The start of a channel's pending step whose remaining delay has reached 0 (R74). The advance already starts every such
step; this command does so for one channel (log 5). -/
def execPendingStepStart (c : Channel) (s : State) : Host.Outcome State Fault Refusal :=
  let due := fun p : PendingStep => decide (p.channel = c) && decide (p.remaining = 0)
  s.takeWhen (s.fe.waiting.any due) fun s =>
    (s.fe.waiting.filter due).foldl State.startStep { s with fe.waiting := s.fe.waiting.filter fun p => !due p }

end Sys2Proof.Machine
end

