-- ==== Sys2Proof/Machine/CueControl.lean ====
section
/-! DEFINITION. The Cue Sequencer: GO, GOTO, BACK, HOLD and RESUME, the follow timer, adoption and rejoin (chapter 3). -/

namespace Sys2Proof.Machine

/-! ## Taking a GO (R42 to R44) -/

/-- The steps of cue `n` handed to FE in ascending channel order; a SAFE channel's step is skipped unless the bank of `n` is
PRIORITY (R43). -/
def State.handSteps (s : State) (n : Cue) : State :=
  let priority := (s.cs.bankOf n).kind == .priority
  (s.cs.stepsOf n).foldl
    (fun t st => if t.mode st.channel = .safe ∧ !priority then t else t.takeStep (st.handed priority)) s

/-- The follow delay that the header of `n` carries (R18, R44). -/
def CueStore.followOf (cs : CueStore) (n : Cue) : Option Nat := (cs.header n).bind Header.follow

/-- Taking a GO of cue `n` with a cause (R42), less the expiry of a follow delay of 0. -/
def State.takeGo (s : State) (n : Cue) (cause : Cause) (isLocal : Bool) : State :=
  let s1 :=
    { s with
      seq.held := false
      seq.currentCue := n
      seq.goStamp := some s.seq.frameCount
      seq.keyStamp := if cause = Cause.key then some s.seq.frameCount else s.seq.keyStamp
      seq.follow := s.cs.followOf n }
  let s2 := s1.handSteps n
  if isLocal then s2.enqueue (.go n cause) else s2

/-- The expiry of the follow timer (R47). -/
def State.expireFollow (s : State) : State :=
  let s1 := { s with seq.follow := none }
  match s.cs.next s.seq.currentCue with
  | none => s1
  | some n => if (s.cs.bankOf n).allowsLocal then s1.takeGo n .follow true else s1.refuseGo

/-- The follow timer's expiries at one event: while it stands at 0 it expires (R44, R47). A GO whose header carries a follow
delay of 0 brings the next expiry at the same event. Each expiry moves to a greater listed cue, so there are at most as many
as there are headers, and `fuel` above that number never runs out. -/
def State.followChain : Nat → State → State
  | 0, s => s
  | fuel + 1, s => if s.seq.follow = some 0 then State.followChain fuel s.expireFollow else s

/-- The follow expiries that stand at this event. -/
def State.runFollow (s : State) : State := s.followChain (s.cs.headers.length + 2)

/-- A GO taken whole, with the chain of follow delays of 0 it begins (R42, R44). -/
def State.runGo (s : State) (n : Cue) (cause : Cause) (isLocal : Bool) : State := (s.takeGo n cause isLocal).runFollow

/-! ## Taking a GOTO (R49) -/

/-- Taking a GOTO of cue `n` with fade time `fade` (R49). -/
def State.takeGoto (s : State) (n : Cue) (fade : Nat) : State :=
  State.gotoRequest
    { s with
      seq.held := false
      seq.currentCue := n
      seq.goStamp := some s.seq.frameCount
      seq.follow := none }
    n fade

/-! ## Local requests (R45, R46, R51, R52) -/

/-- A GO key press that reaches the sequencer (R45, R46). -/
def State.goKeyRequest (s : State) : State :=
  if s.withinGuard s.seq.keyStamp then s
  else
    let s1 := { s with seq.keyStamp := some s.seq.frameCount }
    if s.seq.held then { s1 with seq.held := false }.enqueue .resume
    else
      match s.cs.next s.seq.currentCue with
      | none => s1.refuseGo
      | some n => if (s.cs.bankOf n).allowsLocal then s1.runGo n .key true else s1.refuseGo

/-- A BACK key press that reaches the sequencer (R51). -/
def State.backKeyRequest (s : State) : State :=
  match s.cs.previous s.seq.currentCue with
  | none => s.refuseGo
  | some n =>
    if (s.cs.bankOf n).allowsLocal then
      (s.takeGoto n s.config.backTime).enqueue (.goto n s.config.backTime .back)
    else s.refuseGo

/-- A STOP key press that reaches the sequencer (R52). -/
def State.stopKeyRequest (s : State) : State :=
  if s.seq.held then s else { s with seq.held := true }.enqueue .hold

/-! ## JOINING: adoption and rejoin (R57 to R59) -/

/-- A received GO or GOTO of cue `n` adopted (R57). -/
def State.adoptCue (s : State) (n : Cue) : State :=
  { s with
    seq.adoptedCue := n
    seq.adoptedHeld := false
    seq.cueSettled := true
    seq.heldSettled := true }

/-- A received HOLD or RESUME adopted (R57). -/
def State.adoptHeld (s : State) (held : Bool) : State :=
  { s with seq.adoptedHeld := held, seq.heldSettled := true }

/-- The cue and HOLD flag of a running peer's PRESENCE, for adoption (R58). -/
def State.adoptPresence (s : State) (sender : Station) (cue : Cue) (held : Bool) : State :=
  let takes := match s.seq.adoptionSource with | none => true | some a => decide (sender.val ≤ a.val)
  if takes then
    { s with
      seq.adoptionSource := some sender
      seq.adoptedCue := if s.seq.cueSettled then s.seq.adoptedCue else cue
      seq.adoptedHeld := if s.seq.heldSettled then s.seq.adoptedHeld else held }
  else s

/-- The rejoin at the end of JOINING (R59). -/
def State.rejoin (s : State) : State :=
  let s1 := if s.seq.adoptedCue = 0 then s else s.takeGoto s.seq.adoptedCue s.config.gotoTime
  { s1 with
    seq.held := s.seq.adoptedHeld
    seq.adoptedCue := 0
    seq.adoptedHeld := false
    seq.adoptionSource := none
    seq.cueSettled := false
    seq.heldSettled := false }

/-! ## Meanings -/

/-- A received GO (R48, R57). -/
def execGo (sender : Station) (cue : Cue) (cause : Cause) (s : State) : Host.Outcome State Fault Refusal :=
  s.take fun s => s.receive sender fun s =>
    if cue = 0 ∨ !(s.cs.bankOf cue).allowsRemote then s.countIgnored
    else if s.sl.state = .joining then s.adoptCue cue
    else if cue = s.seq.currentCue ∧ (cause = .follow ∨ s.withinGuard s.seq.goStamp) then s.countIgnored
    else s.runGo cue cause false

/-- A received GOTO (R50, R57). -/
def execGoto (sender : Station) (cue : Cue) (fade : Fin 65536) (_reason : GotoReason) (s : State) :
    Host.Outcome State Fault Refusal :=
  s.take fun s => s.receive sender fun s =>
    if cue = 0 ∨ !(s.cs.bankOf cue).allowsRemote then s.countIgnored
    else if s.sl.state = .joining then s.adoptCue cue
    else if cue = s.seq.currentCue ∧ s.withinGuard s.seq.goStamp then s.countIgnored
    else s.takeGoto cue fade.val

/-- A received HOLD (R53, R57). -/
def execHold (sender : Station) (s : State) : Host.Outcome State Fault Refusal :=
  s.take fun s => s.receive sender fun s =>
    if s.sl.state = .joining then s.adoptHeld true else { s with seq.held := true }

/-- A received RESUME (R53, R57). -/
def execResume (sender : Station) (s : State) : Host.Outcome State Fault Refusal :=
  s.take fun s => s.receive sender fun s =>
    if s.sl.state = .joining then s.adoptHeld false else { s with seq.held := false }

/-- The sequencer takes a frame timer expiry (R39, R44, R72): the frame count rises, then an armed follow timer counts down
while HELD is clear, and a timer that reaches 0 expires at this event. -/
def execFrameCount (s : State) : Host.Outcome State Fault Refusal :=
  s.take fun s =>
    let s1 := { s with seq.frameCount := s.seq.frameCount + 1, fe.frameTimer := .running Config.frameMs }
    if s.seq.held then s1 else State.runFollow { s1 with seq.follow := s.seq.follow.map fun r => r - 1 }

/-- The expiry of a follow timer that has reached 0 (R47). The events that bring the timer to 0 already take its expiry
(R44, R72); this command does so alone (log 5). -/
def execFollowExpiry (s : State) : Host.Outcome State Fault Refusal :=
  s.takeWhen (s.seq.follow == some 0) State.runFollow

end Sys2Proof.Machine
end

