-- ==== Sys2Proof/Machine/Groups.lean ====
section
/-! DEFINITION. Shared Groups: group masters and mute groups (chapter 7). -/

namespace Sys2Proof.Machine

/-- A change of one master record. -/
def State.modifyMaster (s : State) (m : MasterNo) (f : MasterRecord → MasterRecord) : State :=
  { s with sg.master := s.sg.master.modify m f }

/-- The membership of a station in a group's asserter set becomes `b` (R132, R133). -/
def State.setAsserter (s : State) (g : GroupNo) (p : Station) (b : Bool) : State :=
  { s with sg.asserters := s.sg.asserters.modify g fun t => t.set p b }

/-- A station's membership of all sixteen sets is replaced by an assertion mask (R134). -/
def State.replaceMask (s : State) (p : Station) (mask : BitVec 16) : State :=
  { s with sg.asserters := s.sg.asserters.mapAt fun g t => t.set p (mask.getLsbD g.val) }

/-- The mask of a waiting PRESENCE brought up to date with one assertion; an entry whose frame is on the line is amended
(R132, R146). -/
def TxEntry.updateMask (e : TxEntry) (g : GroupNo) (b : Bool) : TxEntry :=
  match e.msg with
  | .presence joining held cue mask summary =>
    e.amend (.presence joining held cue (if b then mask ||| BitVec.twoPow 16 g.val else mask &&& ~~~BitVec.twoPow 16 g.val)
      summary)
  | _ => e

/-- A change of this station's own assertion (R132). -/
def State.ownAssertion (s : State) (g : GroupNo) (b : Bool) : State :=
  let s1 := (s.setAsserter g s.sl.station b).enqueue (.muteGroup g b)
  { s1 with sl.queue := s1.sl.queue.map fun e => e.updateMask g b }

/-- The level of master fader slot `k` handed by PI (R125, R126): at the first accepted reading the masters bound to it become
FRESH; they take the level, and it is announced if it is the first or a change. -/
def State.takeSlotLevel (k : Fin 4) (first : Bool) (m : MasterNo) (s : State) : State :=
  if s.ownedHere m && ((s.config.master.get m).slot == some k) then
    let level := (s.pi.slot.get (masterSlot k)).level
    let changed := first || (s.sg.master.get m).level != level
    let s1 := s.modifyMaster m fun r => { r with level := level, fresh := r.fresh || first }
    if changed then s1.queueLevel m else s1
  else s

/-- The level of a master fader slot reaches every master bound to it (R92, R125). DESIGN CHOICE (log 23): in ascending master
number, in which their GROUP_LEVELs are queued (R126). -/
def State.slotLevel (s : State) (k : Fin 4) (first : Bool) : State := forEach 8 (State.takeSlotLevel k first) s

/-! ## Meanings -/

/-- A received GROUP_LEVEL (R127). -/
def execGroupLevel (sender : Station) (m : MasterNo) (level : BitVec 11) (s : State) :
    Host.Outcome State Fault Refusal :=
  s.take fun s => s.receive sender fun s =>
    if sender ≠ s.sl.station ∧ (s.config.master.get m).owner = some sender then
      s.modifyMaster m fun _ => { level := messageLevel level, fresh := true, stale := .running Config.staleMs }
    else s.countIgnored

/-- A received MUTE_GROUP (R133). -/
def execMuteGroup (sender : Station) (g : GroupNo) (asserted : Bool) (s : State) : Host.Outcome State Fault Refusal :=
  s.take fun s => s.receive sender fun s =>
    if sender = s.sl.station then s.countIgnored else s.setAsserter g sender asserted

/-- The expiry of a master's stale timer (R128). -/
def execStaleTimerExpiry (m : MasterNo) (s : State) : Host.Outcome State Fault Refusal :=
  s.takeWhen ((s.sg.master.get m).stale != .stopped) fun s =>
    s.modifyMaster m fun r => { r with fresh := false, stale := .stopped }

/-- An expiry of SG's refresh timer (R126). -/
def execGroupRefreshExpiry (s : State) : Host.Outcome State Fault Refusal :=
  s.take fun s => State.queueLevels { s with sg.refreshTimer := .running Config.groupRefreshMs }

end Sys2Proof.Machine
end

