-- ==== Sys2Proof/Machine/PanelInput.lean ====
section
/-! DEFINITION. Panel Input: the sense converter, calibration, fader readings and faults, touches, keys, panel mutes, group
keys, the panel lock and the unlock matcher (chapter 5). -/

namespace Sys2Proof.Machine

/-! ## Updates -/

def State.modifySlot (s : State) (k : FaderSlot) (f : SlotState → SlotState) : State :=
  { s with pi.slot := s.pi.slot.modify k f }

def State.modifyTouch (s : State) (c : Channel) (f : TouchState → TouchState) : State :=
  { s with pi.touch := s.pi.touch.modify c f }

/-! ## The scan (R82) -/

/-- Whether a conversion of sense slot `n` can complete: the slots are converted one at a time, so it is the conversion in
progress (R82). -/
def State.converts (s : State) (n : Nat) : Bool := decide (n = s.pi.scanSlot)

/-- The slot converted after slot `n` (R82). After a change of the range it is the first slot of the new range at or above
`n`, else the new scan start. -/
def State.nextSlot (s : State) (n : Nat) : Nat :=
  let first := s.config.scanFirst
  let last := s.config.scanStop
  if s.pi.rangeChanged then
    if n ≤ last then max n first else first
  else if n < last then max (n + 1) first
  else first

/-- The completion of a conversion of sense slot `n` moves the scan on (R82). -/
def State.scanOn (s : State) (n : Nat) : State := { s with pi.scanSlot := s.nextSlot n, pi.rangeChanged := false }

/-! ## Touches (R87 to R91) -/

/-- The channel of a sense slot index, if it is a channel fader's (§5.1). -/
def slotChannel (k : FaderSlot) : Option Channel := if h : k.val < 24 then some ⟨k.val, h⟩ else none

/-- The master fader slot of a sense slot index, if it is one (§5.1). -/
def slotMaster (k : FaderSlot) : Option (Fin 4) := if h : 24 ≤ k.val then some ⟨k.val - 24, by omega⟩ else none

/-- A touch begin of an untouched channel, handed to TK (R89, R105). -/
def State.beginTouch (s : State) (c : Channel) : State :=
  (s.modifyTouch c fun t => { t with touched := true }).touchBegin c

/-- The end of a channel's touch, if it is touched: the quiet timer stops and TK is handed a touch end (R89, R91, R106). -/
def State.endTouch (c : Channel) (s : State) : State :=
  if (s.pi.touch.get c).touched then
    (s.modifyTouch c fun t => { t with touched := false, quiet := .stopped }).touchEnd c
  else s

/-! ## The panel begins and stops accepting input (R88) -/

/-- The panel begins to accept input: the catch-up mark of every slot and the re-arm mark of every channel are set (R88). -/
def State.beginAccepting (s : State) : State :=
  { s with
    pi.slot := s.pi.slot.mapAt fun _ k => { k with catchUp := true }
    pi.touch := s.pi.touch.mapAt fun _ t => { t with rearm := true } }

/-- A lock (R97): the matcher is at position 0, and a RUNNING station's touches end (R88). DESIGN CHOICE (log 22): they end in
ascending channel order, which decides the final link level and the LINKs where touched channels share a link (R115). -/
def State.lockPanel (s : State) : State :=
  let s1 := { s with pi.locked := true, pi.matchPos := 0, pi.unlockTimer := .stopped }
  if s.sl.state = .running then forEach 24 State.endTouch s1 else s1

/-- An unlocking (R97, R98, R99): the matcher is at position 0, and a RUNNING station's panel begins to accept input. -/
def State.unlockPanel (s : State) : State :=
  let s1 := { s with pi.locked := false, pi.matchPos := 0, pi.unlockTimer := .stopped }
  if s.sl.state = .running then s1.beginAccepting else s1

/-! ## Fader readings (R84 to R87, R91, R92) -/

/-- The state and run count of a slot after a reading, rail or travel (R86). -/
def SlotState.count (k : SlotState) (rail : Bool) (limit : Nat) : SlotState :=
  if rail = k.faulted then { k with run := 0 }
  else if limit ≤ k.run + 1 then { k with faulted := rail, run := 0 }
  else { k with run := k.run + 1 }

/-- A reading of slot `k` is counted; a channel's touch ends where its slot becomes FAULTED; where the slot becomes NORMAL the
channel's re-arm mark is set and FI is handed the end of the fault at once, before the reading is tested (R84, R86, R87, R172). -/
def State.countReading (s : State) (k : FaderSlot) (rail : Bool) : State :=
  let was := (s.pi.slot.get k).faulted
  let s1 := s.modifySlot k fun x => x.count rail s.config.faultCount
  let is := (s1.pi.slot.get k).faulted
  match slotChannel k with
  | none => s1
  | some c =>
    if !was && is then s1.endTouch c
    else if was && !is then (s1.modifyTouch c fun t => { t with rearm := true }).handAction c
    else s1

/-- Whether a travel reading is accepted: the slot has no accepted reading, or it differs by more than the deadband (R85). -/
def SlotState.accepts (k : SlotState) (c deadband : Nat) : Bool :=
  match k.accepted with
  | none => true
  | some a => decide (deadband < ((c : Int) - (a : Int)).natAbs)

/-- An accepted reading of a MOTION channel begins a touch, unless the channel is touched already or the slot was being
caught up, and starts the quiet timer of a touched channel afresh (R91). -/
def State.motionTouch (s : State) (c : Channel) (catchUp : Bool) : State :=
  if s.source c = .motion then
    let s1 := if !(s.pi.touch.get c).touched && !catchUp then s.beginTouch c else s
    if (s1.pi.touch.get c).touched then
      s1.modifyTouch c fun t => { t with quiet := .running (s1.config.quietTime * 10) }
    else s1
  else s

/-- The user of a slot takes an accepted reading: SG for a master fader slot, TK for a channel's (R85, R91, R92). -/
def State.handReading (s : State) (k : FaderSlot) (first changed catchUp : Bool) : State :=
  match slotMaster k, slotChannel k with
  | some m, _ => if first || changed then s.slotLevel m first else s
  | none, some c => (if changed then s.faderChange c else s).motionTouch c catchUp
  | none, none => s

/-- An accepted calibrated reading `c` of slot `k` (R85, R88). -/
def State.acceptReading (s : State) (k : FaderSlot) (c : Nat) : State :=
  let old := s.pi.slot.get k
  let level := lawLevel s.config.law c
  let s1 := s.modifySlot k fun x => { x with accepted := some c, level := level, catchUp := false }
  s1.handReading k old.accepted.isNone (old.level != level) old.catchUp

/-- A raw reading of slot `k` (R84). -/
def State.readFader (s : State) (k : FaderSlot) (raw : Nat) : State :=
  let c := calibrate raw s.pi.calOffset
  let s1 := s.countReading k (isRail c)
  let slot := s1.pi.slot.get k
  if !isRail c && !slot.faulted && s1.acceptsInput && slot.accepts c s.config.deadband then s1.acceptReading k c else s1

/-- A reading of slot 0 (R83). -/
def State.readReference (s : State) (raw : Nat) : State :=
  if 1984 ≤ raw ∧ raw ≤ 2112 then { s with pi.calOffset := 2048 - (raw : Int), pi.calFault := false }
  else { s with pi.calFault := true }

/-! ## Keys (R93, R94, R98, R99) -/

/-- Whether a code of the unlock sequence matches a key; a code of 0 matches any key (R98). -/
def codeMatches (code : Option Nat) (key : Fin 35) : Bool := code == some 0 || code == some (keyCode key)

/-- A match at position `pos` of the unlock sequence: the panel unlocks at the last code, else the position rises and the
unlock timer starts afresh (R98, R99). -/
def State.matchAt (s : State) (pos : Nat) : State :=
  if pos + 1 = s.config.unlockSequence.length then s.unlockPanel
  else { s with pi.matchPos := pos + 1, pi.unlockTimer := .running Config.unlockMs }

/-- A key press dispatched to the unlock matcher (R98, R99). -/
def State.matchKey (s : State) (key : Fin 35) : State :=
  if codeMatches (s.config.unlockSequence[s.pi.matchPos]?) key then s.matchAt s.pi.matchPos
  else if codeMatches (s.config.unlockSequence[0]?) key then s.matchAt 0
  else { s with pi.matchPos := 0, pi.unlockTimer := .stopped }

/-- A key that becomes pressed, dispatched by station and panel state (R93, R94). -/
def State.pressKey (s : State) (key : Fin 35) (body : State → State) : State :=
  let s1 := { s with pi.keyDown := s.pi.keyDown.set key true }
  if s.sl.state = .joining then s1
  else if s.pi.locked then s1.matchKey key
  else body s1

/-- A key press: an event only for a key that stands released, since a key held down gives one press (R93). -/
def State.takePress (s : State) (key : Fin 35) (body : State → State) : Host.Outcome State Fault Refusal :=
  s.takeWhen (!s.pi.keyDown.get key) fun s => s.pressKey key body

/-- A channel MUTE key press that is acted on (R95). -/
def State.togglePanelMute (s : State) (c : Channel) : State :=
  { s with pi.panelMute := s.pi.panelMute.modify c fun b => !b }

/-- A group key press that is acted on (R96). -/
def State.toggleAssertion (s : State) (k : Fin 8) : State :=
  match s.config.keyMap.get k with
  | none => s
  | some g =>
    let b := !s.pi.ownAssert.get g
    State.ownAssertion { s with pi.ownAssert := s.pi.ownAssert.set g b } g b

/-! ## Meanings -/

/-- A conversion of slot 0 (R82, R83). -/
def execCalibrationReading (reading : Fin 4096) (s : State) : Host.Outcome State Fault Refusal :=
  s.takeWhen (s.converts 0) fun s => (s.scanOn 0).readReference reading.val

/-- A conversion of one of slots 1..28 (R82, R84). -/
def execFaderReading (k : FaderSlot) (reading : Fin 4096) (s : State) : Host.Outcome State Fault Refusal :=
  s.takeWhen (s.converts (k.val + 1)) fun s => (s.scanOn (k.val + 1)).readFader k reading.val

/-- A conversion of one of slots 29..31, which reads 0 and is discarded (R82). -/
def execSpareSlotReading (k : Fin 3) (s : State) : Host.Outcome State Fault Refusal :=
  s.takeWhen (s.converts (k.val + 29)) fun s => s.scanOn (k.val + 29)

/-- A debounced change of a touch line to active (R90). The line stood inactive until now, so a re-arm mark that is set was set
while it was inactive, and R90 takes this change as a touch begin all the same (DEDUCED, log 24). -/
def execTouchLineActive (c : Channel) (s : State) : Host.Outcome State Fault Refusal :=
  s.takeWhen (!(s.pi.touch.get c).lineActive) fun s =>
    let s1 := s.modifyTouch c fun t => { t with lineActive := true }
    let t := s.pi.touch.get c
    if s.source c == .line && s.acceptsInput && !(s.pi.slot.get (channelSlot c)).faulted && !t.touched then
      s1.beginTouch c
    else s1

/-- A debounced change of a touch line to inactive (R90). -/
def execTouchLineInactive (c : Channel) (s : State) : Host.Outcome State Fault Refusal :=
  s.takeWhen (s.pi.touch.get c).lineActive fun s =>
    let s1 := s.modifyTouch c fun t => { t with lineActive := false, rearm := false }
    if s.source c = .line then s1.endTouch c else s1

/-- The expiry of a channel's quiet timer (R91). -/
def execQuietTimerExpiry (c : Channel) (s : State) : Host.Outcome State Fault Refusal :=
  s.takeWhen ((s.pi.touch.get c).quiet != .stopped) fun s =>
    State.endTouch c (s.modifyTouch c fun t => { t with quiet := .stopped })

/-- A GO key press (R46, R93, R94). -/
def execGoKeyPress (s : State) : Host.Outcome State Fault Refusal := s.takePress goKey State.goKeyRequest

/-- A BACK key press (R51, R93, R94). -/
def execBackKeyPress (s : State) : Host.Outcome State Fault Refusal := s.takePress backKey State.backKeyRequest

/-- A STOP key press (R52, R93, R94). -/
def execStopKeyPress (s : State) : Host.Outcome State Fault Refusal := s.takePress stopKey State.stopKeyRequest

/-- A channel MUTE key press (R93, R94, R95). -/
def execMuteKeyPress (c : Channel) (s : State) : Host.Outcome State Fault Refusal :=
  s.takePress (muteKey c) fun s => s.togglePanelMute c

/-- A group key press (R93, R94, R96). -/
def execGroupKeyPress (k : Fin 8) (s : State) : Host.Outcome State Fault Refusal :=
  s.takePress (groupKey k) fun s => s.toggleAssertion k

/-- A key becomes released (R93). -/
def execKeyRelease (key : Fin 35) (s : State) : Host.Outcome State Fault Refusal :=
  s.take fun s => { s with pi.keyDown := s.pi.keyDown.set key false }

/-- The expiry of the unlock timer (R99). -/
def execUnlockTimerExpiry (s : State) : Host.Outcome State Fault Refusal :=
  s.takeWhen (s.pi.unlockTimer != .stopped) fun s => { s with pi.matchPos := 0, pi.unlockTimer := .stopped }

/-- A PANEL_LOCK (R97, R159). -/
def execPanelLock (sender target : Station) (lock : Bool) (s : State) : Host.Outcome State Fault Refusal :=
  s.take fun s => s.receiveAddressed sender target fun s =>
    let s1 := { s with pi.lockTaken := true }
    if lock then s1.lockPanel
    else if s1.pi.locked then s1.unlockPanel
    else s1

end Sys2Proof.Machine
end

