-- ==== Sys2Proof/Machine/Joining.lean ====
section
/-! DEFINITION. The configuration transfer and the JOINING window (§8.6, §8.7). -/

namespace Sys2Proof.Machine

/-! ## Acceptance (R157) -/

/-- The takeover state that follows a reset in a mode (R122, R123). -/
def resetTakeover (mode : Mode) : Takeover := if mode = .safe then .safeManual else .cue

/-- One channel's takeover record at an acceptance (R122): kept if its mode and link are unchanged, else set as a reset sets
it, and then held if it follows a link that is held. `s` holds the new configuration. -/
def State.acceptTakeover (s : State) (old : Configuration) (c : Channel) (ch : TakeoverChannel) : TakeoverChannel :=
  if s.mode c = (old.chan.get c).mode ∧ s.linkOf c = (old.chan.get c).link then ch
  else
    let ch1 := { ch with state := resetTakeover (s.mode c), glide := none, manual := off }
    match s.linkOf c with
    | none => ch1
    | some l => if s.mode c ≠ .safe ∧ (s.tk.link.get l).held then ch1.hold (s.tk.link.get l).level else ch1

/-- One master's record at an acceptance (R130): kept if its owner and slot are unchanged, else set as a reset sets it. -/
def State.acceptMaster (s : State) (old : Configuration) (m : MasterNo) (r : MasterRecord) : MasterRecord :=
  if s.config.master.get m = old.master.get m then r else { level := 0, fresh := false, stale := .stopped }

/-- One channel of GC at an acceptance (R174): a held level or a glide's start above the new ceiling is lowered to it. -/
def State.lowerToCeiling (s : State) (c : Channel) (g : ComposerChannel) : ComposerChannel :=
  let ceiling := (s.config.chan.get c).ceiling
  { g with
    held := g.held.map fun x => min x ceiling
    glide := g.glide.map fun r => { r with start := min r.start ceiling } }

/-- The acceptance of an assembly (R157): it becomes the configuration in force at one event, each block applies its new
values (R82, R97, R98, R99, R122, R130, R174), and GC and FI take what that changes (R15, R128, R172). -/
def State.acceptConfig (s : State) (k : Configuration) : State :=
  let old := s.config
  let s1 := { s with sl.config := k, sl.assembly := none }
  let newSequence := k.unlockSequence != old.unlockSequence
  let s2 :=
    { s1 with
      pi.rangeChanged := s.pi.rangeChanged || k.scanFirst != old.scanFirst || k.scanStop != old.scanStop
      pi.locked := if s.pi.lockTaken then s.pi.locked else k.lockAtStart
      pi.matchPos := if newSequence then 0 else s.pi.matchPos
      pi.unlockTimer := if newSequence then .stopped else s.pi.unlockTimer
      tk.chan := s.tk.chan.mapAt (s1.acceptTakeover old)
      sg.master := s.sg.master.mapAt (s1.acceptMaster old)
      gc.chan := s.gc.chan.mapAt s1.lowerToCeiling }
  s2.settle

/-! ## The end of the window (R154, R155) -/

/-- The end of the JOINING window, the configuration settled (R155). -/
def State.endJoining (s : State) : State :=
  let s1 := { s with sl.state := .running, sl.windowTimer := .stopped, sl.limitTimer := .stopped }
  let s2 := s1.rejoin
  let s3 := if s2.pi.locked then s2 else s2.beginAccepting
  s3.queuePresence

/-- The checks of CONFIG_END (R11, R156) and what follows them. -/
def State.closeAssembly (s : State) : State :=
  match s.sl.assembly with
  | none => s
  | some a =>
    if a.rejected || !lawOrdered a.config.law then { s.setFlag .configRejected with sl.assembly := none }
    else s.acceptConfig a.config

/-! ## Configuration messages (R156) -/

/-- A configuration message, taken in JOINING by `body`. While RUNNING it is refused if addressed to this station's number
and disregarded if addressed to 0 (R156; a silent station's number is 0, log 8). -/
def State.takeConfig (s : State) (sender target : Station) (body : State → State) : State :=
  s.receiveAddressed sender target fun t =>
    if t.sl.state = .joining then body t
    else if target = 0 then t
    else t.refuseLoad .notJoining

/-- CONFIG_BEGIN in JOINING (R154, R156). -/
def State.openAssembly (s : State) : State :=
  { s with
    sl.assembly := some ⟨s.config, false⟩
    sl.windowTimer := .stopped
    sl.limitTimer := if s.sl.limitTimer = .stopped then .running Config.limitMs else s.sl.limitTimer }

/-- CONFIG_ITEM in JOINING (R156). -/
def State.takeItem (s : State) (code index : Nat) (value : BitVec 16) : State :=
  match s.sl.assembly with
  | none => s.refuseLoad .badItem
  | some a =>
    match enterItem a.config code index value with
    | none => { s.refuseLoad .badItem with sl.assembly := some { a with rejected := true } }
    | some k => { s with sl.assembly := some { a with config := k } }

/-! ## Meanings -/

/-- CONFIG_BEGIN (R156). -/
def execConfigBegin (sender target : Station) (s : State) : Host.Outcome State Fault Refusal :=
  s.take fun s => s.takeConfig sender target State.openAssembly

/-- CONFIG_ITEM (R156). -/
def execConfigItem (sender target : Station) (code index : Nat) (value : BitVec 16) (s : State) :
    Host.Outcome State Fault Refusal :=
  s.take fun s => s.takeConfig sender target fun s => s.takeItem code index value

/-- CONFIG_END (R155, R156). -/
def execConfigEnd (sender target : Station) (s : State) : Host.Outcome State Fault Refusal :=
  s.take fun s => s.takeConfig sender target fun s => s.closeAssembly.endJoining

/-- The expiry of the window timer (R154). -/
def execWindowTimerExpiry (s : State) : Host.Outcome State Fault Refusal :=
  s.takeWhen (s.sl.windowTimer != .stopped) State.endJoining

/-- The expiry of the limit timer (R154): an assembly is discarded and CONFIG_REJECTED set. -/
def execLimitTimerExpiry (s : State) : Host.Outcome State Fault Refusal :=
  s.takeWhen (s.sl.limitTimer != .stopped) fun s =>
    State.endJoining { s.setFlag .configRejected with sl.assembly := none }

end Sys2Proof.Machine
end

