-- ==== Sys2Proof/Machine/Status.lean ====
section
/-! DEFINITION. The five STATUS_REPLY parts (R158, §8.9). -/

namespace Sys2Proof.Machine

/-- The code of the last refusal reason (§8.9). -/
def reasonCode : Option Reason → Nat
  | none => 0
  | some .badChannel => 1
  | some .badCue => 2
  | some .badKind => 3
  | some .tableFull => 4
  | some .notJoining => 5
  | some .badItem => 6

/-- The code of the link side (§8.9). -/
def linkSideCode : LinkSide → Nat
  | .normal => 0
  | .linkOff => 1
  | .alone => 2

/-- The sticky flags as a field: flag `n` on bit `n − 1`. -/
def State.flagField (s : State) : BitVec 12 := BitVec.ofNat 12 (maskNat 12 fun b => s.fi.flags.get b)

/-- The number of FAULTED channel fader slots, and of FAULTED master fader slots (R100). -/
def State.faultedChannels (s : State) : Nat := countIndex 24 fun c => (s.pi.slot.get (channelSlot c)).faulted
def State.faultedMasters (s : State) : Nat := countIndex 4 fun k => (s.pi.slot.get (masterSlot k)).faulted

/-- The number of channels whose action state is not NONE (R177). -/
def State.channelsInAction (s : State) : Nat := countIndex 24 fun c => (s.gc.chan.get c).action != .none

/-- The number of channels in a takeover state (R123). -/
def State.channelsIn (s : State) (t : Takeover) : Nat := countIndex 24 fun c => (s.tk.chan.get c).state == t

/-- The number of links this station holds (R123). -/
def State.linksHeld (s : State) : Nat := countIndex 32 fun l => s.holdsLink l

/-- The cue disagreement count: PRESENT peers whose last flags show JOINING clear and whose last cue differs (R151). -/
def State.disagreement (s : State) : Nat :=
  countIndex 32 fun p =>
    s.present p && !(s.sl.peer.get p).joining && (s.sl.peer.get p).cue != s.seq.currentCue

/-- The PRESENT peer mask: peer S on bit S − 1 of the field (§8.9). -/
def State.peerMask (s : State) : BitVec 31 := BitVec.ofNat 31 (maskNat 31 fun i => s.present i.succ)

/-- The FRESH master mask and the muting group mask (R138). -/
def State.freshMask (s : State) : BitVec 8 := BitVec.ofNat 8 (maskNat 8 fun m => (s.sg.master.get m).fresh)
def State.mutingMask (s : State) : BitVec 16 := BitVec.ofNat 16 (maskNat 16 fun g => s.muting g)

/-- A master's level as a field. -/
def State.masterField (s : State) (m : MasterNo) : BitVec 11 := levelField (s.sg.master.get m).level

/-- Part 0 (§8.9). -/
def State.statusPart0 (s : State) : BitVec 64 :=
  0#3 ++ BitVec.ofNat 12 s.cs.steps.length ++ BitVec.ofNat 10 s.cs.headers.length ++ s.flagField
    ++ BitVec.ofNat 3 (reasonCode s.fi.lastReason) ++ BitVec.ofNat 6 s.fi.counters.loadsRefused
    ++ BitVec.ofNat 6 s.fi.counters.goRefused ++ BitVec.ofNat 6 s.fi.counters.remoteIgnored
    ++ BitVec.ofNat 6 s.fi.counters.txDrops

/-- Part 1 (§8.9). -/
def State.statusPart1 (s : State) : BitVec 64 :=
  1#3 ++ BitVec.ofBool (s.sl.state == .running) ++ BitVec.ofNat 2 (linkSideCode s.linkSide)
    ++ BitVec.ofNat 12 s.seq.currentCue.val ++ BitVec.ofBool s.seq.held ++ BitVec.ofBool s.pi.locked
    ++ BitVec.ofInt 8 s.pi.calOffset ++ BitVec.ofBool s.pi.calFault ++ BitVec.ofNat 5 s.faultedChannels
    ++ BitVec.ofNat 3 s.faultedMasters ++ BitVec.ofNat 5 s.fadesRunning ++ BitVec.ofNat 5 s.fe.waiting.length
    ++ BitVec.ofNat 12 s.lowestCue.val ++ BitVec.ofNat 5 s.channelsInAction

/-- Part 2 (§8.9). -/
def State.statusPart2 (s : State) : BitVec 64 :=
  2#3 ++ BitVec.ofNat 5 (s.channelsIn .touched) ++ BitVec.ofNat 5 (s.channelsIn .latched)
    ++ BitVec.ofNat 5 (s.channelsIn .returning) ++ BitVec.ofNat 5 (s.channelsIn .overridden)
    ++ BitVec.ofNat 5 s.linksHeld ++ s.peerMask ++ BitVec.ofNat 5 s.disagreement

/-- Part 3 (§8.9). -/
def State.statusPart3 (s : State) : BitVec 64 :=
  3#3 ++ s.freshMask ++ s.masterField 0 ++ s.masterField 1 ++ s.masterField 2 ++ s.masterField 3 ++ 0#9

/-- Part 4 (§8.9). -/
def State.statusPart4 (s : State) : BitVec 64 :=
  4#3 ++ s.masterField 4 ++ s.masterField 5 ++ s.masterField 6 ++ s.masterField 7 ++ s.mutingMask ++ 0#1

/-- The payload of a STATUS_REPLY part, built from the state as it stands (R158). -/
def State.statusPart (s : State) (part : Fin 5) : BitVec 64 :=
  match part with
  | 0 => s.statusPart0
  | 1 => s.statusPart1
  | 2 => s.statusPart2
  | 3 => s.statusPart3
  | 4 => s.statusPart4

/-- The answer to a STATUS_REQUEST: five parts, all built before any is queued, then the clearing of the spent flags
(R158, R177). -/
def State.answerStatus (s : State) : State :=
  (forEach 5 (fun part t => t.enqueue (.statusReply part (s.statusPart part))) s).clearSpent

/-- STATUS_REQUEST (R158). A silent station does not take it (R141). -/
def execStatusRequest (sender target : Station) (s : State) : Host.Outcome State Fault Refusal :=
  s.take fun s => s.receiveAddressed sender target fun s => if s.sl.station = 0 then s else s.answerStatus

/-- A received STATUS_REPLY is disregarded and not counted (R158). -/
def execStatusReply (sender : Station) (s : State) : Host.Outcome State Fault Refusal :=
  s.take fun s => s.receive sender fun s => s

end Sys2Proof.Machine
end

