-- ==== Sys2Proof/Machine/ShowLinkControl.lean ====
section
/-! DEFINITION. The Show Link Controller: offers, line errors, LINK_OFF, presence, peers, clash and ignored frames
(chapter 8). -/

namespace Sys2Proof.Machine

/-! ## Offers (R145, R146) -/

/-- Whether a frame of this station is on the line. -/
def State.transmitting (s : State) : Bool := s.sl.queue.any fun e => e.sending.isSome

/-- The head of the queue put on the line with its content as it stands (R145). -/
def offerHead : List TxEntry → List TxEntry
  | [] => []
  | e :: rest => { e with sending := some e.msg } :: rest

/-- An entry whose offer has ended without success: it keeps its content and is unmarked (R146). -/
def TxEntry.endOffer (e : TxEntry) : TxEntry := { e with sending := none, amended := false }

/-- An entry after lost arbitration: the attempt is not counted (R145). -/
def TxEntry.lose (e : TxEntry) : TxEntry := if e.sending.isSome then e.endOffer else e

/-- An entry after an error: its attempt count rises; at sixteen it leaves (R145). -/
def TxEntry.fail (e : TxEntry) : Option TxEntry :=
  if e.sending.isSome then
    if Config.maxAttempts ≤ e.attempts + 1 then none else some { e.endOffer with attempts := e.attempts + 1 }
  else some e

/-- An entry after success: it leaves, unless it was amended, when it stays with its attempt count at 0 (R145, R146). -/
def TxEntry.succeed (e : TxEntry) : Option TxEntry :=
  if e.sending.isSome then if e.amended then some { e.endOffer with attempts := 0 } else none else some e

/-! ## Errors (R148, R149) -/

/-- The transmit drop counter raised once for each of `n` entries (R148). -/
def State.countDrops : Nat → State → State
  | 0, s => s
  | n + 1, s => State.countDrops n s.countDrop

/-- Bus-off: every entry of the queue leaves, each counted as a drop, and the recessive count starts (R148, R149). -/
def State.enterLinkOff (s : State) : State :=
  State.countDrops s.sl.queue.length
    { s with sl.txErrors := Config.busOffAt, sl.recessive := 0, sl.queue := [] }

/-- Whether an error while sending raises the transmit error count: not an acknowledgement error of an error-passive
controller (R148). -/
def State.raisesErrors (s : State) (kind : TxErrorKind) : Bool := !(s.errorPassive && kind == .noAcknowledgement)

/-- The transmit error count raised by 8; above 255 the controller is bus-off (R148). -/
def State.raiseTxErrors (s : State) : State :=
  if 255 < s.sl.txErrors + 8 then s.enterLinkOff else { s with sl.txErrors := s.sl.txErrors + 8 }

/-- The end of LINK_OFF and the re-announcement (R149). -/
def State.endLinkOff (s : State) : State :=
  let s1 := { s with sl.txErrors := 0, sl.rxErrors := 0, sl.recessive := 0 }
  s1.queuePresence.announceLinks.queueLevels

/-! ## PRESENCE (R153) -/

/-- The flags and cue of a PRESENCE recorded in the peer's entry (R151). -/
def State.recordPresence (s : State) (p : Station) (joining hold : Bool) (cue : Cue) : State :=
  { s with sl.peer := s.sl.peer.modify p fun e => { e with joining := joining, hold := hold, cue := cue } }

/-- A PRESENCE from a peer, its entry PRESENT already (R153). -/
def State.takePresence (s : State) (p : Station) (joining hold : Bool) (cue : Cue) (mask : BitVec 16) : State :=
  let s1 := (s.recordPresence p joining hold cue).replaceMask p mask
  if joining then (s1.releaseHeldBy p).answerLinks.queueLevels.queuePresence
  else if s1.sl.state = .joining then s1.adoptPresence p cue hold
  else s1

/-! ## Silence (R151) -/

/-- A peer's silence: its entry becomes ABSENT, the alone timer starts if no PRESENT peer is left (R150), and TK releases
its links (R120); SG leaves its assertions (R135). -/
def State.losePeer (s : State) (p : Station) : State :=
  let was := (s.sl.peer.get p).state
  let s1 := { s with sl.peer := s.sl.peer.modify p fun e => { e with state := .absent, silence := .stopped } }
  let s2 := if was = .present ∧ s1.presentCount = 0 then { s1 with sl.aloneTimer := .running Config.aloneMs } else s1
  s2.releaseHeldBy p

/-! ## Meanings -/

/-- A received PRESENCE (R134, R144, R153). -/
def execPresence (sender : Station) (joining held : Bool) (cue : Cue) (mask : BitVec 16) (_summary : BitVec 8)
    (s : State) : Host.Outcome State Fault Refusal :=
  s.take fun s => s.receive sender fun s =>
    if sender = s.sl.station then s.countIgnored else s.takePresence sender joining held cue mask

/-- A received frame that is ignored and counted, or disregarded (R143). A frame bearing this station's own number makes
the clash condition present before anything else (R143, R144). -/
def execIgnoredFrame (frame : IgnoredFrame) (s : State) : Host.Outcome State Fault Refusal :=
  s.take fun s =>
    let s1 := s.countReceived
    let clash := fun p : Station => if p = s1.sl.station then s1.beginClash else s1
    match frame with
    | .extended => s1
    | .remote => s1
    | .senderZero => (clash 0).countIgnored
    | .unknownKind p => (clash p).countIgnored
    | .tooFewBytes p => (clash p).countIgnored

/-- An error detected while this station receives (R148). -/
def execReceiveError (s : State) : Host.Outcome State Fault Refusal :=
  s.take fun s => { s with sl.rxErrors := min (s.sl.rxErrors + 1) Config.receiveTop }

/-- An occurrence of 11 consecutive recessive bits (R149): counted in LINK_OFF, which ends at the 128th. -/
def execRecessiveRun (s : State) : Host.Outcome State Fault Refusal :=
  s.takeWhen s.busOff fun s =>
    if Config.recessiveEnd ≤ s.sl.recessive + 1 then s.endLinkOff
    else { s with sl.recessive := s.sl.recessive + 1 }

/-- The end of LINK_OFF at the 128th occurrence (R149). The occurrence itself already ends it; this command does so alone
(log 5). -/
def execLinkOffEnd (s : State) : Host.Outcome State Fault Refusal :=
  s.takeWhen (s.busOff && decide (Config.recessiveEnd ≤ s.sl.recessive)) State.endLinkOff

/-- The head of the queue is offered on the line (R145); a silent station and a station in LINK_OFF send nothing. -/
def execFrameOffer (s : State) : Host.Outcome State Fault Refusal :=
  s.takeWhen (!s.transmitting && !s.sl.queue.isEmpty && s.sl.station != 0 && !s.busOff) fun s =>
    { s with sl.queue := offerHead s.sl.queue }

/-- The offer loses arbitration (R145). -/
def execLostArbitration (s : State) : Host.Outcome State Fault Refusal :=
  s.takeWhen s.transmitting fun s => { s with sl.queue := s.sl.queue.map TxEntry.lose }

/-- The offered frame meets an error (R145, R148). -/
def execTxError (kind : TxErrorKind) (s : State) : Host.Outcome State Fault Refusal :=
  s.takeWhen s.transmitting fun s =>
    let left := s.sl.queue.filterMap TxEntry.fail
    let s1 := { s with sl.queue := left }
    let s2 := if left.length < s.sl.queue.length then s1.countDrop else s1
    if s.raisesErrors kind then s2.raiseTxErrors else s2

/-- The offered frame is sent and acknowledged (R145, R146, R148). -/
def execTxSuccess (s : State) : Host.Outcome State Fault Refusal :=
  s.takeWhen s.transmitting fun s =>
    { s with sl.queue := s.sl.queue.filterMap TxEntry.succeed, sl.txErrors := s.sl.txErrors - 1 }

/-- An expiry of the presence timer (R152). -/
def execPresenceTimerExpiry (s : State) : Host.Outcome State Fault Refusal :=
  s.take fun s => State.queuePresence { s with sl.presenceTimer := .running Config.presenceMs }

/-- The expiry of the alone timer (R150). -/
def execAloneTimerExpiry (s : State) : Host.Outcome State Fault Refusal :=
  s.takeWhen (s.sl.aloneTimer != .stopped) fun s => { s with sl.aloneTimer := .stopped, sl.aloneCond := true }

/-- The expiry of the clash timer (R144). -/
def execClashTimerExpiry (s : State) : Host.Outcome State Fault Refusal :=
  s.takeWhen (s.sl.clashTimer != .stopped) fun s => { s with sl.clashTimer := .stopped, sl.clashCond := false }

/-- The expiry of a peer's silence timer (R120, R135, R150, R151). -/
def execSilenceTimerExpiry (p : Station) (s : State) : Host.Outcome State Fault Refusal :=
  s.takeWhen ((s.sl.peer.get p).silence != .stopped) fun s => s.losePeer p

end Sys2Proof.Machine
end

