-- ==== Sys2Proof/Machine/GainPortControl.lean ====
section
/-! DEFINITION. The Gain Port: transfers, the engine's answers, the refresh (chapter 9); the recovery timer of GC (R175) and
the timers of FI (R178). -/

namespace Sys2Proof.Machine

/-! ## Transfers (R161 to R165) -/

/-- The channel's last-sent level becomes `x` (R163). -/
def State.setLastSent (s : State) (c : Channel) (x : Level) : State :=
  { s with gp.chan := s.gp.chan.modify c fun p => { p with lastSent := some x } }

/-- A LEVEL transfer of the head channel begins (R163). -/
def State.beginLevel (s : State) (c : Channel) (rest : List Channel) : State :=
  let x := (s.gc.chan.get c).applied
  { s.setLastSent c x with
    gp.queue := rest
    gp.seq := s.gp.seq + 1
    gp.inFlight := some (.level c x (s.gp.seq + 1)) }

/-- A POLL transfer begins (R165). -/
def State.beginPoll (s : State) : State :=
  { s with gp.seq := s.gp.seq + 1, gp.inFlight := some (.poll (s.gp.seq + 1)) }

/-! ## Reports (R166, R167) -/

/-- A channel's condition and run count after a report (R167). -/
def PortChannel.count (p : PortChannel) (isMatch : Bool) (limit : Nat) : PortChannel :=
  if isMatch = p.mismatch then
    if limit ≤ p.run + 1 then { p with mismatch := !p.mismatch, run := 0 } else { p with run := p.run + 1 }
  else { p with run := 0 }

/-- The GIN word read against the previous transfer record (R166). -/
def State.readReport (s : State) (gin : BitVec 32) : State :=
  match s.gp.previous with
  | none => s
  | some r =>
    { s with
      gp.chan := s.gp.chan.modify r.channel fun p =>
        p.count (isMatch s.config.readbackWindow r gin) s.config.readbackLimit }

/-- The end of a transfer, its answer read: the record is replaced, and a LEVEL transfer that leaves the queue empty is
followed by a POLL at once (R161, R165). -/
def State.endTransfer (s : State) (t : Transfer) : State :=
  match t with
  | .poll _ => { s with gp.inFlight := none, gp.previous := none }
  | .level c x seq =>
    let s1 := { s with gp.inFlight := none, gp.previous := some ⟨c, seq, x⟩ }
    if s1.gp.queue.isEmpty then s1.beginPoll else s1

/-! ## Recovery glides (R175) -/

/-- A recovery glide that has reached its duration ends: the action state becomes NONE (R175). -/
def ComposerChannel.endGlide (g : ComposerChannel) : ComposerChannel :=
  match g.glide with
  | none => g
  | some r => if r.duration ≤ r.elapsed then { g with action := .none, glide := none } else g

/-- One recovery timer expiry on one channel (R175). -/
def ComposerChannel.advanceGlide (g : ComposerChannel) : ComposerChannel :=
  match g.glide with
  | none => g
  | some r => { g with glide := some { r with elapsed := r.elapsed + 1 } }.endGlide

/-! ## Meanings -/

/-- A LEVEL transfer begins for the head channel (R161, R163). -/
def execLevelTransfer (s : State) : Host.Outcome State Fault Refusal :=
  match s.gp.inFlight, s.gp.queue with
  | none, c :: rest => s.take fun s => s.beginLevel c rest
  | _, _ => .next s

/-- A transfer completes with the engine's GIN word (R161, R165, R166, R167). What the report changes reaches FI, GC and the
update queue before the port decides whether to poll (log 7). -/
def execTransferComplete (gin : BitVec 32) (s : State) : Host.Outcome State Fault Refusal :=
  match s.gp.inFlight with
  | none => .next s
  | some t => .next (((s.readReport gin).commit s).endTransfer t)

/-- An expiry of GP's refresh timer (R162, R168). -/
def execGainRefreshExpiry (s : State) : Host.Outcome State Fault Refusal :=
  s.take fun s =>
    { s with
      gp.queue := s.gp.queue ++ (List.finRange 24).filter fun c => decide (c ∉ s.gp.queue)
      gp.refreshTimer := .running Config.gainRefreshMs }

/-- An expiry of the recovery timer (R175). -/
def execRecoveryTimer (s : State) : Host.Outcome State Fault Refusal :=
  s.take fun s =>
    { s with gc.chan := s.gc.chan.mapAt fun _ g => g.advanceGlide, gc.recoveryTimer := .running Config.frameMs }

/-- The end of a channel's recovery glide (R175). The recovery timer's expiry already ends every glide that reaches its
duration; this command does so for one channel (log 5). -/
def execRecoveryGlideEnd (c : Channel) (s : State) : Host.Outcome State Fault Refusal :=
  s.takeWhen (match (s.gc.chan.get c).glide with | none => false | some r => decide (r.duration ≤ r.elapsed))
    fun s => { s with gc.chan := s.gc.chan.modify c ComposerChannel.endGlide }

/-- An expiry of the indicator timer (R178). -/
def execIndicatorTimerExpiry (s : State) : Host.Outcome State Fault Refusal :=
  s.take fun s =>
    { s with
      fi.phase := (s.fi.phase + Config.indicatorMs) % Config.phaseWrap
      fi.indicatorTimer := .running Config.indicatorMs }

/-- The expiry of the burst timer (R178). -/
def execBurstTimerExpiry (s : State) : Host.Outcome State Fault Refusal :=
  s.takeWhen (s.fi.burstTimer != .stopped) fun s => { s with fi.burstTimer := .stopped }

end Sys2Proof.Machine
end

