-- ==== Sys2Proof/Machine/Resets.lean ====
section
/-! DEFINITION. Power-on, the RESET line and RESTART: every block's values after a reset (R38, R61, R80, R101, R123, R140,
R141, R159, R160, R170, R180). -/

namespace Sys2Proof.Machine

/-- The sequencer after every reset (R61). -/
def resetSequencer : Sequencer :=
  { currentCue := 0, held := false, frameCount := 0, goStamp := none, keyStamp := none, follow := none
    adoptedCue := 0, adoptedHeld := false, adoptionSource := none, cueSettled := false, heldSettled := false }

/-- FE after every reset (R80). -/
def resetFades : FadeEngine :=
  { chan := Table.const 24 { cueLevel := off, cueMute := false, slot := none }
    waiting := [], frameTimer := .running Config.frameMs }

/-- PI after a reset (R101): the offset is kept by a RESTART alone; the panel state is that of lock at start (R97). -/
def resetPanel (k : Configuration) (offset : Int) : Panel :=
  { scanSlot := k.scanFirst, rangeChanged := false, calOffset := offset, calFault := false
    slot := Table.const 28 { accepted := none, level := off, faulted := false, run := 0, catchUp := true }
    touch := Table.const 24 { touched := false, lineActive := false, rearm := false, quiet := .stopped }
    keyDown := Table.const 35 false, panelMute := Table.const 24 false, ownAssert := Table.const 16 false
    locked := k.lockAtStart, lockTaken := false, matchPos := 0, unlockTimer := .stopped }

/-- TK after every reset (R123). -/
def resetTakeoverUnit (k : Configuration) : TakeoverUnit :=
  { chan := Table.ofFn fun c =>
      { state := resetTakeover (k.chan.get c).mode, manual := off, glide := none, mark := false }
    link := Table.const 32
      { stamp := 0, holder := none, level := off, held := false, lastToucher := none, touching := [] }
    glideTimer := .running Config.frameMs }

/-- SG after every reset (R140). -/
def resetGroups : SharedGroups :=
  { master := Table.const 8 { level := 0, fresh := false, stale := .stopped }
    asserters := Table.const 16 (Table.const 32 false)
    refreshTimer := .running Config.groupRefreshMs }

/-- SL after a reset (R160), its first PRESENCE not yet queued. -/
def resetShowLink (station : Station) (rate : BitRate) (k : Configuration) : ShowLink :=
  { station := station, rate := rate, state := .joining, txErrors := 0, rxErrors := 0, recessive := 0, queue := []
    peer := Table.const 32 { state := .unknown, joining := false, hold := false, cue := 0, silence := .stopped }
    presenceTimer := .running Config.presenceMs, aloneTimer := .running Config.aloneMs, aloneCond := false
    clashTimer := .stopped, clashCond := false, windowTimer := .running Config.windowMs, limitTimer := .stopped
    config := k, assembly := none }

/-- GC after every reset, before any action (R15, R180). -/
def resetComposer : Composer :=
  { chan := Table.const 24 { composed := off, applied := off, action := .none, held := none, glide := none }
    recoveryTimer := .running Config.frameMs }

/-- GP after every reset (R170). -/
def resetGainPort : GainPort :=
  { queue := List.finRange 24, chan := Table.const 24 { lastSent := none, run := 0, mismatch := false }
    inFlight := none, previous := none, seq := 0, refreshTimer := .running Config.gainRefreshMs }

/-- FI after every reset, before it takes the conditions (R180). -/
def resetFaultUnit : FaultUnit :=
  { cond := Table.const 24 { faderFault := false, groupStale := false, mismatch := false }
    effective := Table.const 24 .none, taken := Table.const 12 false, flags := Table.const 12 false
    counters := { loadsRefused := 0, goRefused := 0, remoteIgnored := 0, txDrops := 0 }, lastReason := none
    phase := 0, indicatorTimer := .running Config.indicatorMs, burstTimer := .stopped, faultLine := false
    stateLed := Table.const 24 .off, muteLed := Table.const 24 .off, goLed := .off, stationLed := .pulse }

/-- The block right after a reset: every block at its reset values, then the conditions as they stand with the actions and
flags that follow (R171, R176, R180), then the first PRESENCE (R152). The commands waiting for the block are not the
block's to discard. -/
def afterReset (station : Station) (rate : BitRate) (k : Configuration) (store : CueStore) (offset : Int)
    (pending : List Instr) : State :=
  let s : State :=
    { cs := store, seq := resetSequencer, fe := resetFades, pi := resetPanel k offset, tk := resetTakeoverUnit k
      sg := resetGroups, sl := resetShowLink station rate k, gc := resetComposer, gp := resetGainPort
      fi := resetFaultUnit, pending := pending }
  s.settle.queuePresence

/-- The values after a power-on or a RESET-line reset: the straps sampled, the store empty, the default configuration. -/
def coldReset (stationStraps : Station) (rateStraps : Fin 4) (s : State) : State :=
  afterReset stationStraps (bitRateOf rateStraps) defaultConfiguration emptyStore 0 s.pending

/-- The values after a RESTART: the straps' values, the configuration in force, the store and the calibration offset
kept. -/
def warmReset (s : State) : State :=
  afterReset s.sl.station s.sl.rate s.config s.cs s.pi.calOffset s.pending

/-- Power-on (R141, R160). -/
def execPowerOn (stationStraps : Station) (rateStraps : Fin 4) (s : State) : Host.Outcome State Fault Refusal :=
  .next (coldReset stationStraps rateStraps s)

/-- A RESET-line reset (R141, R160). -/
def execResetLine (stationStraps : Station) (rateStraps : Fin 4) (s : State) : Host.Outcome State Fault Refusal :=
  .next (coldReset stationStraps rateStraps s)

/-- RESTART (R159). -/
def execRestart (sender target : Station) (s : State) : Host.Outcome State Fault Refusal :=
  if sender ≠ 0 ∧ s.addressed target then .next (warmReset s)
  else s.take fun s => s.receiveAddressed sender target fun s => s

end Sys2Proof.Machine
end

