-- ==== Sys2Proof/Machine/Store.lean ====
section
/-! DEFINITION. The Cue Store: editing by messages (§2.3). -/

namespace Sys2Proof.Machine

/-- The key order of the step list: by cue, then by channel (R20). -/
def CueStep.before (a b : CueStep) : Bool :=
  decide (a.cue.val < b.cue.val) || (decide (a.cue = b.cue) && decide (a.channel.val < b.channel.val))

/-- Whether two steps have one key (R17). -/
def CueStep.sameKey (a b : CueStep) : Bool := decide (a.cue = b.cue) && decide (a.channel = b.channel)

/-- A step replaces the one with its key, or joins at the place its key calls for (R25). -/
def placeStep (st : CueStep) : List CueStep → List CueStep
  | [] => [st]
  | x :: rest =>
    if st.sameKey x then st :: rest
    else if st.before x then st :: x :: rest
    else x :: placeStep st rest

/-- A header replaces the one of its cue, or joins at the place its cue calls for (R27). -/
def placeHeader (h : Header) : List Header → List Header
  | [] => [h]
  | x :: rest =>
    if h.cue = x.cue then h :: rest
    else if h.cue.val < x.cue.val then h :: x :: rest
    else x :: placeHeader h rest

/-- A STEP_LOAD that passed its checks (R25). -/
def State.loadStep (s : State) (st : CueStep) : State :=
  if (s.cs.steps.any st.sameKey) || decide (s.cs.steps.length < Config.maxSteps) then
    { s with cs.steps := placeStep st s.cs.steps }
  else s.refuseLoad .tableFull

/-- A HEADER_LOAD of a valid cue (R27). -/
def State.loadHeader (s : State) (h : Header) : State :=
  if (s.cs.headers.any fun x => decide (x.cue = h.cue)) || decide (s.cs.headers.length < Config.maxHeaders) then
    { s with cs.headers := placeHeader h s.cs.headers }
  else s.refuseLoad .tableFull

/-- The checks of a STEP_LOAD and a STEP_DELETE: the cue first, then the channel (R24, R26). -/
def State.checkKey (s : State) (cue : Cue) (channel : Fin 32) (body : Channel → State) : State :=
  if cue = 0 then s.refuseLoad .badCue
  else
    match channelOf channel with
    | none => s.refuseLoad .badChannel
    | some c => body c

/-- The check of a message that names a cue only (R27, R28, R30). -/
def State.checkCue (s : State) (cue : Cue) (body : State) : State := if cue = 0 then s.refuseLoad .badCue else body

/-- STEP_LOAD (R24, R25). -/
def execStepLoad (sender target : Station) (cue : Cue) (channel : Fin 32) (level : BitVec 11) (fade : Fin 65536)
    (delay : Fin 2048) (curve mute : Fin 4) (s : State) : Host.Outcome State Fault Refusal :=
  s.take fun s => s.receiveAddressed sender target fun s =>
    s.checkKey cue channel fun c => s.loadStep ⟨cue, c, stepTarget level, fade.val, delay.val, curveOf curve, muteOf mute⟩

/-- STEP_DELETE (R26). -/
def execStepDelete (sender target : Station) (cue : Cue) (channel : Fin 32) (s : State) :
    Host.Outcome State Fault Refusal :=
  s.take fun s => s.receiveAddressed sender target fun s =>
    s.checkKey cue channel fun c =>
      { s with cs.steps := s.cs.steps.filter fun st => !(decide (st.cue = cue) && decide (st.channel = c)) }

/-- HEADER_LOAD (R27). -/
def execHeaderLoad (sender target : Station) (cue : Cue) (followPresent : Bool) (follow : Fin 65536) (s : State) :
    Host.Outcome State Fault Refusal :=
  s.take fun s => s.receiveAddressed sender target fun s =>
    s.checkCue cue (s.loadHeader ⟨cue, if followPresent then some follow.val else none⟩)

/-- HEADER_DELETE (R28). -/
def execHeaderDelete (sender target : Station) (cue : Cue) (s : State) : Host.Outcome State Fault Refusal :=
  s.take fun s => s.receiveAddressed sender target fun s =>
    s.checkCue cue { s with cs.headers := s.cs.headers.filter fun h => !decide (h.cue = cue) }

/-- BANK_SET (R29). -/
def execBankSet (sender target : Station) (bank : Fin 16) (remoteGo localGo : Bool) (kind : Nat) (s : State) :
    Host.Outcome State Fault Refusal :=
  s.take fun s => s.receiveAddressed sender target fun s =>
    match bankKindOf kind with
    | none => s.refuseLoad .badKind
    | some k => { s with cs.banks := s.cs.banks.set bank ⟨remoteGo, localGo, k⟩ }

/-- CUE_ERASE (R30). -/
def execCueErase (sender target : Station) (cue : Cue) (s : State) : Host.Outcome State Fault Refusal :=
  s.take fun s => s.receiveAddressed sender target fun s =>
    s.checkCue cue
      { s with
        cs.steps := s.cs.steps.filter fun st => !decide (st.cue = cue)
        cs.headers := s.cs.headers.filter fun h => !decide (h.cue = cue) }

/-- TABLE_CLEAR (R31). -/
def execTableClear (sender target : Station) (s : State) : Host.Outcome State Fault Refusal :=
  s.take fun s => s.receiveAddressed sender target fun s => { s with cs.steps := [], cs.headers := [] }

end Sys2Proof.Machine
end

