-- ==== Sys2Proof/Machine/Dispatch.lean ====
section
/-! DEFINITION. One arm per command: the command and its meaning. -/

namespace Sys2Proof.Machine

def exec (i : Instr) (s : State) : Host.Outcome State Fault Refusal :=
  match i with
  | .powerOn stationStraps rateStraps => Sys2Proof.Machine.execPowerOn stationStraps rateStraps s
  | .resetLine stationStraps rateStraps => Sys2Proof.Machine.execResetLine stationStraps rateStraps s
  | .restart sender target => Sys2Proof.Machine.execRestart sender target s
  | .go sender cue cause => Sys2Proof.Machine.execGo sender cue cause s
  | .goto sender cue fade reason => Sys2Proof.Machine.execGoto sender cue fade reason s
  | .hold sender => Sys2Proof.Machine.execHold sender s
  | .resume sender => Sys2Proof.Machine.execResume sender s
  | .linkTouch sender link stamp toucher held level => Sys2Proof.Machine.execLinkTouch sender link stamp toucher held level s
  | .linkState sender link stamp toucher held level => Sys2Proof.Machine.execLinkState sender link stamp toucher held level s
  | .linkRelease sender link stamp toucher held level => Sys2Proof.Machine.execLinkRelease sender link stamp toucher held level s
  | .muteGroup sender group asserted => Sys2Proof.Machine.execMuteGroup sender group asserted s
  | .groupLevel sender master level => Sys2Proof.Machine.execGroupLevel sender master level s
  | .presence sender joining held cue mask summary => Sys2Proof.Machine.execPresence sender joining held cue mask summary s
  | .statusRequest sender target => Sys2Proof.Machine.execStatusRequest sender target s
  | .statusReply sender => Sys2Proof.Machine.execStatusReply sender s
  | .panelLock sender target lock => Sys2Proof.Machine.execPanelLock sender target lock s
  | .configBegin sender target => Sys2Proof.Machine.execConfigBegin sender target s
  | .configItem sender target code index value => Sys2Proof.Machine.execConfigItem sender target code index value s
  | .configEnd sender target => Sys2Proof.Machine.execConfigEnd sender target s
  | .stepLoad sender target cue channel level fade delay curve mute => Sys2Proof.Machine.execStepLoad sender target cue channel level fade delay curve mute s
  | .stepDelete sender target cue channel => Sys2Proof.Machine.execStepDelete sender target cue channel s
  | .headerLoad sender target cue followPresent follow => Sys2Proof.Machine.execHeaderLoad sender target cue followPresent follow s
  | .headerDelete sender target cue => Sys2Proof.Machine.execHeaderDelete sender target cue s
  | .bankSet sender target bank remoteGo localGo kind => Sys2Proof.Machine.execBankSet sender target bank remoteGo localGo kind s
  | .cueErase sender target cue => Sys2Proof.Machine.execCueErase sender target cue s
  | .tableClear sender target => Sys2Proof.Machine.execTableClear sender target s
  | .ignoredFrame frame => Sys2Proof.Machine.execIgnoredFrame frame s
  | .receiveError => Sys2Proof.Machine.execReceiveError s
  | .recessiveRun => Sys2Proof.Machine.execRecessiveRun s
  | .linkOffEnd => Sys2Proof.Machine.execLinkOffEnd s
  | .frameOffer => Sys2Proof.Machine.execFrameOffer s
  | .lostArbitration => Sys2Proof.Machine.execLostArbitration s
  | .txError kind => Sys2Proof.Machine.execTxError kind s
  | .txSuccess => Sys2Proof.Machine.execTxSuccess s
  | .frameCount => Sys2Proof.Machine.execFrameCount s
  | .followExpiry => Sys2Proof.Machine.execFollowExpiry s
  | .advance => Sys2Proof.Machine.execAdvance s
  | .fadeComplete channel => Sys2Proof.Machine.execFadeComplete channel s
  | .pendingStepStart channel => Sys2Proof.Machine.execPendingStepStart channel s
  | .glideTimer => Sys2Proof.Machine.execGlideTimer s
  | .returnGlideEnd channel => Sys2Proof.Machine.execReturnGlideEnd channel s
  | .recoveryTimer => Sys2Proof.Machine.execRecoveryTimer s
  | .recoveryGlideEnd channel => Sys2Proof.Machine.execRecoveryGlideEnd channel s
  | .calibrationReading reading => Sys2Proof.Machine.execCalibrationReading reading s
  | .faderReading slot reading => Sys2Proof.Machine.execFaderReading slot reading s
  | .spareSlotReading slot => Sys2Proof.Machine.execSpareSlotReading slot s
  | .touchLineActive channel => Sys2Proof.Machine.execTouchLineActive channel s
  | .touchLineInactive channel => Sys2Proof.Machine.execTouchLineInactive channel s
  | .quietTimerExpiry channel => Sys2Proof.Machine.execQuietTimerExpiry channel s
  | .goKeyPress => Sys2Proof.Machine.execGoKeyPress s
  | .backKeyPress => Sys2Proof.Machine.execBackKeyPress s
  | .stopKeyPress => Sys2Proof.Machine.execStopKeyPress s
  | .muteKeyPress channel => Sys2Proof.Machine.execMuteKeyPress channel s
  | .groupKeyPress key => Sys2Proof.Machine.execGroupKeyPress key s
  | .keyRelease key => Sys2Proof.Machine.execKeyRelease key s
  | .unlockTimerExpiry => Sys2Proof.Machine.execUnlockTimerExpiry s
  | .staleTimerExpiry master => Sys2Proof.Machine.execStaleTimerExpiry master s
  | .groupRefreshExpiry => Sys2Proof.Machine.execGroupRefreshExpiry s
  | .gainRefreshExpiry => Sys2Proof.Machine.execGainRefreshExpiry s
  | .presenceTimerExpiry => Sys2Proof.Machine.execPresenceTimerExpiry s
  | .aloneTimerExpiry => Sys2Proof.Machine.execAloneTimerExpiry s
  | .clashTimerExpiry => Sys2Proof.Machine.execClashTimerExpiry s
  | .silenceTimerExpiry peer => Sys2Proof.Machine.execSilenceTimerExpiry peer s
  | .windowTimerExpiry => Sys2Proof.Machine.execWindowTimerExpiry s
  | .limitTimerExpiry => Sys2Proof.Machine.execLimitTimerExpiry s
  | .indicatorTimerExpiry => Sys2Proof.Machine.execIndicatorTimerExpiry s
  | .burstTimerExpiry => Sys2Proof.Machine.execBurstTimerExpiry s
  | .levelTransfer => Sys2Proof.Machine.execLevelTransfer s
  | .transferComplete gin => Sys2Proof.Machine.execTransferComplete gin s
  | .malformedLink sender link => Sys2Proof.Machine.execMalformedLink sender link s

end Sys2Proof.Machine
end

