-- ==== Sys2Proof/Effects.lean ====
section
/-! DEFINITION. What the rules say that the blocks' shared operations do, as relations between the state an operation finds and
the state it leaves, entry by entry. The statements are written with them, and Laws/Effects.lean proves that the operations of
Machine satisfy them. `s.enqueue m` is `s` after the queueing of a message, which the statement MessageJoinsTheQueue gives. -/

namespace Sys2Proof.Machine

/-! ## Takeover and links (chapter 6) -/

/-- The release transition from a level (R106, R110): in AUTO a return glide over the return time, or CUE at once where it is 0;
in LATCH the latched level; none in SAFE. -/
def TakeoverChannel.released (tk : TakeoverChannel) (x : Level) (mode : Mode) (returnTime : Nat) : TakeoverChannel :=
  match mode with
  | .auto =>
    if returnTime = 0 then ⟨.cue, x, none, tk.mark⟩ else ⟨.returning, x, some ⟨x, 0, returnTime⟩, tk.mark⟩
  | .latch => ⟨.latched, x, none, tk.mark⟩
  | .safe => tk

/-- Channel `c` leaves the touching list of link `l` (R113, R115, R118): nothing where it is not on it. The last to leave gives up
the hold: a RELEASE is queued and the TOUCHED members that follow take their release transition from the link level. Where the
driving channel leaves and others stay, the new last channel drives: its fader level is the link level and that of the TOUCHED
members that follow, and a TOUCH is queued. Otherwise nothing else changes. -/
def State.LeavesList (s : State) (l : LinkNo) (c : Channel) (w : State) : Prop :=
  let r := s.tk.link.get l
  let rest := r.touching.erase c
  let own := s.sl.station
  let follows : Channel → Prop := fun d =>
    s.linkOf d = some l ∧ s.mode d ≠ .safe ∧ (s.tk.chan.get d).state = .touched
  (c ∉ r.touching → w = s) ∧
  (c ∈ r.touching → rest = [] →
    w =
      { s.enqueue (.link l .release r.stamp (some own) false r.level) with
        tk.link := s.tk.link.set l { r with holder := none, held := false, touching := [] }
        tk.chan := Table.ofFn fun d =>
          let tk := s.tk.chan.get d
          if follows d then tk.released r.level (s.mode d) s.config.returnTime else tk }) ∧
  (c ∈ r.touching → ∀ d, rest.getLast? = some d → r.touching.getLast? = some c →
    w =
      { s.enqueue (.link l .touch r.stamp (some own) true (s.faderLevel d)) with
        tk.link := s.tk.link.set l { r with level := s.faderLevel d, touching := rest }
        tk.chan := Table.ofFn fun e =>
          let tk := s.tk.chan.get e
          if follows e then { tk with manual := s.faderLevel d } else tk }) ∧
  (c ∈ r.touching → rest ≠ [] → r.touching.getLast? ≠ some c →
    w = { s with tk.link := s.tk.link.set l { r with touching := rest } })

/-- A touch begin on an untouched channel, as TK takes it (R105, R113, R114, R118). An unlinked channel becomes TOUCHED at its
fader level, a SAFE one SAFE_MANUAL if it was OVERRIDDEN. On a linked channel it takes the hold: a new stamp, this station as
holder and last toucher, the fader level as link level, the channel at the end of the touching list, every member that follows
TOUCHED at that level, and a TOUCH queued; at a silent station the stamp and the last toucher stand. -/
def State.TouchBegins (s : State) (c : Channel) (w : State) : Prop :=
  let x := s.faderLevel c
  let own := s.sl.station
  let tk := s.tk.chan.get c
  (s.linkOf c = none →
    w =
      { s with
        tk.chan := s.tk.chan.set c
          (if s.mode c = .safe then
            { tk with state := if tk.state = .overridden then .safeManual else tk.state, mark := false }
          else ⟨.touched, x, none, false⟩) }) ∧
  ∀ l, s.linkOf c = some l →
    let r := s.tk.link.get l
    let stamp := if own = 0 then r.stamp else min (r.stamp + 1) 16777215
    w =
      { s.enqueue (.link l .touch stamp (some own) true x) with
        tk.link := s.tk.link.set l
          ⟨stamp, some own, x, true, if own = 0 then r.lastToucher else some own, r.touching.erase c ++ [c]⟩
        tk.chan := Table.ofFn fun d =>
          let u := s.tk.chan.get d
          if s.linkOf d = some l ∧ s.mode d ≠ .safe then ⟨.touched, x, none, if d = c then false else u.mark⟩
          else if d = c then
            { u with state := if u.state = .overridden then .safeManual else u.state, mark := false }
          else u }

/-- A touch end on a touched channel, as TK takes it (R106, R109, R115): a disregarded touch loses its mark and does nothing
else, a TOUCHED unlinked channel takes its release transition, a linked one leaves the touching list. -/
def State.TouchEnds (s : State) (c : Channel) (w : State) : Prop :=
  let tk := s.tk.chan.get c
  (tk.mark = true → w = { s with tk.chan := s.tk.chan.set c { tk with mark := false } }) ∧
  (tk.mark = false → s.linkOf c = none →
    w =
      { s with
        tk.chan := s.tk.chan.set c
          (if tk.state = .touched then tk.released tk.manual (s.mode c) s.config.returnTime else tk) }) ∧
  (tk.mark = false → ∀ l, s.linkOf c = some l → s.LeavesList l c w)

/-- A change of fader level on a channel, as TK takes it (R106, R115, R118): the manual level of a TOUCHED unlinked channel whose
touch is counted; on the driving channel of a link the link level and that of the TOUCHED members that follow, with a TOUCH
queued; nothing otherwise. -/
def State.FaderMoves (s : State) (c : Channel) (w : State) : Prop :=
  let x := s.faderLevel c
  let tk := s.tk.chan.get c
  (s.linkOf c = none →
    w =
      { s with
        tk.chan := s.tk.chan.set c
          (if tk.state = .touched ∧ (s.pi.touch.get c).touched = true ∧ tk.mark = false then { tk with manual := x }
          else tk) }) ∧
  ∀ l, s.linkOf c = some l →
    let r := s.tk.link.get l
    (r.touching.getLast? ≠ some c → w = s) ∧
    (r.touching.getLast? = some c →
      w =
        { s.enqueue (.link l .touch r.stamp (some s.sl.station) true x) with
          tk.link := s.tk.link.set l { r with level := x }
          tk.chan := Table.ofFn fun d =>
            let u := s.tk.chan.get d
            if s.linkOf d = some l ∧ s.mode d ≠ .safe ∧ u.state = .touched then { u with manual := x } else u })

/-- A target-start notice (R107, R108, R109): with a clear mark LATCHED becomes CUE; with a set mark the channel is OVERRIDDEN, a
touch in progress is disregarded from here on, and the channel leaves its link's touching list. -/
def State.NoticeTaken (s : State) (c : Channel) (priority : Bool) (w : State) : Prop :=
  let tk := s.tk.chan.get c
  (priority = false →
    w =
      { s with
        tk.chan := s.tk.chan.set c { tk with state := if tk.state = .latched then .cue else tk.state } }) ∧
  (priority = true →
    let s1 :=
      { s with
        tk.chan := s.tk.chan.set c ⟨.overridden, tk.manual, none, tk.mark || (s.pi.touch.get c).touched⟩ }
    (s.linkOf c = none → w = s1) ∧ ∀ l, s.linkOf c = some l → s1.LeavesList l c w)

/-! ## Touches as PI ends them (R87, R88, R89) -/

/-- The end of a channel's touch, if it is touched: its quiet timer stops and TK takes a touch end. -/
def State.TouchIsEnded (s : State) (c : Channel) (w : State) : Prop :=
  let t := s.pi.touch.get c
  (t.touched = false → w = s) ∧
  (t.touched = true →
    State.TouchEnds { s with pi.touch := s.pi.touch.set c { t with touched := false, quiet := .stopped } } c w)

/-- The ends of the touches of several channels, one after another. -/
def State.TouchesAreEnded (s : State) : List Channel → State → Prop
  | [], w => w = s
  | c :: rest, w => ∃ u, s.TouchIsEnded c u ∧ u.TouchesAreEnded rest w

/-! ## Actions (R172, R173) -/

/-- FI evaluates the effective action of a channel afresh. A new one is handed to GC, which takes it from the applied level as it
stands: HOLD holds that level, DUCK applies the lower of the composed and the duck level, MUTE applies OFF, and NONE lets a recovery
glide start from it, or applies the composed level where the recovery time is 0. -/
def State.ActionIsHanded (s : State) (c : Channel) (w : State) : Prop :=
  let a := s.config.effective (s.channelConditions c) s.busOff
  let g := s.gc.chan.get c
  let recovery := s.config.recoveryTime
  (a = s.fi.effective.get c → w = s) ∧
  (a ≠ s.fi.effective.get c →
    w =
      { s with
        fi.effective := s.fi.effective.set c a
        gc.chan := s.gc.chan.set c
          (match a with
          | .hold => ⟨g.composed, g.applied, .hold, some g.applied, none⟩
          | .duck => ⟨g.composed, min g.composed s.config.duck, .duck, none, none⟩
          | .mute => ⟨g.composed, off, .mute, none, none⟩
          | .none =>
            if recovery = 0 then ⟨g.composed, g.composed, .none, none, none⟩
            else ⟨g.composed, g.applied, .recovering, none, some ⟨g.applied, 0, recovery⟩⟩) })

/-! ## Steps (chapter 4) -/

/-- A step starts (R68 to R71): its fade, if it has a target, from the level of R69, with the notice that TK takes, and its mute
action. (R69 gives no start level for SAFE_MANUAL under a clear mark, to which no step is handed: log 18.) -/
def State.StepStarts (s : State) (p : PendingStep) (w : State) : Prop :=
  let c := p.channel
  let ch := s.fe.chan.get c
  let state := (s.tk.chan.get c).state
  let mute := if p.mute = .none then ch.cueMute else decide (p.mute = .mute)
  (p.level = none → w = { s with fe.chan := s.fe.chan.set c { ch with cueMute := mute } }) ∧
  ∀ x, p.level = some x →
    let start :=
      if state = .cue ∨ state = .overridden ∨ (p.priority = false ∧ state ≠ .latched) then ch.cueLevel
      else s.sourceLevel c
    State.NoticeTaken
      { s with
        fe.chan := s.fe.chan.set c
          (if p.fade = 0 then ⟨x, mute, none⟩ else ⟨start, mute, some ⟨p.cue, start, x, p.fade, 0, p.curve⟩⟩) }
      c p.priority w

/-- The starts of several steps, one after another. -/
def State.StepsStart (s : State) : List PendingStep → State → Prop
  | [], w => w = s
  | p :: rest, w => ∃ u, s.StepStarts p u ∧ u.StepsStart rest w

/-- Taking a handed step (R67): the channel's pending entry leaves; with no delay the step starts, otherwise it joins the pending
list behind the entries it does not precede. -/
def State.StepIsTaken (s : State) (p : PendingStep) (w : State) : Prop :=
  let rest := s.fe.waiting.filter fun e => decide (e.channel ≠ p.channel)
  (p.remaining = 0 → State.StepStarts { s with fe.waiting := rest } p w) ∧
  (p.remaining ≠ 0 →
    ∃ a b, rest = a ++ b ∧ (∀ x ∈ a, p.before x = false) ∧ (∀ x ∈ b.head?, p.before x = true) ∧
      w = { s with fe.waiting := a ++ p :: b })

/-- The taking of several handed steps, one after another. -/
def State.StepsAreTaken (s : State) : List PendingStep → State → Prop
  | [], w => w = s
  | p :: rest, w => ∃ u, s.StepIsTaken p u ∧ u.StepsAreTaken rest w

/-! ## GO and GOTO (chapter 3) -/

/-- Taking a GO of cue `n` (R42, R43), less the expiry of a follow delay of 0: HELD, the current cue, the stamps and the follow
timer; the steps of `n` in ascending channel order, less those on SAFE channels unless the bank is PRIORITY, handed with their
priority mark; and a GO message for a local one. -/
def State.GoIsTaken (s : State) (n : Cue) (cause : Cause) (isLocal : Bool) (w : State) : Prop :=
  let kind := (s.cs.bankOf n).kind
  ∃ (steps : List CueStep) (u : State),
    steps.Pairwise (fun a b => a.channel.val < b.channel.val) ∧
    (∀ st, st ∈ steps ↔ st ∈ s.cs.steps ∧ st.cue = n ∧ (s.mode st.channel ≠ .safe ∨ kind = .priority)) ∧
    State.StepsAreTaken
      { s with
        seq.held := false
        seq.currentCue := n
        seq.goStamp := some s.seq.frameCount
        seq.keyStamp := if cause = .key then some s.seq.frameCount else s.seq.keyStamp
        seq.follow := s.cs.followOf n }
      (steps.map fun st =>
        ⟨st.channel, n, st.delay, st.level, st.fade, st.curve, st.mute, decide (kind = .priority)⟩)
      u ∧
    w = if isLocal then u.enqueue (.go n cause) else u

/-- A refused local GO, follow or BACK (R54, R178). -/
def State.withGoRefused (s : State) : State :=
  { s with
    fi.flags := s.fi.flags.set 8 true
    fi.counters.goRefused :=
      if s.fi.counters.goRefused < 63 then s.fi.counters.goRefused + 1 else s.fi.counters.goRefused
    fi.burstTimer := .running 1000 }

/-- The expiries of a follow timer that stands at 0, at one event (R44, R47): none where it does not; without a next cue the timer
is disarmed; a next cue that may not be taken here is refused; otherwise it is taken with cause FOLLOW, and its own follow delay
may be 0 again. -/
inductive State.FollowsOn : State → State → Prop
  | rests (s : State) : s.seq.follow ≠ some 0 → FollowsOn s s
  | ends (s : State) : s.seq.follow = some 0 → s.cs.next s.seq.currentCue = none →
      FollowsOn s { s with seq.follow := none }
  | refused (s : State) (n : Cue) : s.seq.follow = some 0 → s.cs.next s.seq.currentCue = some n →
      ((s.cs.bankOf n).localGo = false ∨ (s.cs.bankOf n).kind = .parked) →
      FollowsOn s (State.withGoRefused { s with seq.follow := none })
  | takes (s u w : State) (n : Cue) : s.seq.follow = some 0 → s.cs.next s.seq.currentCue = some n →
      (s.cs.bankOf n).localGo = true → (s.cs.bankOf n).kind ≠ .parked →
      State.GoIsTaken { s with seq.follow := none } n .follow true u → FollowsOn u w → FollowsOn s w

/-- Taking a GOTO of cue `n` over `fade` frames (R49, R70, R76, R107): HELD, the current cue, the GO stamp and the follow timer; an
empty pending list; and every channel that is not SAFE fading to its tracked level from its latched or its cue level, with its
tracked mute. -/
def State.GotoIsTaken (s : State) (n : Cue) (fade : Nat) (w : State) : Prop :=
  w =
    { s with
      seq.held := false
      seq.currentCue := n
      seq.goStamp := some s.seq.frameCount
      seq.follow := none
      fe.waiting := []
      fe.chan := Table.ofFn fun c =>
        let tk := s.tk.chan.get c
        let x := s.cs.trackedLevel c n
        let start := if tk.state = .latched then tk.manual else (s.fe.chan.get c).cueLevel
        if s.mode c = .safe then s.fe.chan.get c
        else if fade = 0 then ⟨x, s.cs.trackedMute c n, none⟩
        else ⟨start, s.cs.trackedMute c n, some ⟨n, start, x, fade, 0, .linear⟩⟩
      tk.chan := Table.ofFn fun c =>
        let tk := s.tk.chan.get c
        if s.mode c ≠ .safe ∧ tk.state = .latched then { tk with state := .cue } else tk }

end Sys2Proof.Machine
end

