-- ==== Sys2Proof/Machine/Pins.lean ====
section
/-! DEFINITION. What the part's outputs show: the Show Link transmit pin, the gain port, the LEDs (§3.1, §8.2, §9.1, R178). -/

namespace Sys2Proof.Machine

/-- The message whose frame this station has on the line, as it was offered (R145, R146). -/
def State.onLine (s : State) : Option Msg := s.sl.queue.findSome? TxEntry.sending

/-- The identifier and payload on the line, for a message whose layout the manual gives (§8.2, §8.9). -/
def State.lineFrame (s : State) : Option (Nat × (n : Nat) × BitVec (8 * n)) := do
  let m ← s.onLine
  let p ← m.payload
  some (identifier s.sl.station m, p)

/-- A payload of `n` bytes as its bytes, the first on the line most significant (§8.9). -/
def payloadBytes (n : Nat) (v : BitVec (8 * n)) : List (BitVec 8) :=
  (List.range n).map fun i => v.extractLsb' (8 * (n - 1 - i)) 8

/-- The frame in which a station sends a message, for a message whose layout the manual gives (§8.2, §8.9). -/
def Msg.frame (m : Msg) (sender : Station) : Option RawFrame := do
  let p ← m.payload
  some ⟨.data, BitVec.ofNat 11 (identifier sender m), payloadBytes p.1 p.2⟩

/-- The command that a message from `sender` is at a station that receives it. `none` for a MUTE_GROUP, whose layout the
manual does not give. -/
def Msg.command (m : Msg) (sender : Station) : Option Instr :=
  match m with
  | .go cue cause => some (.go sender cue cause)
  | .goto cue fade reason => some (.goto sender cue (Fin.ofNat 65536 fade) reason)
  | .hold => some (.hold sender)
  | .resume => some (.resume sender)
  | .link l .touch stamp toucher held level =>
    some (.linkTouch sender l (Fin.ofNat 16777216 stamp) (toucher.getD 0) held (levelField level))
  | .link l .release stamp toucher held level =>
    some (.linkRelease sender l (Fin.ofNat 16777216 stamp) (toucher.getD 0) held (levelField level))
  | .link l .state stamp toucher held level =>
    some (.linkState sender l (Fin.ofNat 16777216 stamp) (toucher.getD 0) held (levelField level))
  | .muteGroup _ _ => none
  | .groupLevel m level => some (.groupLevel sender m (levelField level))
  | .presence joining held cue mask summary => some (.presence sender joining held cue mask summary)
  | .statusReply _ _ => some (.statusReply sender)

/-- GFRM is active for the periods of a transfer (§9.1). -/
def State.gfrmActive (s : State) : Bool := s.gp.inFlight.isSome

/-- The word shifted out on GOUT during a transfer (§9.1). -/
def State.gout (s : State) : Option (BitVec 32) := s.gp.inFlight.map goutWord

/-- Whether each LED is lit at the indicator phase as it stands (R178). -/
def State.stateLedLit (s : State) (c : Channel) : Bool := (s.fi.stateLed.get c).lit s.fi.phase
def State.muteLedLit (s : State) (c : Channel) : Bool := (s.fi.muteLed.get c).lit s.fi.phase
def State.goLedLit (s : State) : Bool := s.fi.goLed.lit s.fi.phase
def State.stationLedLit (s : State) : Bool := s.fi.stationLed.lit s.fi.phase

end Sys2Proof.Machine
end

