-- ==== Sys2Proof/Safety.lean ====
section
/-! DEFINITION. What holds between events: the invariants that the manual's rules give each block's state. A claim about
every state takes as its premise the ones it needs, and each is claimed kept by every step. -/

namespace Sys2Proof

/-- The commands that reset the part. -/
def Instr.resets : Instr → Bool
  | .powerOn .. | .resetLine .. | .restart .. => true
  | _ => false

end Sys2Proof

namespace Sys2Proof.Machine

/-- A level of the scale (R1). -/
def InScale (x : Level) : Prop := off ≤ x ∧ x ≤ Config.levelTop

/-- A level that composition or the protective stage may give under a ceiling (R13, R174). -/
def InCeiling (ceiling x : Level) : Prop := off ≤ x ∧ x ≤ ceiling

/-! ## Cue Store -/

/-- The fields of a step in their ranges (R17). -/
structure CueStep.Legal (st : CueStep) : Prop where
  cue : st.cue ≠ 0
  level : ∀ x ∈ st.level, InScale x
  fade : st.fade ≤ 65535
  delay : st.delay ≤ 2047

/-- The two lists in strictly ascending order of their keys and within their capacities (R17, R18, R20, R21). -/
structure CueStore.Legal (cs : CueStore) : Prop where
  stepOrder : cs.steps.Pairwise fun a b => a.before b = true
  stepCount : cs.steps.length ≤ Config.maxSteps
  steps : ∀ st ∈ cs.steps, st.Legal
  headerOrder : cs.headers.Pairwise fun a b => a.cue.val < b.cue.val
  headerCount : cs.headers.length ≤ Config.maxHeaders
  headers : ∀ h ∈ cs.headers, h.cue ≠ 0 ∧ ∀ d ∈ h.follow, d ≤ 65535

/-! ## Configuration -/

/-- Every item in its range, as entered (R2, §8.7.1). -/
structure Configuration.Legal (k : Configuration) : Prop where
  ceiling : ∀ c, Config.levelFloor ≤ (k.chan.get c).ceiling ∧ (k.chan.get c).ceiling ≤ Config.levelTop
  owner : ∀ m, (k.master.get m).owner ≠ some 0
  deadband : k.deadband ≤ 63
  faultCount : 1 ≤ k.faultCount ∧ k.faultCount ≤ 15
  quietTime : 10 ≤ k.quietTime ∧ k.quietTime ≤ 200
  returnTime : k.returnTime ≤ 1000
  backTime : k.backTime ≤ 65535
  gotoTime : k.gotoTime ≤ 65535
  guardWindow : k.guardWindow ≤ 200
  readbackWindow : k.readbackWindow ≤ 31
  readbackLimit : 1 ≤ k.readbackLimit ∧ k.readbackLimit ≤ 15
  duck : Config.levelFloor ≤ k.duck ∧ k.duck ≤ 0
  recoveryTime : k.recoveryTime ≤ 1000
  unlockLength : 1 ≤ k.unlockLength ∧ k.unlockLength ≤ 6
  unlockCodes : ∀ i, k.unlockCodes.get i ≤ 35
  law : ∀ b, InScale (k.law.get b)
  scan : k.scanStart ≤ 31 ∧ k.scanStop ≤ 31

/-- The configuration in force is in range with its law in order, and so is the one in assembly but for the order of its
law, which CONFIG_END checks (R11, R156). -/
structure State.ConfigLegal (s : State) : Prop where
  inForce : s.config.Legal
  order : lawOrdered s.config.law = true
  assembly : ∀ a ∈ s.sl.assembly, a.config.Legal

/-! ## Fade Engine -/

/-- A fade record between events: not yet complete, and the cue level is the level of R5 at its elapsed count
(R62, R64, R73). -/
structure FadeChannel.Legal (ch : FadeChannel) : Prop where
  elapsed : ∀ r ∈ ch.slot, r.elapsed < r.duration
  duration : ∀ r ∈ ch.slot, r.duration ≤ 65535
  cue : ∀ r ∈ ch.slot, r.cue ≠ 0
  level : ∀ r ∈ ch.slot, ch.cueLevel = r.level

/-- The pending list in its order, one entry a channel, each with a delay still to run (R65). -/
structure PendingLegal (q : List PendingStep) : Prop where
  order : q.Pairwise fun a b => a.before b = true
  channels : (q.map PendingStep.channel).Nodup
  remaining : ∀ p ∈ q, 1 ≤ p.remaining ∧ p.remaining ≤ 2047
  fields : ∀ p ∈ q, p.cue ≠ 0 ∧ p.fade ≤ 65535

/-- FE between events (R62, R64, R65). -/
structure State.FadesLegal (s : State) : Prop where
  chan : ∀ c, (s.fe.chan.get c).Legal
  waiting : PendingLegal s.fe.waiting

/-! ## Panel Input -/

/-- The panel between events: a channel is touched only where the panel accepts input and its fader is not FAULTED; a quiet
timer runs only during a touch; the matcher stands above 0 only on the LOCKED panel of a RUNNING station; the slot being
converted lies in the scan range unless the range has changed during its conversion (R82, R83, R86 to R89, R91, R98, R99). -/
structure State.PanelLegal (s : State) : Prop where
  scan : s.pi.scanSlot ≤ 31
  scanRange : s.pi.rangeChanged = false → s.config.scanFirst ≤ s.pi.scanSlot ∧ s.pi.scanSlot ≤ s.config.scanStop
  touchAccepts : ∀ c, (s.pi.touch.get c).touched = true → s.acceptsInput = true
  touchFault : ∀ c, (s.pi.touch.get c).touched = true → (s.pi.slot.get (channelSlot c)).faulted = false
  quiet : ∀ c, (s.pi.touch.get c).quiet ≠ .stopped → (s.pi.touch.get c).touched = true
  offset : -64 ≤ s.pi.calOffset ∧ s.pi.calOffset ≤ 64
  run : ∀ k, (s.pi.slot.get k).run ≤ 14
  match_locked : 0 < s.pi.matchPos → s.pi.locked = true ∧ s.sl.state = .running
  match_timer : s.pi.unlockTimer ≠ .stopped ↔ 0 < s.pi.matchPos
  match_length : s.pi.matchPos < s.config.unlockLength

/-! ## Takeover and Spread Links -/

/-- The takeover state of a channel fits its mode, and a glide runs exactly while it is RETURNING (R103, R104, R110). -/
structure TakeoverChannel.Legal (ch : TakeoverChannel) (mode : Mode) : Prop where
  safe : mode = .safe → (ch.state = .safeManual ∨ ch.state = .overridden) ∧ ch.manual = off
  notSafe : mode ≠ .safe → ch.state ≠ .safeManual
  latched : ch.state = .latched → mode = .latch
  returning : ch.state = .returning → mode = .auto
  glide : ch.glide.isSome = true ↔ ch.state = .returning
  running : ∀ g ∈ ch.glide, g.elapsed < g.duration ∧ g.duration ≤ 1000

/-- A link record between events (R112, R114, R116). -/
structure State.LinkLegal (s : State) (l : LinkNo) : Prop where
  stamp : (s.tk.link.get l).stamp ≤ Config.stampTop
  held : (s.tk.link.get l).held = (s.tk.link.get l).holder.isSome
  holder : ∀ p ∈ (s.tk.link.get l).holder, p = s.sl.station ∨ s.present p = true
  here : (s.tk.link.get l).holder = some s.sl.station ↔ (s.tk.link.get l).touching ≠ []
  zero : (s.tk.link.get l).stamp = 0 → (s.tk.link.get l).lastToucher = none

/-- A touching list holds the member channels whose touches are counted, each once, and the last of them drives the link
(R109, R114). -/
structure State.TouchingLegal (s : State) (l : LinkNo) : Prop where
  once : (s.tk.link.get l).touching.Nodup
  member : ∀ c, c ∈ (s.tk.link.get l).touching ↔
    s.linkOf c = some l ∧ (s.pi.touch.get c).touched = true ∧ (s.tk.chan.get c).mark = false
  driving : ∀ d ∈ (s.tk.link.get l).touching.getLast?, (s.tk.link.get l).level = s.faderLevel d

/-- TK between events. A TOUCHED channel that follows a link is at the level of that link, which is held (R104, R118); a mark
stands only during a touch (R109). -/
structure State.TakeoverLegal (s : State) : Prop where
  chan : ∀ c, (s.tk.chan.get c).Legal (s.mode c)
  following : ∀ c l, s.follows l c = true → (s.tk.chan.get c).state = .touched →
    (s.tk.link.get l).held = true ∧ (s.tk.chan.get c).manual = (s.tk.link.get l).level
  mark : ∀ c, (s.tk.chan.get c).mark = true → (s.pi.touch.get c).touched = true

/-! ## Shared Groups -/

/-- This station is in a group's asserter set exactly when its own assertion is set (R131). -/
def State.AssertionsAgree (s : State) : Prop :=
  ∀ g, (s.sg.asserters.get g).get s.sl.station = s.pi.ownAssert.get g

/-! ## Show Link Controller -/

/-- The transmit queue between events (R141, R145 to R148). -/
structure State.QueueLegal (s : State) : Prop where
  length : s.sl.queue.length ≤ Config.maxQueue
  order : s.sl.queue.Pairwise fun a b => a.msg.kind ≤ b.msg.kind
  keys : s.sl.queue.Pairwise fun a b => a.msg.sameKey b.msg = false
  attempts : ∀ e ∈ s.sl.queue, e.attempts < Config.maxAttempts
  oneFrame : (s.sl.queue.countP fun e => e.sending.isSome) ≤ 1
  amended : ∀ e ∈ s.sl.queue, e.amended = true → e.sending.isSome = true
  silent : s.sl.station = 0 → s.sl.queue = []
  linkOff : s.busOff = true → s.sl.queue = []

/-- The counts of the CAN controller in their ranges (R148, R149). -/
structure State.ErrorsLegal (s : State) : Prop where
  tx : s.sl.txErrors ≤ Config.busOffAt
  rx : s.sl.rxErrors ≤ Config.receiveTop
  recessive : s.sl.recessive < Config.recessiveEnd
  idle : s.busOff = false → s.sl.recessive = 0

/-- The peer table and the alone condition between events (R150, R151), and the clash condition (R144). -/
structure State.PeersLegal (s : State) : Prop where
  unused : ∀ p, p = 0 ∨ p = s.sl.station → (s.sl.peer.get p).state = .unknown
  silence : ∀ p, (s.sl.peer.get p).state = .present ↔ (s.sl.peer.get p).silence ≠ .stopped
  alone : s.presentCount = 0 ↔ s.sl.aloneTimer ≠ .stopped ∨ s.sl.aloneCond = true
  clash : s.sl.clashCond = true ↔ s.sl.clashTimer ≠ .stopped

/-- The JOINING window between events, and what it keeps still (R57, R81, R154 to R156). -/
structure State.WindowLegal (s : State) : Prop where
  joining : s.sl.state = .joining → (s.sl.windowTimer = .stopped ↔ s.sl.limitTimer ≠ .stopped)
  running : s.sl.state = .running → s.sl.windowTimer = .stopped ∧ s.sl.limitTimer = .stopped
  assembly : s.sl.assembly.isSome = true → s.sl.limitTimer ≠ .stopped
  still : s.sl.state = .joining → s.seq.held = false ∧ s.seq.currentCue = 0 ∧ s.seq.follow = none
  fades : s.sl.state = .joining → s.fe.waiting = [] ∧ ∀ c, (s.fe.chan.get c).slot = none ∧ (s.fe.chan.get c).cueLevel = off
  adopted : s.sl.state = .running → s.seq.adoptedCue = 0 ∧ s.seq.adoptedHeld = false ∧ s.seq.adoptionSource = none ∧
    s.seq.cueSettled = false ∧ s.seq.heldSettled = false

/-! ## Gain Composer -/

/-- The action state of a channel fits its effective action, and its held level and glide fit its action state
(R173, R175). -/
structure ComposerChannel.Legal (g : ComposerChannel) (effective : Action) : Prop where
  action : match effective with
    | .none => g.action = .none ∨ g.action = .recovering
    | .hold => g.action = .hold
    | .duck => g.action = .duck
    | .mute => g.action = .mute
  held : g.held.isSome = true ↔ g.action = .hold
  glide : g.glide.isSome = true ↔ g.action = .recovering
  running : ∀ r ∈ g.glide, r.elapsed < r.duration ∧ r.duration ≤ 1000

/-- The action stage of every channel between events. -/
def State.ActionsLegal (s : State) : Prop := ∀ c, (s.gc.chan.get c).Legal (s.fi.effective.get c)

/-- GC's levels, FI's conditions and actions and the indicators agree with what the other blocks hold (R14, R15, R171, R172,
R174, R177, R179). -/
structure State.OutputsAgree (s : State) : Prop where
  composed : ∀ c, (s.gc.chan.get c).composed = s.composedLevel c
  appliedNone : ∀ c, (s.gc.chan.get c).action = .none → (s.gc.chan.get c).applied = (s.gc.chan.get c).composed
  appliedHold : ∀ c, (s.gc.chan.get c).action = .hold → ∀ x ∈ (s.gc.chan.get c).held, (s.gc.chan.get c).applied = x
  appliedDuck : ∀ c, (s.gc.chan.get c).action = .duck →
    (s.gc.chan.get c).applied = min (s.gc.chan.get c).composed s.config.duck
  appliedMute : ∀ c, (s.gc.chan.get c).action = .mute → (s.gc.chan.get c).applied = off
  appliedGlide : ∀ c, (s.gc.chan.get c).action = .recovering → ∀ g ∈ (s.gc.chan.get c).glide,
    (s.gc.chan.get c).applied = g.level (s.gc.chan.get c).composed
  conditions : ∀ c, s.fi.cond.get c = s.channelConditions c
  effective : ∀ c, s.fi.effective.get c = s.config.effective (s.channelConditions c) s.busOff
  taken : ∀ f, s.fi.taken.get (Flag.bit f) = s.condition f
  faultLine : s.fi.faultLine = s.faultActive
  stateLed : ∀ c, s.fi.stateLed.get c = s.statePattern c
  muteLed : ∀ c, s.fi.muteLed.get c = s.mutePattern c
  goLed : s.fi.goLed = s.goPattern
  stationLed : s.fi.stationLed = s.stationPattern

/-- Every flag whose condition is present is set (R176, R177). -/
def State.FlagsAgree (s : State) : Prop := ∀ f, s.condition f = true → s.flag f = true

/-! ## Levels -/

/-- Every level held by the part is a level of the scale, and every composed, applied and held level lies under its
channel's ceiling (R1, R13, R174). -/
structure State.LevelsLegal (s : State) : Prop where
  cueLevel : ∀ c, InScale (s.fe.chan.get c).cueLevel
  record : ∀ c, ∀ r ∈ (s.fe.chan.get c).slot, InScale r.start ∧ InScale r.target
  waiting : ∀ p ∈ s.fe.waiting, ∀ x ∈ p.level, InScale x
  fader : ∀ k, InScale (s.pi.slot.get k).level
  manual : ∀ c, InScale (s.tk.chan.get c).manual
  glide : ∀ c, ∀ g ∈ (s.tk.chan.get c).glide, InScale g.start
  link : ∀ l, InScale (s.tk.link.get l).level
  master : ∀ m, InScale (s.sg.master.get m).level
  composed : ∀ c, InCeiling (s.config.chan.get c).ceiling (s.gc.chan.get c).composed
  applied : ∀ c, InCeiling (s.config.chan.get c).ceiling (s.gc.chan.get c).applied
  held : ∀ c, ∀ x ∈ (s.gc.chan.get c).held, InCeiling (s.config.chan.get c).ceiling x
  recovery : ∀ c, ∀ g ∈ (s.gc.chan.get c).glide, InCeiling (s.config.chan.get c).ceiling g.start
  lastSent : ∀ c, ∀ x ∈ (s.gp.chan.get c).lastSent, InScale x

/-! ## Gain Port and fault record -/

/-- The counters and the indicator phase in their ranges (R176, R178). -/
structure FaultUnit.Legal (f : FaultUnit) : Prop where
  loadsRefused : f.counters.loadsRefused ≤ Config.counterTop
  goRefused : f.counters.goRefused ≤ Config.counterTop
  remoteIgnored : f.counters.remoteIgnored ≤ Config.counterTop
  txDrops : f.counters.txDrops ≤ Config.counterTop
  phase : f.phase < Config.phaseWrap ∧ f.phase % Config.indicatorMs = 0

end Sys2Proof.Machine
end

