-- ==== Sys2Proof/WellFormed.lean ====
section
/-! DEFINITION. The commands that name an event of their own row. A command that fails a check names an event of another row:
a message whose sender is 0 is an IGNORED_FRAME (R143), and no peer has the number 0 (R151). -/

namespace Sys2Proof

/-- The sender of a message command. -/
def Instr.sender? : Instr → Option Station
  | .restart p _ | .go p _ _ | .goto p _ _ _ | .hold p | .resume p => some p
  | .linkTouch p _ _ _ _ _ | .linkState p _ _ _ _ _ | .linkRelease p _ _ _ _ _ | .malformedLink p _ => some p
  | .muteGroup p _ _ | .groupLevel p _ _ | .presence p _ _ _ _ _ => some p
  | .statusRequest p _ | .statusReply p | .panelLock p _ _ => some p
  | .configBegin p _ | .configItem p _ _ _ _ | .configEnd p _ => some p
  | .stepLoad p _ _ _ _ _ _ _ _ | .stepDelete p _ _ _ | .headerLoad p _ _ _ _ | .headerDelete p _ _ => some p
  | .bankSet p _ _ _ _ _ | .cueErase p _ _ | .tableClear p _ => some p
  | .ignoredFrame (.unknownKind p) | .ignoredFrame (.tooFewBytes p) => some p
  | _ => none

/-- The target of an addressed message command (§8.2). -/
def Instr.target? : Instr → Option Station
  | .restart _ t | .statusRequest _ t | .panelLock _ t _ => some t
  | .configBegin _ t | .configItem _ t _ _ _ | .configEnd _ t => some t
  | .stepLoad _ t _ _ _ _ _ _ _ | .stepDelete _ t _ _ | .headerLoad _ t _ _ _ | .headerDelete _ t _ => some t
  | .bankSet _ t _ _ _ _ | .cueErase _ t _ | .tableClear _ t => some t
  | _ => none

/-- Whether a command names an event of its own row. -/
def Instr.wellFormed (i : Instr) : Bool :=
  (match i.sender? with
    | some p => p != 0
    | none => true) &&
  (match i with
    | .silenceTimerExpiry p => p != 0
    | _ => true)

end Sys2Proof
end

