-- ==== Sys2Proof/Certificates/Slice0/Obligations.lean ====
section
/-! DEFINITION. The statements for the provers. Where a statement gives a command's whole next state it writes it as
`w.commit s`: `w` is the state `s` with exactly the changes the rules give the command, and `EndOfAnEvent` says what `commit`
adds (the levels, conditions, indicators and marks that follow from `w`) and that it changes nothing else. `s.heard p` is `s`
after the reception of a frame from `p`, which `Reception` states. Where a rule's effect runs through several shared operations
(a GO, a touch, a step that starts), the statement names the relation of Sys2Proof/Effects.lean that spells it entry by entry. -/

open Sys2Proof Sys2Proof.Machine

/-! ## The machine -/

/-- A step runs the command at the front of the queue on the state with the queue's rest. -/
def Obligations.StepRunsTheFrontCommand : Prop :=
  ∀ (c : Instr) (rest : List Instr) (s : State), s.pending = c :: rest → step s = exec c { s with pending := rest }

/-- Every command, with every operand and in every state, ends in a next state, and leaves the commands that wait behind it as
they were. The queue of waiting commands is the model's own (log 1), a reset keeps it (log 12), and a command that names an event
which cannot come about leaves the state (log 4). -/
def Obligations.EveryCommandEndsInANextState : Prop :=
  ∀ (c : Instr) (s : State), ∃ t, exec c s = .next t ∧ t.pending = s.pending

/-- What the end of an event forms, and that it changes nothing else (R15, R162, R171, R174, R176, R177, R179). The order in
which the marks of one event join the update queue is the model's choice (log 6). -/
def Obligations.EndOfAnEvent : Prop :=
  ∀ w s : State,
    let t := w.commit s
    t =
      { w with
        gc.chan := t.gc.chan
        gp.queue := t.gp.queue
        fi.cond := t.fi.cond
        fi.effective := t.fi.effective
        fi.taken := t.fi.taken
        fi.flags := t.fi.flags
        fi.faultLine := t.fi.faultLine
        fi.stateLed := t.fi.stateLed
        fi.muteLed := t.fi.muteLed
        fi.goLed := t.fi.goLed
        fi.stationLed := t.fi.stationLed } ∧
    t.OutputsAgree ∧
    (∀ f, t.flag f = (w.flag f || (w.condition f && !w.fi.taken.get f.bit))) ∧
    t.gp.queue =
      w.gp.queue ++ (List.finRange 24).filter fun c =>
        decide ((t.gc.chan.get c).applied ≠ (s.gc.chan.get c).applied) && decide (c ∉ w.gp.queue) &&
          decide ((w.gp.chan.get c).lastSent ≠ some (t.gc.chan.get c).applied)

/-- What the outputs show once an event has ended: the conditions behind the flags and the channels (R171, R176), the FAULT line,
driven while a flag is set that the mask does not mask (R177), the LEDs by the tables of R179, the burst over the GO LED, and what
lights an LED (R178). -/
def Obligations.IndicatorsAndFlagConditions : Prop :=
  (∀ (p : Pattern) (phase : Nat), p.lit phase = true ↔
    p = .steady ∨ (p = .slow ∧ phase % 2000 < 1000) ∨ (p = .pulse ∧ phase % 1200 < 150) ∨
      (p = .fast ∧ phase % 250 < 125)) ∧
  (∀ (f : Flag) (n : Nat),
    (f, n) ∈
      [(Flag.calFault, 1), (.configRejected, 2), (.tableFull, 3), (.loadRefused, 4), (.txOverflow, 5), (.linkOff, 6),
        (.linkAlone, 7), (.stationClash, 8), (.goRefused, 9), (.anyFaderFault, 10), (.anyGroupStale, 11),
        (.anyReadbackMismatch, 12)] →
    f.bit.val + 1 = n) ∧
  ∀ w s : State,
    let t := w.commit s
    let stale : Channel → Prop := fun c =>
      ∃ m, (w.config.chan.get c).masters.getLsbD m.val = true ∧ (w.sg.master.get m).fresh = false
    let linkOff := 256 ≤ w.sl.txErrors
    (w.condition .calFault = w.pi.calFault ∧ w.condition .linkAlone = w.sl.aloneCond ∧
      w.condition .stationClash = w.sl.clashCond ∧ (w.condition .linkOff = true ↔ linkOff) ∧
      (w.condition .tableFull = true ↔ 2048 ≤ w.cs.steps.length ∨ 512 ≤ w.cs.headers.length) ∧
      (w.condition .anyFaderFault = true ↔ ∃ k, (w.pi.slot.get k).faulted = true) ∧
      (w.condition .anyGroupStale = true ↔ ∃ c, stale c) ∧
      (w.condition .anyReadbackMismatch = true ↔ ∃ c, (w.gp.chan.get c).mismatch = true) ∧
      ∀ f ∈ [Flag.configRejected, .loadRefused, .txOverflow, .goRefused], w.condition f = false) ∧
    (∀ c : Channel,
      (t.fi.cond.get c).faderFault = (w.pi.slot.get (channelSlot c)).faulted ∧
      ((t.fi.cond.get c).groupStale = true ↔ stale c) ∧
      (t.fi.cond.get c).mismatch = (w.gp.chan.get c).mismatch) ∧
    (t.fi.faultLine = true ↔ ∃ f, t.flag f = true ∧ w.config.faultMask.getLsbD f.bit.val = false) ∧
    (∀ c : Channel,
      let x := (w.tk.chan.get c).state
      t.fi.stateLed.get c =
        (if (w.pi.slot.get (channelSlot c)).faulted then .fast
        else if x = .overridden ∨ x = .returning then .pulse
        else if x = .touched then .steady
        else if x = .latched ∨ x = .safeManual then .slow
        else .off) ∧
      let muting := (w.fe.chan.get c).cueMute = true ∨
        ∃ (g : GroupNo) (p : Station),
          (w.config.chan.get c).groups.getLsbD g.val = true ∧ (w.sg.asserters.get g).get p = true
      ((t.gc.chan.get c).action = .mute → t.fi.muteLed.get c = .fast) ∧
      ((t.gc.chan.get c).action ≠ .mute →
        (w.pi.panelMute.get c = true → t.fi.muteLed.get c = .steady) ∧
        (w.pi.panelMute.get c = false → muting → t.fi.muteLed.get c = .slow) ∧
        (w.pi.panelMute.get c = false → ¬muting → t.fi.muteLed.get c = .off))) ∧
    (let ready := ∃ n, w.cs.next w.seq.currentCue = some n ∧ (w.cs.bankOf n).localGo = true ∧ (w.cs.bankOf n).kind ≠ .parked
     (w.fi.burstTimer ≠ .stopped → t.fi.goLed = .fast) ∧
     (w.fi.burstTimer = .stopped →
       (w.seq.held = true → t.fi.goLed = .slow) ∧
       (w.seq.held = false → ready → t.fi.goLed = .steady) ∧
       (w.seq.held = false → ¬ready → t.fi.goLed = .off))) ∧
    (w.sl.state = .joining → t.fi.stationLed = .pulse) ∧
    (w.sl.state = .running →
      (linkOff ∨ w.sl.clashCond = true → t.fi.stationLed = .fast) ∧
      (¬(linkOff ∨ w.sl.clashCond = true) → t.fi.stationLed = if w.sl.aloneCond then .slow else .steady)) ∧
    (∀ c : Channel, t.stateLedLit c = (t.fi.stateLed.get c).lit w.fi.phase ∧
      t.muteLedLit c = (t.fi.muteLed.get c).lit w.fi.phase) ∧
    t.goLedLit = t.fi.goLed.lit w.fi.phase ∧ t.stationLedLit = t.fi.stationLed.lit w.fi.phase

/-! ## Resets -/

/-- After a power-on and after a RESET-line reset every block holds its reset values; the straps give the number and the bit
rate; the first PRESENCE is queued, except at a silent station (R38, R61, R80, R101, R123, R140, R141, R160, R170, R180). That a
reset keeps the waiting commands is the model's choice (log 12). -/
def Obligations.ColdResetValues : Prop :=
  ∀ (n : Station) (r : Fin 4) (rate : BitRate) (s : State),
    (r.val, rate) ∈ [(0, BitRate.k250), (1, .k500), (2, .k1000), (3, .k500)] →
    ∀ i ∈ [Instr.powerOn n r, Instr.resetLine n r],
      exec i s =
        .next
          { State.reset with
            sl.station := n
            sl.rate := rate
            sl.queue := if n = 0 then [] else [⟨.presence true false 0 0 0, 0, false, none⟩]
            pending := s.pending }

/-- A RESTART under a legal configuration, which every state that a run reaches has (StoreAndConfigurationKept), completes. After it
the store, the configuration in force, the calibration offset, the number and the bit rate are kept, and everything else is as a
reset leaves it under that configuration (R38, R61, R80, R101, R123, R140, R159, R160, R170, R180). That the waiting commands are
kept, and that the first PRESENCE tells the flags of the conditions then present, is log 12. -/
def Obligations.RestartValues : Prop :=
  ∀ (p target : Station) (s : State), p ≠ 0 → s.addressed target = true → s.ConfigLegal →
    ∃ t, exec (.restart p target) s = .next t ∧ t.cs = s.cs ∧ t.seq = State.reset.seq ∧ t.fe = State.reset.fe ∧
      t.pi =
        { State.reset.pi with
          scanSlot := min s.config.scanStart s.config.scanStop
          calOffset := s.pi.calOffset
          locked := s.config.lockAtStart } ∧
      (∀ c, t.tk.chan.get c = ⟨if s.mode c = .safe then .safeManual else .cue, off, none, false⟩) ∧
      t.tk.link = State.reset.tk.link ∧ t.tk.glideTimer = .running 10 ∧ t.sg = State.reset.sg ∧ t.gp = State.reset.gp ∧
      t.sl =
        { State.reset.sl with
          station := s.sl.station
          rate := s.sl.rate
          config := s.config
          queue :=
            if s.sl.station = 0 then [] else [⟨.presence true false 0 0 t.faultSummary, 0, false, none⟩] } ∧
      (∀ c, (t.gc.chan.get c).composed = off ∧ (t.gc.chan.get c).applied = off) ∧ t.gc.recoveryTimer = .running 10 ∧
      t.OutputsAgree ∧ t.ActionsLegal ∧ (∀ f, t.flag f = t.condition f) ∧ t.fi.counters = ⟨0, 0, 0, 0⟩ ∧
      t.fi.lastReason = none ∧ t.fi.phase = 0 ∧ t.fi.indicatorTimer = .running 25 ∧ t.fi.burstTimer = .stopped ∧
      t.pending = s.pending

/-- The state right after reset, whose straps the model sets to 0 (log 3), meets every invariant below. -/
def Obligations.ResetMeetsTheInvariants : Prop :=
  let s := State.reset
  s.cs.Legal ∧ s.ConfigLegal ∧ s.FadesLegal ∧ s.PanelLegal ∧ (∀ l, s.LinkLegal l ∧ s.TouchingLegal l) ∧ s.TakeoverLegal ∧
    s.AssertionsAgree ∧ s.QueueLegal ∧ s.ErrorsLegal ∧ s.PeersLegal ∧ s.WindowLegal ∧ s.ActionsLegal ∧ s.OutputsAgree ∧
    s.FlagsAgree ∧ s.LevelsLegal ∧ s.fi.Legal ∧ s.gp.queue.Nodup

/-! ## Level arithmetic -/

/-- Progress is the exact quotient, runs from 0 to 4096, reaches 4096 at the full count alone, and never decreases (R3); the four
curves have their formulas and their ends, and none of them ever falls (R4). -/
def Obligations.ProgressAndCurves : Prop :=
  (∀ d : Nat, 1 ≤ d →
     progress 0 d = 0 ∧ progress d d = 4096 ∧
       ∀ e, e ≤ d → progress e d = e * 4096 / d ∧ progress e d ≤ 4096 ∧ (progress e d = 4096 → e = d) ∧
         (∀ e', e ≤ e' → progress e d ≤ progress e' d) ∧ (d ≤ 65535 → e * 4096 ≤ 268431360)) ∧
  (∀ p, shape .linear p = p ∧ shape .easeIn p = p * p / 4096 ∧
    shape .easeOut p = 4096 - (4096 - p) * (4096 - p) / 4096 ∧
    shape .sCurve p = p * p * (12288 - 2 * p) / 16777216) ∧
  ∀ k : Curve, shape k 0 = 0 ∧ shape k 4096 = 4096 ∧
    ∀ p q, p ≤ q → q ≤ 4096 → shape k p ≤ shape k q ∧ shape k q ≤ 4096

/-- The level of a fade lies between its start and its target, leaves the one and arrives at the other, and never turns back
(R5); the level of a glide toward a live target lies between the two, starts at its start, is the target once it has ended, and
moves in the direction in which the target moves (R7, R8). The formula of R5 is taken at every count, EASE_OUT included, where R5's
prose would have no count before the last give the target (log 21). -/
def Obligations.FadesAndGlidesStayBetween : Prop :=
  (∀ (a t : Level) (d : Nat) (k : Curve), 1 ≤ d →
     let at' : Nat → Level := fun e => FadeRecord.level ⟨0, a, t, d, e, k⟩
     at' 0 = a ∧ at' d = t ∧
       ∀ e, e ≤ d →
         at' e = a + Int.tdiv ((t - a) * shape k (e * 4096 / d)) 4096 ∧
         min a t ≤ at' e ∧ at' e ≤ max a t ∧
         ∀ e', e ≤ e' → e' ≤ d → (a ≤ t → at' e ≤ at' e') ∧ (t ≤ a → at' e' ≤ at' e)) ∧
  ∀ (a t : Level) (d e : Nat),
    let g : Glide := ⟨a, e, d⟩
    (d ≤ e → g.level t = t) ∧
    (e < d → g.level t = a + Int.tdiv ((t - a) * (e * 4096 / d : Nat)) 4096) ∧
    (1 ≤ d → Glide.level ⟨a, 0, d⟩ t = a) ∧
    min a t ≤ g.level t ∧ g.level t ≤ max a t ∧ (∀ t', t ≤ t' → g.level t ≤ g.level t')

/-- The fader law: when a law is in order, its five steps, the breakpoints at the ends of its segments, the end zones, and that a
fader moved up never falls and never leaves the scale (R9, R10, R11). -/
def Obligations.FaderLawRises : Prop :=
  (∀ law : Table 16 Level,
    (lawOrdered law = true ↔ ∀ i j : Fin 16, i.val ≤ j.val → law.get i ≤ law.get j) ∧
    ∀ b : Fin 16, breakpoint law b.val = law.get b) ∧
  ∀ law : Table 16 Level, (∀ b, InScale (law.get b)) → lawOrdered law = true →
    (∀ (raw : Nat) (offset : Int),
      (calibrate raw offset : Int) = max 0 (min (raw + offset) 4095)) ∧
    (∀ c q : Nat, (q : Int) = max 0 (min ((c : Int) - 128) 3839) →
      lawLevel law c =
        breakpoint law (q / 256) +
          Int.tdiv ((breakpoint law (q / 256 + 1) - breakpoint law (q / 256)) * (q % 256 : Nat)) 255) ∧
    (∀ c c' : Nat, c ≤ c' → lawLevel law c ≤ lawLevel law c') ∧ (∀ c, InScale (lawLevel law c)) ∧
    (∀ c, c ≤ 128 → lawLevel law c = law.get 0) ∧ (∀ c, 3967 ≤ c → lawLevel law c = law.get 15) ∧
    ∀ k : Fin 15,
      lawLevel law (128 + 256 * k.val) = breakpoint law k.val ∧
      lawLevel law (128 + 256 * k.val + 255) = breakpoint law (k.val + 1)

/-- The source level by takeover state (the table of R103, with the glide of R110). The sum of a channel: OFF absorbs, otherwise
the source level and the level of every master in the channel's set are added once each, FRESH or STALE; the sum lies in
−8091..+900 (R12). The composed level: OFF under any mute, otherwise the saturated sum, which is OFF or lies in −899..ceiling and
which the ceiling never raises (R13, R14). -/
def Obligations.SumAndComposedLevel : Prop :=
  (∀ (s : State) (c : Channel),
     let tk := s.tk.chan.get c
     let cueLevel := (s.fe.chan.get c).cueLevel
     (tk.state = .cue ∨ tk.state = .overridden → s.sourceLevel c = cueLevel) ∧
     (tk.state = .touched ∨ tk.state = .latched → s.sourceLevel c = tk.manual) ∧
     (tk.state = .returning → ∀ g, tk.glide = some g → s.sourceLevel c = g.level cueLevel) ∧
     (tk.state = .safeManual → s.sourceLevel c = (s.pi.slot.get (channelSlot c)).level)) ∧
  (∀ (s : State) (c : Channel),
     let sum := levelSum (s.sourceLevel c) (s.masterLevels c)
     let member : MasterNo → Bool := fun m => (s.config.chan.get c).masters.getLsbD m.val
     (sum = none ↔ s.sourceLevel c = off ∨ ∃ m, member m = true ∧ (s.sg.master.get m).level = off) ∧
     (∀ x, sum = some x →
       x = s.sourceLevel c + ∑ m : MasterNo, (if member m then (s.sg.master.get m).level else 0)) ∧
     (InScale (s.sourceLevel c) → (∀ m, InScale (s.sg.master.get m).level) →
       ∀ x, sum = some x → -8091 ≤ x ∧ x ≤ 900)) ∧
  ∀ (s : State) (c : Channel),
    let ceiling := (s.config.chan.get c).ceiling
    let sum := levelSum (s.sourceLevel c) (s.masterLevels c)
    let x := s.composedLevel c
    let muted := (s.fe.chan.get c).cueMute = true ∨ s.pi.panelMute.get c = true ∨
      ∃ (g : GroupNo) (p : Station),
        (s.config.chan.get c).groups.getLsbD g.val = true ∧ (s.sg.asserters.get g).get p = true
    (muted → x = off) ∧
    (¬muted → sum = none → x = off) ∧
    (¬muted → ∀ y, sum = some y →
      (y < -899 → x = off) ∧ (ceiling < y → -899 ≤ y → x = ceiling) ∧ (-899 ≤ y → y ≤ ceiling → x = y)) ∧
    (-899 ≤ ceiling → x = off ∨ (-899 ≤ x ∧ x ≤ ceiling))

/-! ## Protective actions -/

/-- The effective action is the highest of the actions mapped from the conditions present, NONE where there is none (R172); the
applied level that each action state gives; and at the end of an event the action stage follows a newly handed action and forms
the applied level (R16, R173, R174). A HOLD or a recovery that is newly handed starts from the level formed from the event's new
inputs under the old action (log 13). -/
def Obligations.ProtectiveActions : Prop :=
  (∀ a n, (a, n) ∈ [(Action.none, 0), (.hold, 1), (.duck, 2), (.mute, 3)] → a.rank = n) ∧
  (∀ (g : ComposerChannel) (duck : Level),
    (g.action = .none → g.level duck = g.composed) ∧
    (g.action = .hold → ∀ x, g.held = some x → g.level duck = x) ∧
    (g.action = .duck → g.level duck = min g.composed duck) ∧
    (g.action = .mute → g.level duck = off) ∧
    (g.action = .recovering → ∀ r, g.glide = some r → g.level duck = r.level g.composed)) ∧
  (∀ (k : Configuration) (cond : ChannelConditions) (linkOff : Bool),
    let kinds : List (Bool × Action) :=
      [(cond.faderFault, k.actions.get 0), (cond.groupStale, k.actions.get 1), (cond.mismatch, k.actions.get 2),
        (linkOff, k.actions.get 3)]
    let a := k.effective cond linkOff
    (∀ x ∈ kinds, x.1 = true → x.2.rank ≤ a.rank) ∧ (a = .none ∨ ∃ x ∈ kinds, x.1 = true ∧ x.2 = a)) ∧
  ∀ (w s : State) (c : Channel),
    let duck := w.config.duck
    let recovery := w.config.recoveryTime
    let g := w.gc.chan.get c
    let x := w.composedLevel c
    let before := ({ g with composed := x } : ComposerChannel).level duck
    let a := w.config.effective (w.channelConditions c) w.busOff
    let u := (w.commit s).gc.chan.get c
    u.composed = x ∧ (w.commit s).fi.effective.get c = a ∧
    (a = w.fi.effective.get c → u = { g with composed := x, applied := before }) ∧
    (a ≠ w.fi.effective.get c →
      (a = .hold → u = ⟨x, before, .hold, some before, none⟩) ∧
      (a = .duck → u = ⟨x, min x duck, .duck, none, none⟩) ∧
      (a = .mute → u = ⟨x, off, .mute, none, none⟩) ∧
      (a = .none → recovery = 0 → u = ⟨x, x, .none, none, none⟩) ∧
      (a = .none → recovery ≠ 0 → u = ⟨x, before, .recovering, none, some ⟨before, 0, recovery⟩⟩))

/-! ## Cue Store -/

/-- The bank of a cue is the entry of its number divided by 256 (R19), and its follow delay is that of its own header, none where
it has no header or the header carries none (R18, R44). The next cue is the smallest listed cue above the one asked about, the
previous the greatest below it, whatever the bank table holds and whether or not the cue asked about is listed (R34). The tracked
level comes from the channel's latest step with a target up to the cue, OFF without one; the tracked mute from its latest step
with a mute action, unmuted without one (R35, R36). -/
def Obligations.StoreLookups : Prop :=
  (∀ (cs : CueStore) (n : Cue) (b : Fin 16), b.val = n.val / 256 → cs.bankOf n = cs.banks.get b) ∧
  (∀ (cs : CueStore) (n : Cue), cs.Legal →
    (∀ h ∈ cs.headers, h.cue = n → cs.followOf n = h.follow) ∧
    ((∀ h ∈ cs.headers, h.cue ≠ n) → cs.followOf n = none)) ∧
  (∀ (cs : CueStore) (c : Cue),
     (∀ n, cs.next c = some n ↔
       (∃ h ∈ cs.headers, h.cue = n) ∧ c.val < n.val ∧ ∀ h ∈ cs.headers, c.val < h.cue.val → n.val ≤ h.cue.val) ∧
     (cs.next c = none ↔ ∀ h ∈ cs.headers, h.cue.val ≤ c.val) ∧
     (∀ n, cs.previous c = some n ↔
       (∃ h ∈ cs.headers, h.cue = n) ∧ n.val < c.val ∧ ∀ h ∈ cs.headers, h.cue.val < c.val → h.cue.val ≤ n.val) ∧
     (cs.previous c = none ↔ ∀ h ∈ cs.headers, c.val ≤ h.cue.val)) ∧
  ∀ (cs : CueStore) (c : Channel) (n : Cue), cs.Legal →
    (∀ st ∈ cs.steps, st.channel = c → st.cue.val ≤ n.val → ∀ x, st.level = some x →
      (∀ u ∈ cs.steps, u.channel = c → u.cue.val ≤ n.val → u.level.isSome = true → u.cue.val ≤ st.cue.val) →
        cs.trackedLevel c n = x) ∧
    ((∀ u ∈ cs.steps, u.channel = c → u.cue.val ≤ n.val → u.level = none) → cs.trackedLevel c n = off) ∧
    (∀ st ∈ cs.steps, st.channel = c → st.cue.val ≤ n.val → st.mute ≠ .none →
      (∀ u ∈ cs.steps, u.channel = c → u.cue.val ≤ n.val → u.mute ≠ .none → u.cue.val ≤ st.cue.val) →
        (cs.trackedMute c n = true ↔ st.mute = .mute)) ∧
    ((∀ u ∈ cs.steps, u.channel = c → u.cue.val ≤ n.val → u.mute = .none) → cs.trackedMute c n = false)

/-- A STEP_LOAD and a HEADER_LOAD that are not refused: the record replaces the one of its key or joins, every other record
stays, the list keeps its order, and nothing else is edited; the curve and mute codes, mute code 3 being NONE (R2, R18, R24, R25,
R27). -/
def Obligations.LoadsTaken : Prop :=
  ∀ (p target : Station) (cue : Cue) (s : State),
    p ≠ 0 → s.addressed target = true → cue ≠ 0 → s.cs.Legal →
    (∀ (channel : Fin 32) (c : Channel) (level : BitVec 11) (fade : Fin 65536) (delay : Fin 2048) (curve mute : Fin 4)
      (k : Curve) (a : MuteAction),
      channel.val = c.val + 1 →
      (curve.val, k) ∈ [(0, Curve.linear), (1, .easeIn), (2, .easeOut), (3, .sCurve)] →
      (mute.val, a) ∈ [(0, MuteAction.none), (1, .mute), (2, .unmute), (3, .none)] →
      let st : CueStep :=
        ⟨cue, c, if level.toInt = -1024 then none else some (max (-900) (min level.toInt 100)), fade.val, delay.val, k, a⟩
      let held := ∃ x ∈ s.cs.steps, x.cue = cue ∧ x.channel = c
      (held ∨ s.cs.steps.length < 2048) →
      ∃ steps,
        exec (.stepLoad p target cue channel level fade delay curve mute) s =
          .next ({ s.heard p with cs.steps := steps }.commit s) ∧
        (∀ x, x ∈ steps ↔ x = st ∨ (x ∈ s.cs.steps ∧ ¬(x.cue = cue ∧ x.channel = c))) ∧
        steps.Pairwise (fun a b => a.cue.val < b.cue.val ∨ (a.cue = b.cue ∧ a.channel.val < b.channel.val)) ∧
        (held → steps.length = s.cs.steps.length) ∧ (¬held → steps.length = s.cs.steps.length + 1)) ∧
    ∀ (present : Bool) (follow : Fin 65536),
      let h : Header := ⟨cue, if present then some follow.val else none⟩
      let held := ∃ x ∈ s.cs.headers, x.cue = cue
      (held ∨ s.cs.headers.length < 512) →
      ∃ headers,
        exec (.headerLoad p target cue present follow) s =
          .next ({ s.heard p with cs.headers := headers }.commit s) ∧
        (∀ x, x ∈ headers ↔ x = h ∨ (x ∈ s.cs.headers ∧ x.cue ≠ cue)) ∧
        headers.Pairwise (fun a b => a.cue.val < b.cue.val) ∧
        (held → headers.length = s.cs.headers.length) ∧ (¬held → headers.length = s.cs.headers.length + 1)

/-- The deletes, the erase, the clear and the bank edit that are not refused: exactly the named records leave, and a BANK_SET
changes exactly its entry (R26, R28, R29, R30, R31). -/
def Obligations.StoreEditsTaken : Prop :=
  ∀ (p target : Station) (s : State), p ≠ 0 → s.addressed target = true →
    (∀ (cue : Cue) (channel : Fin 32) (c : Channel), cue ≠ 0 → channel.val = c.val + 1 →
      exec (.stepDelete p target cue channel) s =
        .next
          ({ s.heard p with cs.steps := s.cs.steps.filter fun x => decide (¬(x.cue = cue ∧ x.channel = c)) }.commit s)) ∧
    (∀ cue : Cue, cue ≠ 0 →
      exec (.headerDelete p target cue) s =
        .next ({ s.heard p with cs.headers := s.cs.headers.filter fun x => decide (x.cue ≠ cue) }.commit s) ∧
      exec (.cueErase p target cue) s =
        .next
          ({ s.heard p with
              cs.steps := s.cs.steps.filter fun x => decide (x.cue ≠ cue)
              cs.headers := s.cs.headers.filter fun x => decide (x.cue ≠ cue) }.commit s)) ∧
    exec (.tableClear p target) s = .next ({ s.heard p with cs.steps := [], cs.headers := [] }.commit s) ∧
    ∀ (bank : Fin 16) (remoteGo localGo : Bool) (code : Nat) (kind : BankKind),
      (code, kind) ∈ [(0, BankKind.plain), (1, .priority), (2, .parked)] →
      ∃ banks, exec (.bankSet p target bank remoteGo localGo code) s = .next ({ s.heard p with cs.banks := banks }.commit s) ∧
        ∀ b, banks.get b = if b = bank then ⟨remoteGo, localGo, kind⟩ else s.cs.banks.get b

/-- The refused store messages and their reasons, the cue checked before the channel: the lists and the banks stay, LOAD_REFUSED
is set, the refusal is counted, its reason kept, and with TABLE_FULL the flag TABLE_FULL is set (R23 to R30). -/
def Obligations.StoreRefusals : Prop :=
  ∀ (p target : Station) (s : State), p ≠ 0 → s.addressed target = true →
    let refuses : Instr → Reason → Prop := fun i r =>
      ∃ flags,
        exec i s =
          .next
            ({ s.heard p with
                fi.flags := flags
                fi.counters.loadsRefused :=
                  if s.fi.counters.loadsRefused < 63 then s.fi.counters.loadsRefused + 1 else s.fi.counters.loadsRefused
                fi.lastReason := some r }.commit s) ∧
        ∀ f, flags.get (Flag.bit f) =
          ((s.heard p).flag f || decide (f = .loadRefused) || (decide (f = .tableFull) && decide (r = .tableFull)))
    (∀ channel level fade delay curve mute,
      refuses (.stepLoad p target 0 channel level fade delay curve mute) .badCue) ∧
    (∀ channel, refuses (.stepDelete p target 0 channel) .badCue) ∧
    (∀ present follow, refuses (.headerLoad p target 0 present follow) .badCue) ∧
    refuses (.headerDelete p target 0) .badCue ∧ refuses (.cueErase p target 0) .badCue ∧
    (∀ (cue : Cue) (channel : Fin 32) level fade delay curve mute, cue ≠ 0 → channel.val = 0 ∨ 25 ≤ channel.val →
      refuses (.stepLoad p target cue channel level fade delay curve mute) .badChannel ∧
      refuses (.stepDelete p target cue channel) .badChannel) ∧
    (∀ (cue : Cue) (channel : Fin 32) (c : Channel) level fade delay curve mute, cue ≠ 0 → channel.val = c.val + 1 →
      2048 ≤ s.cs.steps.length → (∀ x ∈ s.cs.steps, ¬(x.cue = cue ∧ x.channel = c)) →
      refuses (.stepLoad p target cue channel level fade delay curve mute) .tableFull) ∧
    (∀ (cue : Cue) present follow, cue ≠ 0 → 512 ≤ s.cs.headers.length → (∀ x ∈ s.cs.headers, x.cue ≠ cue) →
      refuses (.headerLoad p target cue present follow) .tableFull) ∧
    ∀ (bank : Fin 16) (remoteGo localGo : Bool) (code : Nat), 3 ≤ code →
      refuses (.bankSet p target bank remoteGo localGo code) .badKind

/-! ## Frames received -/

/-- A frame from a peer: the receive error count falls, the peer's entry becomes PRESENT with its silence timer started afresh,
and the alone timer and condition end if it was not PRESENT before; a STATUS_REPLY does nothing else and is not counted (R143, R148,
R150, R151, R158). A frame that bears this station's own number: the clash condition becomes present, the clash timer starts
afresh, STATION_CLASH is set; a PRESENCE, a MUTE_GROUP and a GROUP_LEVEL of it are counted and do nothing else; the expiry of the
clash timer ends the condition (R127, R133, R144). -/
def Obligations.Reception : Prop :=
  (∀ (p : Station) (s : State), p ≠ 0 → p ≠ s.sl.station →
     let was := (s.sl.peer.get p).state
     ∃ peer,
       (∀ q, peer.get q =
         if q = p then { s.sl.peer.get p with state := .present, silence := .running 1000 } else s.sl.peer.get q) ∧
       s.heard p =
         { s with
           sl.rxErrors := s.sl.rxErrors - 1
           sl.peer := peer
           sl.aloneTimer := if was = .present then s.sl.aloneTimer else .stopped
           sl.aloneCond := if was = .present then s.sl.aloneCond else false } ∧
       exec (.statusReply p) s = .next ((s.heard p).commit s)) ∧
  ∀ s : State,
    let own := s.sl.station
    (own ≠ 0 →
      s.heard own =
        { s with
          sl.rxErrors := s.sl.rxErrors - 1
          sl.clashCond := true
          sl.clashTimer := .running 1000
          fi.flags := if s.sl.clashCond then s.fi.flags else s.fi.flags.set 7 true } ∧
      ((s.heard own).commit s).flag .stationClash = (s.flag .stationClash || !s.sl.clashCond || !s.fi.taken.get 7) ∧
      (∀ joining held cue mask summary,
        exec (.presence own joining held cue mask summary) s = .next ((s.heard own).countIgnored.commit s)) ∧
      (∀ g b, exec (.muteGroup own g b) s = .next ((s.heard own).countIgnored.commit s)) ∧
      ∀ m level, exec (.groupLevel own m level) s = .next ((s.heard own).countIgnored.commit s)) ∧
    (s.sl.clashTimer ≠ .stopped →
      exec .clashTimerExpiry s = .next ({ s with sl.clashTimer := .stopped, sl.clashCond := false }.commit s))

/-- A message whose sender is 0, a frame of no kind and a frame too short are counted and do nothing else; one that bears this
station's own number begins the clash first: the clash condition, its timer started afresh, and STATION_CLASH (R144). An extended
frame and a remote frame are disregarded; an addressed message whose target is neither this station's number nor 0 stops after the
reception, uncounted (R22, R143). At a silent station a sender of 0 is this station's own number as well, so that the clash comes
first; an ignored frame of a peer leaves the peer's entry as it was: both are the model's reading (log 11). -/
def Obligations.FramesThatGoNoFurther : Prop :=
  (∀ s : State,
     let counted : State → State := fun w =>
       { w with
         fi.counters.remoteIgnored :=
           if s.fi.counters.remoteIgnored < 63 then s.fi.counters.remoteIgnored + 1 else s.fi.counters.remoteIgnored }
     let received : State := { s with sl.rxErrors := s.sl.rxErrors - 1 }
     let clashing : State :=
       { received with
         sl.clashCond := true
         sl.clashTimer := .running 1000
         fi.flags := if s.sl.clashCond then s.fi.flags else s.fi.flags.set 7 true }
     let fromZero : State := if s.sl.station = 0 then clashing else received
     s.countIgnored = counted s ∧
     (∀ target, s.addressed target = true ↔ target = s.sl.station ∨ target = 0) ∧
     (∀ p : Station, p = s.sl.station →
       exec (.ignoredFrame (.unknownKind p)) s = .next ((counted clashing).commit s) ∧
       exec (.ignoredFrame (.tooFewBytes p)) s = .next ((counted clashing).commit s)) ∧
     (∀ i : Instr, i.sender? = some 0 → exec i s = .next ((counted fromZero).commit s)) ∧
     exec (.ignoredFrame .senderZero) s = .next ((counted fromZero).commit s) ∧
     (∀ p : Station, p ≠ s.sl.station →
       exec (.ignoredFrame (.unknownKind p)) s = .next ((counted received).commit s) ∧
       exec (.ignoredFrame (.tooFewBytes p)) s = .next ((counted received).commit s)) ∧
     exec (.ignoredFrame .extended) s = .next (received.commit s) ∧
     exec (.ignoredFrame .remote) s = .next (received.commit s)) ∧
  ∀ (i : Instr) (p target : Station) (s : State),
    i.sender? = some p → i.target? = some target → p ≠ 0 → target ≠ 0 → target ≠ s.sl.station →
      exec i s = .next ((s.heard p).commit s)

/-! ## Cue execution -/

/-- A received GO that passes its tests while RUNNING is taken: HELD clears, the cue becomes current, the GO stamp and, with cause
KEY, the key stamp take the frame count, the follow timer is armed by the cue's header alone, and the cue's steps are handed over in
ascending channel order, those of SAFE channels under a PRIORITY bank alone, each to wait or to start (`State.GoIsTaken`: R42, R43,
R44, R48, R67 to R71, R107 to R109). A follow delay of 0 then expires at the same event (`State.FollowsOn`: R44, R47). The start
level of a clear-marked step on a SAFE_MANUAL channel, which no GO hands, is log 18. -/
def Obligations.GoTaken : Prop :=
  ∀ (p : Station) (n : Cue) (cause : Cause) (s : State),
    p ≠ 0 → s.sl.state = .running → n ≠ 0 → (s.cs.bankOf n).remoteGo = true → (s.cs.bankOf n).kind ≠ .parked →
    ¬(n = s.seq.currentCue ∧ (cause = .follow ∨ s.withinGuard s.seq.goStamp = true)) → s.cs.Legal →
    ∃ u w, (s.heard p).GoIsTaken n cause false u ∧ u.FollowsOn w ∧ exec (.go p n cause) s = .next (w.commit s)

/-- A received GO or GOTO of cue 0 or of a forbidding or PARKED bank is ignored and counted in either station state, and while
RUNNING so is a duplicate; while JOINING any other is adopted (R48, R50, R55, R57). -/
def Obligations.GoAndGotoIgnoredOrAdopted : Prop :=
  ∀ (p : Station) (n : Cue) (cause : Cause) (fade : Fin 65536) (reason : GotoReason) (s : State), p ≠ 0 →
    let ignored : State :=
      { s.heard p with
        fi.counters.remoteIgnored :=
          if s.fi.counters.remoteIgnored < 63 then s.fi.counters.remoteIgnored + 1 else s.fi.counters.remoteIgnored }
    let barred := n = 0 ∨ (s.cs.bankOf n).remoteGo = false ∨ (s.cs.bankOf n).kind = .parked
    let adopted : State :=
      { s.heard p with
        seq.adoptedCue := n
        seq.adoptedHeld := false
        seq.cueSettled := true
        seq.heldSettled := true }
    (barred ∨
        (s.sl.state = .running ∧ n = s.seq.currentCue ∧ (cause = .follow ∨ s.withinGuard s.seq.goStamp = true)) →
      exec (.go p n cause) s = .next (ignored.commit s)) ∧
    (barred ∨ (s.sl.state = .running ∧ n = s.seq.currentCue ∧ s.withinGuard s.seq.goStamp = true) →
      exec (.goto p n fade reason) s = .next (ignored.commit s)) ∧
    (¬barred → s.sl.state = .joining →
      exec (.go p n cause) s = .next (adopted.commit s) ∧ exec (.goto p n fade reason) s = .next (adopted.commit s))

/-- A received GOTO that passes its tests while RUNNING is taken: the pending list empties; each channel that is not SAFE fades
to its tracked level from the latched level or the cue level, takes its tracked mute and leaves LATCHED; everything else is left as
it was (`State.GotoIsTaken`: R49, R50, R70, R76, R107). -/
def Obligations.GotoTaken : Prop :=
  ∀ (p : Station) (n : Cue) (fade : Fin 65536) (reason : GotoReason) (s : State),
    p ≠ 0 → s.sl.state = .running → n ≠ 0 → (s.cs.bankOf n).remoteGo = true → (s.cs.bankOf n).kind ≠ .parked →
    ¬(n = s.seq.currentCue ∧ s.withinGuard s.seq.goStamp = true) →
    ∃ w, (s.heard p).GotoIsTaken n fade.val w ∧ exec (.goto p n fade reason) s = .next (w.commit s)

/-- A received HOLD sets HELD and a received RESUME clears it while RUNNING; while JOINING they set the adopted HELD and its
settled mark and leave HELD as it is (R53, R57). -/
def Obligations.HoldAndResume : Prop :=
  ∀ (p : Station) (s : State), p ≠ 0 →
    (s.sl.state = .running →
      exec (.hold p) s = .next ({ s.heard p with seq.held := true }.commit s) ∧
      exec (.resume p) s = .next ({ s.heard p with seq.held := false }.commit s)) ∧
    (s.sl.state = .joining →
      exec (.hold p) s = .next ({ s.heard p with seq.adoptedHeld := true, seq.heldSettled := true }.commit s) ∧
      exec (.resume p) s = .next ({ s.heard p with seq.adoptedHeld := false, seq.heldSettled := true }.commit s))

/-- The GO, BACK and STOP keys on an UNLOCKED panel of a RUNNING station: the guard, the RESUME of a held station, the refusals,
the taken GO with its handed steps and any follow delays of 0, the taken GOTO with its fades, the messages they queue, and the HOLD
(R42 to R46, R49, R51, R52, R54, R76). -/
def Obligations.SequencerKeys : Prop :=
  ∀ s : State, s.sl.state = .running → s.pi.locked = false →
    let pressed : Fin 35 → State := fun k => { s with pi.keyDown := s.pi.keyDown.set k true }
    let stamped : State := { pressed 0 with seq.keyStamp := some s.seq.frameCount }
    let bars : Cue → Prop := fun n => (s.cs.bankOf n).localGo = false ∨ (s.cs.bankOf n).kind = .parked
    (s.pi.keyDown.get 0 = false →
      (s.withinGuard s.seq.keyStamp = true → exec .goKeyPress s = .next ((pressed 0).commit s)) ∧
      (s.withinGuard s.seq.keyStamp = false →
        (s.seq.held = true →
          exec .goKeyPress s = .next (({ stamped with seq.held := false }.enqueue .resume).commit s)) ∧
        (s.seq.held = false →
          (s.cs.next s.seq.currentCue = none → exec .goKeyPress s = .next (stamped.withGoRefused.commit s)) ∧
          ∀ n, s.cs.next s.seq.currentCue = some n →
            (bars n → exec .goKeyPress s = .next (stamped.withGoRefused.commit s)) ∧
            (¬bars n → s.cs.Legal →
              ∃ u w, stamped.GoIsTaken n .key true u ∧ u.FollowsOn w ∧ exec .goKeyPress s = .next (w.commit s))))) ∧
    (s.pi.keyDown.get 1 = false →
      (s.cs.previous s.seq.currentCue = none → exec .backKeyPress s = .next ((pressed 1).withGoRefused.commit s)) ∧
      ∀ n, s.cs.previous s.seq.currentCue = some n →
        (bars n → exec .backKeyPress s = .next ((pressed 1).withGoRefused.commit s)) ∧
        (¬bars n →
          ∃ w, (pressed 1).GotoIsTaken n s.config.backTime w ∧
            exec .backKeyPress s = .next ((w.enqueue (.goto n s.config.backTime .back)).commit s))) ∧
    (s.pi.keyDown.get 2 = false →
      (s.seq.held = true → exec .stopKeyPress s = .next ((pressed 2).commit s)) ∧
      (s.seq.held = false →
        exec .stopKeyPress s = .next (({ pressed 2 with seq.held := true }.enqueue .hold).commit s)))

/-- The frame count and the guard: a stamp is within the guard window while its age modulo 2^32 is below the window, an absent stamp
never (R39). The sequencer's frame: the count rises and wraps, an armed follow timer counts down while HELD is clear, and at 0 it
expires: the next cue is taken whole with cause FOLLOW, refused, or, without a next cue, nothing (`State.FollowsOn`: R44, R47, R54).
FOLLOW_EXPIRY takes an expiry that stands (log 5), and without one leaves the state (log 4). -/
def Obligations.FollowTimer : Prop :=
  ∀ s : State,
    let counted : State :=
      { s with seq.frameCount := s.seq.frameCount + 1, fe.frameTimer := .running 10 }
    s.withinGuard none = false ∧
    (∀ st, s.withinGuard (some st) = true ↔
      (s.seq.frameCount.toNat + 4294967296 - st.toNat) % 4294967296 < s.config.guardWindow) ∧
    (s.seq.held = true ∨ s.seq.follow = none → exec .frameCount s = .next (counted.commit s)) ∧
    (∀ r, s.seq.held = false → s.seq.follow = some r → 2 ≤ r →
      exec .frameCount s = .next ({ counted with seq.follow := some (r - 1) }.commit s)) ∧
    (∀ r, s.seq.held = false → s.seq.follow = some r → r ≤ 1 → s.cs.Legal →
      ∃ w, State.FollowsOn { counted with seq.follow := some 0 } w ∧ exec .frameCount s = .next (w.commit s)) ∧
    (s.seq.follow = some 0 → s.cs.Legal → ∃ w, s.FollowsOn w ∧ exec .followExpiry s = .next (w.commit s)) ∧
    (s.seq.follow ≠ some 0 → exec .followExpiry s = .next s)

/-! ## Fade Engine -/

/-- An advance while HELD is set moves nothing; otherwise every fade record moves by one frame, a record that reaches its duration
leaves its slot with the cue level at its target, every delay falls by one, and the steps whose delay runs out start, in list order,
after every record has moved (`State.StepsStart`), those with a set priority mark among them (R72, R73, R74, R108). -/
def Obligations.AdvanceMovesFades : Prop :=
  ∀ s : State,
    (s.seq.held = true → exec .advance s = .next (s.commit s)) ∧
    (s.seq.held = false →
      ∃ chan w,
        (∀ c,
          let ch := s.fe.chan.get c
          chan.get c =
            match ch.slot with
            | none => ch
            | some r =>
              if r.elapsed + 1 < r.duration then
                { ch with
                  cueLevel := FadeRecord.level { r with elapsed := r.elapsed + 1 }
                  slot := some { r with elapsed := r.elapsed + 1 } }
              else { ch with cueLevel := r.target, slot := none }) ∧
        State.StepsStart
          { s with
            fe.chan := chan
            fe.waiting :=
              (s.fe.waiting.filter fun p => decide (1 < p.remaining)).map fun p =>
                { p with remaining := p.remaining - 1 } }
          ((s.fe.waiting.filter fun p => decide (p.remaining ≤ 1)).map fun p => { p with remaining := 0 }) w ∧
        exec .advance s = .next (w.commit s))

/-- A pending step whose delay has run out starts (`State.StepStarts`), and a fade record that has reached its duration completes;
a step with a set priority mark and a target takes its channel to OVERRIDDEN from its source level, disregards a touch in progress
and takes the channel from its link's touching list (R68 to R71, R73, R74, R108, R109, R115). Without the due entry or record the
command leaves the state (log 4, log 5). The start level of a clear-marked step on a SAFE_MANUAL channel is log 18. -/
def Obligations.DueStepStartsAndFadeCompletes : Prop :=
  ∀ (c : Channel) (s : State),
    let ch := s.fe.chan.get c
    (∀ r, ch.slot = some r → r.duration ≤ r.elapsed →
      ∃ chan, exec (.fadeComplete c) s = .next ({ s with fe.chan := chan }.commit s) ∧
        ∀ d, chan.get d = if d = c then { ch with cueLevel := r.target, slot := none } else s.fe.chan.get d) ∧
    ((∀ r, ch.slot = some r → r.elapsed < r.duration) → exec (.fadeComplete c) s = .next s) ∧
    (∀ (p : PendingStep) (before after : List PendingStep),
      s.fe.waiting = before ++ p :: after → (∀ q ∈ before ++ after, q.channel ≠ c) → p.channel = c → p.remaining = 0 →
      ∃ w, State.StepStarts { s with fe.waiting := before ++ after } p w ∧
        exec (.pendingStepStart c) s = .next (w.commit s)) ∧
    ((∀ p ∈ s.fe.waiting, ¬(p.channel = c ∧ p.remaining = 0)) → exec (.pendingStepStart c) s = .next s)

/-! ## Takeover and links -/

/-- An active touch line of a LINE channel begins a touch where the panel accepts input, the fader is NORMAL and the channel is not
touched, and begins none otherwise; a re-arm mark set while the line stood inactive does not hold the touch back (R90, whose
sentences disagree on that: log 24). An unlinked channel becomes TOUCHED at its fader level, an OVERRIDDEN SAFE channel SAFE_MANUAL;
on a linked channel the touch takes the hold (`State.TouchBegins`: R105, R113, R114, R118). The line of a channel that is active
already cannot become active (log 4). -/
def Obligations.TouchLineBeginsATouch : Prop :=
  ∀ (c : Channel) (s : State),
    let t0 := s.pi.touch.get c
    let counts := s.source c = .line ∧ s.sl.state = .running ∧ s.pi.locked = false ∧
      (s.pi.slot.get (channelSlot c)).faulted = false ∧ t0.touched = false
    let withTouch : TouchState → State := fun x => { s with pi.touch := s.pi.touch.set c x }
    (t0.lineActive = true → exec (.touchLineActive c) s = .next s) ∧
    (t0.lineActive = false → ¬counts →
      exec (.touchLineActive c) s = .next ((withTouch { t0 with lineActive := true }).commit s)) ∧
    (t0.lineActive = false → counts →
      ∃ w, (withTouch { t0 with lineActive := true, touched := true }).TouchBegins c w ∧
        exec (.touchLineActive c) s = .next (w.commit s))

/-- The end of a touch, by its line or by its quiet timer: a disregarded touch only loses its mark; an unlinked channel takes its
release transition; a linked channel leaves the touching list, whose new last channel drives, and the last to leave gives up the
hold and releases the members (`State.TouchEnds`: R90, R91, R106, R109, R113, R115, R118). The touch line of an untouched or MOTION
channel that becomes inactive clears the re-arm mark and ends no touch (R90); an expiry of a stopped quiet timer and the fall of a
line that is inactive are no events (log 4). -/
def Obligations.TouchEnds : Prop :=
  ∀ (c : Channel) (s : State),
    let t0 := s.pi.touch.get c
    let withTouch : TouchState → State := fun x => { s with pi.touch := s.pi.touch.set c x }
    (t0.lineActive = true → t0.touched = true → s.source c = .line →
      ∃ w, (withTouch ⟨false, false, false, .stopped⟩).TouchEnds c w ∧
        exec (.touchLineInactive c) s = .next (w.commit s)) ∧
    (t0.lineActive = true → (t0.touched = false ∨ s.source c = .motion) →
      exec (.touchLineInactive c) s =
        .next ((withTouch { t0 with lineActive := false, rearm := false }).commit s)) ∧
    (t0.lineActive = false → exec (.touchLineInactive c) s = .next s) ∧
    (t0.quiet ≠ .stopped → t0.touched = true →
      ∃ w, (withTouch { t0 with touched := false, quiet := .stopped }).TouchEnds c w ∧
        exec (.quietTimerExpiry c) s = .next (w.commit s)) ∧
    (t0.quiet = .stopped → exec (.quietTimerExpiry c) s = .next s)

/-- An expiry of the glide timer advances every return glide by one and ends the glides that reach their duration, whose channels
become CUE; RETURN_GLIDE_END ends one that stands at its duration (R110; log 5). -/
def Obligations.ReturnGlides : Prop :=
  ∀ s : State,
    (∃ chan, exec .glideTimer s = .next ({ s with tk.chan := chan, tk.glideTimer := .running 10 }.commit s) ∧
      ∀ c,
        let tk := s.tk.chan.get c
        (tk.glide = none → chan.get c = tk) ∧
        ∀ g, tk.glide = some g →
          (g.elapsed + 1 < g.duration → chan.get c = { tk with glide := some { g with elapsed := g.elapsed + 1 } }) ∧
          (g.duration ≤ g.elapsed + 1 → chan.get c = { tk with state := .cue, glide := none })) ∧
    ∀ (c : Channel) (g : Glide), (s.tk.chan.get c).glide = some g →
      (g.duration ≤ g.elapsed →
        ∃ chan, exec (.returnGlideEnd c) s = .next ({ s with tk.chan := chan }.commit s) ∧
          ∀ d, chan.get d =
            if d = c then { s.tk.chan.get c with state := .cue, glide := none } else s.tk.chan.get d) ∧
      (g.elapsed < g.duration → exec (.returnGlideEnd c) s = .next s)

/-- An accepted TOUCH or STATE: the record takes the stamp, the toucher and the clamped level; the holder is the toucher where
the message names a holder that is a PRESENT peer, and none otherwise; a hold of this station is lost, its hands marked; and
the members that follow take a hold begin, a level change or a release, from the level the message carries (R2, R106, R110, R112,
R116, R118, R119; the level of a release is log 20). A STATE of toucher 0 is accepted on a greater stamp alone and leaves no holder
and no last toucher (log 9). -/
def Obligations.LinkTouchOrStateAccepted : Prop :=
  ∀ (p : Station) (l : LinkNo) (stamp : Fin 16777216) (toucher : Station) (held : Bool) (level : BitVec 11) (s : State)
    (i : Instr), p ≠ 0 →
    (i = .linkTouch p l stamp toucher held level ∧ toucher = p) ∨ i = .linkState p l stamp toucher held level →
    let r := s.tk.link.get l
    let last : Option Station := if toucher = 0 then none else some toucher
    let x : Level := max (-900) (min level.toInt 100)
    r.stamp < stamp.val ∨
      (stamp.val = r.stamp ∧ toucher ≠ 0 ∧ ∃ q, r.lastToucher = some q ∧ toucher.val ≤ q.val) →
    let names := (held = true ∨ i = .linkTouch p l stamp toucher held level) ∧ toucher ≠ 0 ∧ toucher ≠ s.sl.station ∧
      ((s.heard p).sl.peer.get toucher).state = .present
    let lost := r.holder = some s.sl.station
    ∃ t, exec i s = .next t ∧
      t.cs = s.cs ∧ t.seq = s.seq ∧ t.fe = s.fe ∧ t.pi = s.pi ∧ t.sg = s.sg ∧ t.sl = (s.heard p).sl ∧
      t.fi.counters.remoteIgnored =
        (if (∃ c, s.linkOf c = some l) ∨ 63 ≤ s.fi.counters.remoteIgnored then s.fi.counters.remoteIgnored
          else s.fi.counters.remoteIgnored + 1) ∧
      (∀ k, k ≠ l → t.tk.link.get k = s.tk.link.get k) ∧
      (names →
        t.tk.link.get l = ⟨stamp.val, some toucher, x, true, last, if lost then [] else r.touching⟩) ∧
      (¬names → t.tk.link.get l = ⟨stamp.val, none, x, false, last, if lost then [] else r.touching⟩) ∧
      ∀ c,
        let tk := s.tk.chan.get c
        let u := t.tk.chan.get c
        let follows := s.linkOf c = some l ∧ s.mode c ≠ .safe
        let begins := r.held = false ∨ r.stamp ≠ stamp.val ∨ r.lastToucher ≠ last ∨ lost
        u.mark = (tk.mark || (decide lost && decide (c ∈ r.touching))) ∧
        (¬follows → u.state = tk.state ∧ u.manual = tk.manual ∧ u.glide = tk.glide) ∧
        (follows → names → begins → u.state = .touched ∧ u.manual = x ∧ u.glide = none) ∧
        (follows → names → ¬begins →
          u.state = tk.state ∧ u.glide = tk.glide ∧ u.manual = if tk.state = .touched then x else tk.manual) ∧
        (follows → ¬names → r.held = true → tk.state = .touched → u.manual = x ∧
          (s.mode c = .latch → u.state = .latched ∧ u.glide = none) ∧
          (s.mode c = .auto →
            if s.config.returnTime = 0 then u.state = .cue ∧ u.glide = none
            else u.state = .returning ∧ u.glide = some ⟨x, 0, s.config.returnTime⟩)) ∧
        (follows → ¬names → (r.held = false ∨ tk.state ≠ .touched) →
          u.state = tk.state ∧ u.manual = tk.manual ∧ u.glide = tk.glide)

/-- An accepted RELEASE: the record is released with the stamp, the toucher and the clamped level it carries; a hold of this
station is lost; and the TOUCHED members that follow a held record take their release transition from the final link level (R117,
R118, R119; the level is the model's reading, log 20); it is counted where the link has no member here (R116, R117). A LINK that
is malformed changes no record and is counted; one that the record does not accept changes nothing, and is counted where the link
has no member here (R116, R117); a STATE of toucher 0 is not accepted at an equal stamp (log 9). -/
def Obligations.LinkReleaseAcceptedAndLinkRefused : Prop :=
  (∀ (p : Station) (l : LinkNo) (stamp : Fin 16777216) (held : Bool) (level : BitVec 11) (s : State), p ≠ 0 →
     let r := s.tk.link.get l
     let x : Level := max (-900) (min level.toInt 100)
     let lost := r.holder = some s.sl.station
     r.stamp < stamp.val ∨ (stamp.val = r.stamp ∧ r.lastToucher = some p) →
     ∃ t, exec (.linkRelease p l stamp p held level) s = .next t ∧
       t.cs = s.cs ∧ t.seq = s.seq ∧ t.fe = s.fe ∧ t.pi = s.pi ∧ t.sg = s.sg ∧ t.sl = (s.heard p).sl ∧
       t.fi.counters.remoteIgnored =
         (if (∃ c, s.linkOf c = some l) ∨ 63 ≤ s.fi.counters.remoteIgnored then s.fi.counters.remoteIgnored
           else s.fi.counters.remoteIgnored + 1) ∧
       (∀ k, k ≠ l → t.tk.link.get k = s.tk.link.get k) ∧
       t.tk.link.get l = ⟨stamp.val, none, x, false, some p, if lost then [] else r.touching⟩ ∧
       ∀ c,
         let tk := s.tk.chan.get c
         let mark := tk.mark || (decide lost && decide (c ∈ r.touching))
         t.tk.chan.get c =
           if s.linkOf c = some l ∧ s.mode c ≠ .safe ∧ r.held = true ∧ tk.state = .touched then
             if s.mode c = .latch then ⟨.latched, x, none, mark⟩
             else if s.config.returnTime = 0 then ⟨.cue, x, none, mark⟩
             else ⟨.returning, x, some ⟨x, 0, s.config.returnTime⟩, mark⟩
           else { tk with mark := mark }) ∧
  ∀ (p : Station) (l : LinkNo) (stamp : Fin 16777216) (toucher : Station) (held : Bool) (level : BitVec 11) (s : State),
    p ≠ 0 →
    let r := s.tk.link.get l
    let counted : State :=
      { s.heard p with
        fi.counters.remoteIgnored :=
          if s.fi.counters.remoteIgnored < 63 then s.fi.counters.remoteIgnored + 1 else s.fi.counters.remoteIgnored }
    let passed : State := if ∃ c, s.linkOf c = some l then s.heard p else counted
    exec (.malformedLink p l) s = .next (counted.commit s) ∧
    (toucher ≠ p →
      exec (.linkTouch p l stamp toucher held level) s = .next (counted.commit s) ∧
      exec (.linkRelease p l stamp toucher held level) s = .next (counted.commit s)) ∧
    (stamp.val < r.stamp ∨
        (stamp.val = r.stamp ∧ (toucher = 0 ∨ ∀ q, r.lastToucher = some q → q.val < toucher.val)) →
      exec (.linkState p l stamp toucher held level) s = .next (passed.commit s) ∧
      (toucher = p → exec (.linkTouch p l stamp toucher held level) s = .next (passed.commit s))) ∧
    (stamp.val < r.stamp ∨ (stamp.val = r.stamp ∧ r.lastToucher ≠ some p) →
      exec (.linkRelease p l stamp p held level) s = .next (passed.commit s))

/-! ## Panel Input -/

/-- Conversions come one at a time and in order: one of the slot that stands next is taken and moves the scan on, one of any other
slot is no event (log 4). A reading of slot 0 in 1984..2112 gives the offset 2048 minus the reading and ends the calibration fault,
any other keeps the offset and begins it; a reading of slots 29..31 is discarded (R82, R83). A fader reading is calibrated and
counted: a rail reading counts toward a fault, which begins at the fault count and ends the channel's touch; a travel reading counts
toward the end of a fault, where the channel's re-arm mark is set and the action that follows is handed at once
(`State.ActionIsHanded`, R172, R173); a reading that is not tested, or that differs from the accepted one by no more than the
deadband, changes nothing else but the scan (R84 to R88). The slot that follows one whose range has changed is kept by a field of
the model's (log 10). -/
def Obligations.ReadingsThatMoveNothing : Prop :=
  ∀ s : State,
    let first := min s.config.scanStart s.config.scanStop
    let n := s.pi.scanSlot
    let scanned : State :=
      { s with
        pi.scanSlot :=
          if s.pi.rangeChanged then (if n ≤ s.config.scanStop then max n first else first)
          else if n < s.config.scanStop then max (n + 1) first
          else first
        pi.rangeChanged := false }
    s.scanOn n = scanned ∧
    (∀ raw : Fin 4096,
      (n = 0 → 1984 ≤ raw.val → raw.val ≤ 2112 →
        exec (.calibrationReading raw) s =
          .next ({ scanned with pi.calOffset := 2048 - (raw.val : Int), pi.calFault := false }.commit s)) ∧
      (n = 0 → raw.val < 1984 ∨ 2112 < raw.val →
        exec (.calibrationReading raw) s = .next ({ scanned with pi.calFault := true }.commit s)) ∧
      (n ≠ 0 → exec (.calibrationReading raw) s = .next s)) ∧
    (∀ k : Fin 3,
      (n = k.val + 29 → exec (.spareSlotReading k) s = .next (scanned.commit s)) ∧
      (n ≠ k.val + 29 → exec (.spareSlotReading k) s = .next s)) ∧
    ∀ (k : FaderSlot) (raw : Fin 4096),
      let c := max 0 (min ((raw.val : Int) + s.pi.calOffset) 4095)
      let rail := c < 32 ∨ 4063 < c
      let x := s.pi.slot.get k
      let withSlot : SlotState → State := fun y => { scanned with pi.slot := s.pi.slot.set k y }
      let done : State → Prop := fun w => exec (.faderReading k raw) s = .next (w.commit s)
      let accepted := s.sl.state = .running ∧ s.pi.locked = false ∧
        ∀ a, x.accepted = some a → s.config.deadband < (c - (a : Int)).natAbs
      (n ≠ k.val + 1 → exec (.faderReading k raw) s = .next s) ∧
      (n = k.val + 1 →
        (rail → x.faulted = true → done (withSlot { x with run := 0 })) ∧
        (rail → x.faulted = false → x.run + 1 < s.config.faultCount → done (withSlot { x with run := x.run + 1 })) ∧
        (rail → x.faulted = false → s.config.faultCount ≤ x.run + 1 →
          (24 ≤ k.val → done (withSlot { x with faulted := true, run := 0 })) ∧
          ∀ d : Channel, d.val = k.val →
            ∃ w, (withSlot { x with faulted := true, run := 0 }).TouchIsEnded d w ∧ done w) ∧
        (¬rail → x.faulted = true → x.run + 1 < s.config.faultCount → done (withSlot { x with run := x.run + 1 })) ∧
        (¬rail → x.faulted = false → ¬accepted → done (withSlot { x with run := 0 })) ∧
        (¬rail → x.faulted = true → s.config.faultCount ≤ x.run + 1 → ¬accepted →
          (24 ≤ k.val → done (withSlot { x with faulted := false, run := 0 })) ∧
          ∀ d : Channel, d.val = k.val →
            ∃ w,
              State.ActionIsHanded
                { withSlot { x with faulted := false, run := 0 } with
                  pi.touch := s.pi.touch.set d { s.pi.touch.get d with rearm := true } } d w ∧
              done w))

/-- An accepted reading of a channel's fader, linked or not and in any mode: the slot takes the reading and the level of the law
and loses its catch-up mark; where the reading ends a fault the re-arm mark is set and the action that follows is handed before the
new level is, so that a recovery starts from the applied level as it stood before the reading (`State.ActionIsHanded`); a changed
level is handed to TK (`State.FaderMoves`). On a LINE channel that is all. On a MOTION channel the reading then begins a touch
(`State.TouchBegins`), unless the channel is touched already or the slot was being caught up, and starts the quiet timer of a touched
channel afresh (R84 to R88, R91, R105, R106, R115, R118, R172, R173). -/
def Obligations.AcceptedReadingOfAChannel : Prop :=
  ∀ (c : Channel) (raw : Fin 4096) (s : State),
    s.pi.scanSlot = c.val + 1 → s.sl.state = .running → s.pi.locked = false →
    let k := channelSlot c
    let n := (max 0 (min ((raw.val : Int) + s.pi.calOffset) 4095)).toNat
    let x := s.pi.slot.get k
    let level := lawLevel s.config.law n
    32 ≤ n → n ≤ 4063 → (x.faulted = false ∨ s.config.faultCount ≤ x.run + 1) →
    (∀ a, x.accepted = some a → s.config.deadband < ((n : Int) - (a : Int)).natAbs) →
    let t0 : TouchState := { s.pi.touch.get c with rearm := (s.pi.touch.get c).rearm || x.faulted }
    let read : State :=
      { s.scanOn (c.val + 1) with
        pi.slot := s.pi.slot.set k ⟨some n, level, false, 0, false⟩
        pi.touch := s.pi.touch.set c t0 }
    let quiet : Timer := .running (s.config.quietTime * 10)
    ∃ v u w,
      (if x.faulted then read.ActionIsHanded c v else v = read) ∧
      (if level = x.level then u = v else v.FaderMoves c u) ∧
      (if s.source c = .line ∨ (t0.touched = false ∧ x.catchUp = true) then w = u
      else if t0.touched then w = { u with pi.touch := u.pi.touch.set c { t0 with quiet := quiet } }
      else State.TouchBegins { u with pi.touch := u.pi.touch.set c { t0 with touched := true, quiet := quiet } } c w) ∧
      exec (.faderReading k raw) s = .next (w.commit s)

/-- An accepted reading of a master fader slot gives its level, at the slot's first reading and at every change, to every owned-here
master bound to the slot, makes it FRESH at the first, changes no other master, and queues a GROUP_LEVEL for each of them that is
FRESH and whose level it changes or sets first (R85, R86, R92, R125, R126), in ascending master number (log 23). -/
def Obligations.AcceptedReadingOfAMasterSlot : Prop :=
  ∀ (k : Fin 4) (raw : Fin 4096) (s : State),
    s.pi.scanSlot = k.val + 25 → s.sl.state = .running → s.pi.locked = false →
    let n := (max 0 (min ((raw.val : Int) + s.pi.calOffset) 4095)).toNat
    let x := s.pi.slot.get (masterSlot k)
    let level := lawLevel s.config.law n
    32 ≤ n → n ≤ 4063 → (x.faulted = false ∨ s.config.faultCount ≤ x.run + 1) →
    (∀ a, x.accepted = some a → s.config.deadband < ((n : Int) - (a : Int)).natAbs) →
    let first := x.accepted.isNone
    let bound : MasterNo → Bool := fun m => decide (s.config.master.get m = ⟨some s.sl.station, some k⟩)
    let announced : List MasterNo := (List.finRange 8).filter fun m =>
      let r := s.sg.master.get m
      bound m && (first || (r.fresh && decide (r.level ≠ level)))
    let read : State :=
      { s.scanOn (k.val + 25) with pi.slot := s.pi.slot.set (masterSlot k) ⟨some n, level, false, 0, false⟩ }
    (first = false → level = x.level → exec (.faderReading (masterSlot k) raw) s = .next (read.commit s)) ∧
    (first = true ∨ level ≠ x.level →
      exec (.faderReading (masterSlot k) raw) s =
        .next
          ((announced.foldl (fun (t : State) m => t.enqueue (.groupLevel m level))
            { read with
              sg.master := Table.ofFn fun m =>
                let r := s.sg.master.get m
                if bound m then { r with level := level, fresh := r.fresh || first } else r }).commit s))

/-- A key press while JOINING is discarded but for the debounce; on the LOCKED panel of a RUNNING station it goes to the unlock
matcher and to nothing else; a key already pressed gives no press; a release only allows the next press (R93, R94, R98, R99). The
key codes are one above the key's number: GO 1, BACK 2, STOP 3, the MUTE keys from 4, the group keys from 28. -/
def Obligations.KeysNotActedOn : Prop :=
  (goKey.val = 0 ∧ backKey.val = 1 ∧ stopKey.val = 2 ∧ (∀ c : Channel, (muteKey c).val = c.val + 3) ∧
    ∀ k : Fin 8, (groupKey k).val = k.val + 27) ∧
  ∀ (i : Instr) (key : Fin 35) (s : State),
    (i, key) ∈
        [(Instr.goKeyPress, goKey), (.backKeyPress, backKey), (.stopKeyPress, stopKey)] ++
          (List.finRange 24).map (fun c => (Instr.muteKeyPress c, muteKey c)) ++
          (List.finRange 8).map (fun k => (Instr.groupKeyPress k, groupKey k)) →
    let pressed : State := { s with pi.keyDown := s.pi.keyDown.set key true }
    let codes := ((List.finRange 6).map s.config.unlockCodes.get).take s.config.unlockLength
    let matchesAt : Nat → Prop := fun n => codes[n]? = some 0 ∨ codes[n]? = some (key.val + 1)
    let pos := s.pi.matchPos
    let unlocked : State :=
      { pressed with
        pi.locked := false
        pi.matchPos := 0
        pi.unlockTimer := .stopped
        pi.slot := s.pi.slot.mapAt fun _ x => { x with catchUp := true }
        pi.touch := s.pi.touch.mapAt fun _ x => { x with rearm := true } }
    let moved : Nat → State := fun n => { pressed with pi.matchPos := n, pi.unlockTimer := .running 2000 }
    (s.pi.keyDown.get key = true → exec i s = .next s) ∧
    (s.pi.keyDown.get key = false →
      (s.sl.state = .joining → exec i s = .next (pressed.commit s)) ∧
      (s.sl.state = .running → s.pi.locked = true →
        (matchesAt pos → pos + 1 = codes.length → exec i s = .next (unlocked.commit s)) ∧
        (matchesAt pos → pos + 1 ≠ codes.length → exec i s = .next ((moved (pos + 1)).commit s)) ∧
        (¬matchesAt pos → matchesAt 0 → codes.length = 1 → exec i s = .next (unlocked.commit s)) ∧
        (¬matchesAt pos → matchesAt 0 → codes.length ≠ 1 → exec i s = .next ((moved 1).commit s)) ∧
        (¬matchesAt pos → ¬matchesAt 0 →
          exec i s = .next ({ pressed with pi.matchPos := 0, pi.unlockTimer := .stopped }.commit s)))) ∧
    exec (.keyRelease key) s = .next ({ s with pi.keyDown := s.pi.keyDown.set key false }.commit s)

/-- The MUTE and group keys on an UNLOCKED panel of a RUNNING station: a MUTE key toggles its channel's panel mute; a group key
toggles the own assertion of the group it is mapped to and this station's place in the asserter set, queues a MUTE_GROUP, and brings
the mask of every waiting PRESENCE up to date, marking it amended where its frame is on the line; a group key mapped to none does
nothing (R95, R96, R131, R132). -/
def Obligations.MuteAndGroupKeys : Prop :=
  ∀ s : State, s.sl.state = .running → s.pi.locked = false →
    (∀ c : Channel, s.pi.keyDown.get (muteKey c) = false →
      ∃ mutes,
        exec (.muteKeyPress c) s =
          .next ({ s with pi.keyDown := s.pi.keyDown.set (muteKey c) true, pi.panelMute := mutes }.commit s) ∧
        ∀ d, mutes.get d = if d = c then !s.pi.panelMute.get c else s.pi.panelMute.get d) ∧
    ∀ k : Fin 8, s.pi.keyDown.get (groupKey k) = false →
      (s.config.keyMap.get k = none →
        exec (.groupKeyPress k) s =
          .next ({ s with pi.keyDown := s.pi.keyDown.set (groupKey k) true }.commit s)) ∧
      ∀ g, s.config.keyMap.get k = some g →
        let b := !s.pi.ownAssert.get g
        ∃ (sets : Table 16 (Table 32 Bool)) (update : TxEntry → TxEntry),
          (∀ h p, (sets.get h).get p = if h = g ∧ p = s.sl.station then b else (s.sg.asserters.get h).get p) ∧
          (∀ e : TxEntry,
            (e.msg.kind ≠ 20 → update e = e) ∧
            ∀ joining held cue mask summary, e.msg = .presence joining held cue mask summary →
              ∃ mask' : BitVec 16,
                (∀ h : GroupNo, mask'.getLsbD h.val = if h = g then b else mask.getLsbD h.val) ∧
                update e =
                  { e with
                    msg := .presence joining held cue mask' summary
                    amended := e.amended || e.sending.isSome }) ∧
          let u :=
            State.enqueue
              { s with
                pi.keyDown := s.pi.keyDown.set (groupKey k) true
                pi.ownAssert := s.pi.ownAssert.set g b
                sg.asserters := sets }
              (.muteGroup g b)
          exec (.groupKeyPress k) s = .next ({ u with sl.queue := u.sl.queue.map update }.commit s)

/-- A PANEL_LOCK: a lock makes the panel LOCKED, resets the matcher and ends every touch of a RUNNING station, each as
`State.TouchEnds` states, in ascending channel order (log 22); an unlock of a LOCKED panel makes it UNLOCKED and a RUNNING station's
panel begin to accept input; an unlock of an UNLOCKED panel changes nothing but that a PANEL_LOCK has been taken, a mark of the
model's (log 17). The expiry of the unlock timer resets the matcher; of a stopped one there is none (log 4) (R88, R97, R99). -/
def Obligations.PanelLockAndUnlockTimer : Prop :=
  ∀ s : State,
    (∀ p target, p ≠ 0 → s.addressed target = true →
      (let locked : State :=
        { s.heard p with pi.lockTaken := true, pi.locked := true, pi.matchPos := 0, pi.unlockTimer := .stopped }
       (s.sl.state = .joining → exec (.panelLock p target true) s = .next (locked.commit s)) ∧
       (s.sl.state = .running →
         ∃ w, locked.TouchesAreEnded (List.finRange 24) w ∧ exec (.panelLock p target true) s = .next (w.commit s))) ∧
      (s.pi.locked = false →
        exec (.panelLock p target false) s = .next ({ s.heard p with pi.lockTaken := true }.commit s)) ∧
      (s.pi.locked = true →
        let open' : State :=
          { s.heard p with pi.lockTaken := true, pi.locked := false, pi.matchPos := 0, pi.unlockTimer := .stopped }
        (s.sl.state = .joining → exec (.panelLock p target false) s = .next (open'.commit s)) ∧
        (s.sl.state = .running →
          exec (.panelLock p target false) s =
            .next
              ({ open' with
                  pi.slot := s.pi.slot.mapAt fun _ x => { x with catchUp := true }
                  pi.touch := s.pi.touch.mapAt fun _ x => { x with rearm := true } }.commit s)))) ∧
    (s.pi.unlockTimer ≠ .stopped →
      exec .unlockTimerExpiry s = .next ({ s with pi.matchPos := 0, pi.unlockTimer := .stopped }.commit s)) ∧
    (s.pi.unlockTimer = .stopped → exec .unlockTimerExpiry s = .next s)

/-! ## Shared Groups -/

/-- A GROUP_LEVEL from the master's owner sets the clamped level, makes the master FRESH and starts its stale timer afresh; from
any other peer it is counted and changes no master; the stale timer's expiry makes the master STALE at the level it holds (R2,
R127, R128). A MUTE_GROUP from a peer sets or clears that peer's place in the one asserter set it names, whatever the peer's state,
and is not counted (R133). A stale timer that is stopped has no expiry (log 4). -/
def Obligations.GroupMessages : Prop :=
  (∀ (m : MasterNo) (s : State),
     (∀ (p : Station) (level : BitVec 11), p ≠ 0 → p ≠ s.sl.station →
       ((s.config.master.get m).owner = some p →
         ∃ master, exec (.groupLevel p m level) s = .next ({ s.heard p with sg.master := master }.commit s) ∧
           ∀ k, master.get k =
             if k = m then ⟨max (-900) (min level.toInt 100), true, .running 1500⟩ else s.sg.master.get k) ∧
       ((s.config.master.get m).owner ≠ some p →
         exec (.groupLevel p m level) s = .next ((s.heard p).countIgnored.commit s))) ∧
     ((s.sg.master.get m).stale ≠ .stopped →
       ∃ master, exec (.staleTimerExpiry m) s = .next ({ s with sg.master := master }.commit s) ∧
         ∀ k, master.get k =
           if k = m then { s.sg.master.get m with fresh := false, stale := .stopped } else s.sg.master.get k) ∧
     ((s.sg.master.get m).stale = .stopped → exec (.staleTimerExpiry m) s = .next s)) ∧
  ∀ (p : Station) (g : GroupNo) (b : Bool) (s : State), p ≠ 0 → p ≠ s.sl.station →
    ∃ sets, exec (.muteGroup p g b) s = .next ({ s.heard p with sg.asserters := sets }.commit s) ∧
      ∀ h q, (sets.get h).get q = if h = g ∧ q = p then b else (s.sg.asserters.get h).get q

/-! ## Show Link Controller -/

/-- A PRESENCE from a peer: its flags and cue are recorded, its mask replaces its place in all sixteen asserter sets; with the
JOINING flag set every link it holds is released; with the flag clear a JOINING station adopts its cue and HOLD flag under R58 and
a RUNNING station does nothing else (R58, R120, R134, R151, R153). What a numbered station with an empty queue answers a JOINING
peer with: a STATE for every link it holds or last touched and nobody holds, a GROUP_LEVEL for every owned-here master that is
FRESH, and its own PRESENCE, where they fit in the queue (R121, R126, R153), in ascending link and master number (log 23). -/
def Obligations.PresenceTakenAndAnswered : Prop :=
  (∀ (p : Station) (joining held : Bool) (cue : Cue) (mask : BitVec 16) (summary : BitVec 8) (s : State),
     p ≠ 0 → p ≠ s.sl.station →
     ∃ t, exec (.presence p joining held cue mask summary) s = .next t ∧
       t.cs = s.cs ∧ t.fe = s.fe ∧ t.pi = s.pi ∧ t.sg.master = s.sg.master ∧ t.config = s.config ∧
       (∀ q, t.sl.peer.get q =
         if q = p then ⟨.present, joining, held, cue, .running 1000⟩ else s.sl.peer.get q) ∧
       (∀ g q, (t.sg.asserters.get g).get q = if q = p then mask.getLsbD g.val else (s.sg.asserters.get g).get q) ∧
       (joining = true → t.seq = s.seq ∧
         (∀ l, t.tk.link.get l =
           if (s.tk.link.get l).holder = some p then { s.tk.link.get l with holder := none, held := false }
           else s.tk.link.get l) ∧
         ∀ c, t.tk.chan.get c =
           match s.linkOf c with
           | none => s.tk.chan.get c
           | some l =>
             if (s.tk.link.get l).holder = some p ∧ s.mode c ≠ .safe ∧ (s.tk.chan.get c).state = .touched then
               (s.tk.chan.get c).released (s.tk.link.get l).level (s.mode c) s.config.returnTime
             else s.tk.chan.get c) ∧
       (joining = false → t.tk = s.tk ∧ t.sl.queue = s.sl.queue ∧
         (s.sl.state = .running → t.seq = s.seq) ∧
         (s.sl.state = .joining →
           let takes := ∀ a, s.seq.adoptionSource = some a → p.val ≤ a.val
           (¬takes → t.seq = s.seq) ∧
           (takes →
             t.seq =
               { s.seq with
                 adoptionSource := some p
                 adoptedCue := if s.seq.cueSettled then s.seq.adoptedCue else cue
                 adoptedHeld := if s.seq.heldSettled then s.seq.adoptedHeld else held })))) ∧
  ∀ (p : Station) (held : Bool) (cue : Cue) (mask : BitVec 16) (summary : BitVec 8) (s : State),
    p ≠ 0 → p ≠ s.sl.station → s.sl.station ≠ 0 → s.busOff = false → s.sl.queue = [] →
    let own := s.sl.station
    let links : List LinkNo := (List.finRange 32).filter fun l =>
      let r := s.tk.link.get l
      decide (r.holder = some own) ||
        (decide (r.holder = none ∨ r.holder = some p) && decide (r.lastToucher = some own))
    let masters : List MasterNo := (List.finRange 8).filter fun m =>
      decide ((s.config.master.get m).owner = some own) && (s.sg.master.get m).fresh
    links.length + masters.length < 16 →
    ∃ t, exec (.presence p true held cue mask summary) s = .next t ∧
      t.sl.queue =
        (links.map fun l =>
          let r := s.tk.link.get l
          ⟨.link l .state r.stamp r.lastToucher (r.held && decide (r.holder ≠ some p)) r.level, 0, false, none⟩) ++
        (masters.map fun m => ⟨.groupLevel m (s.sg.master.get m).level, 0, false, none⟩) ++
        [⟨.presence (s.sl.state == .joining) s.seq.held s.seq.currentCue s.ownMask s.faultSummary, 0, false, none⟩]

/-- A STATUS_REQUEST at a numbered station: five STATUS_REPLY parts in order, built from the state as it stands, join an empty
queue; then every event flag and every condition flag whose condition is absent is cleared; the counters stand. A silent station
does not take it (R141, R158, R177). -/
def Obligations.StatusRequestAnswered : Prop :=
  ∀ (p target : Station) (s : State), p ≠ 0 → s.addressed target = true → s.OutputsAgree → s.ActionsLegal →
    let w := s.heard p
    (s.sl.station = 0 → exec (.statusRequest p target) s = .next (w.commit s)) ∧
    (s.sl.station ≠ 0 → s.busOff = false → s.sl.queue = [] →
      ∃ t, exec (.statusRequest p target) s = .next t ∧
        t.cs = s.cs ∧ t.seq = s.seq ∧ t.fe = s.fe ∧ t.pi = s.pi ∧ t.tk = s.tk ∧ t.sg = s.sg ∧ t.gp = s.gp ∧ t.gc = s.gc ∧
        t.sl =
          { w.sl with
            queue := (List.finRange 5).map fun part => ⟨.statusReply part (w.statusPart part), 0, false, none⟩ } ∧
        (∀ f, t.flag f = (w.flag f && w.condition f)) ∧ t.fi.counters = s.fi.counters ∧
        t.fi.lastReason = s.fi.lastReason)

/-- What this station tells of its state: the fields of the five STATUS_REPLY parts (R158, §8.9), and the content and the fields
of a PRESENCE, the FAULT line and seven flags of its summary as they stand (R152, R177, §8.9). A link side is NORMAL, LINK_OFF or
ALONE as R148 and R150 state. -/
def Obligations.StatusAndPresenceContents : Prop :=
  ∀ s : State,
    let field : Fin 5 → Nat → (n : Nat) → BitVec n := fun part lo n => (s.statusPart part).extractLsb' lo n
    let bit : Fin 5 → Nat → Bool := fun part i => (s.statusPart part).getLsbD i
    let isPresent : Station → Bool := fun p =>
      decide (p ≠ 0) && decide (p ≠ s.sl.station) && decide ((s.sl.peer.get p).state = .present)
    let driven := ∃ f, s.flag f = true ∧ s.config.faultMask.getLsbD f.bit.val = false
    let flags : List (Flag × Nat) :=
      [(.calFault, 1), (.configRejected, 2), (.tableFull, 3), (.loadRefused, 4), (.txOverflow, 5), (.linkOff, 6),
        (.linkAlone, 7), (.stationClash, 8), (.goRefused, 9), (.anyFaderFault, 10), (.anyGroupStale, 11),
        (.anyReadbackMismatch, 12)]
    let reasons : List (Option Reason × Nat) :=
      [(none, 0), (some .badChannel, 1), (some .badCue, 2), (some .badKind, 3), (some .tableFull, 4),
        (some .notJoining, 5), (some .badItem, 6)]
    let moving : Cue → Prop := fun n =>
      (∃ c r, (s.fe.chan.get c).slot = some r ∧ r.cue = n) ∨ ∃ p ∈ s.fe.waiting, p.cue = n
    (∀ part : Fin 5, field part 61 3 = BitVec.ofNat 3 part.val) ∧
    (field 0 49 12 = BitVec.ofNat 12 s.cs.steps.length ∧ field 0 39 10 = BitVec.ofNat 10 s.cs.headers.length ∧
      (∀ f n, (f, n) ∈ flags → bit 0 (26 + n) = s.flag f) ∧
      (∀ r n, (r, n) ∈ reasons → s.fi.lastReason = r → field 0 24 3 = BitVec.ofNat 3 n) ∧
      field 0 18 6 = BitVec.ofNat 6 s.fi.counters.loadsRefused ∧ field 0 12 6 = BitVec.ofNat 6 s.fi.counters.goRefused ∧
      field 0 6 6 = BitVec.ofNat 6 s.fi.counters.remoteIgnored ∧ field 0 0 6 = BitVec.ofNat 6 s.fi.counters.txDrops) ∧
    (bit 1 60 = decide (s.sl.state = .running) ∧
      field 1 58 2 = (if 256 ≤ s.sl.txErrors then 1 else if s.sl.aloneCond then 2 else 0) ∧
      field 1 46 12 = BitVec.ofNat 12 s.seq.currentCue.val ∧ bit 1 45 = s.seq.held ∧ bit 1 44 = s.pi.locked ∧
      field 1 36 8 = BitVec.ofInt 8 s.pi.calOffset ∧ bit 1 35 = s.pi.calFault ∧
      field 1 30 5 =
        BitVec.ofNat 5 ((List.finRange 24).countP fun c => (s.pi.slot.get (channelSlot c)).faulted) ∧
      field 1 27 3 = BitVec.ofNat 3 ((List.finRange 4).countP fun k => (s.pi.slot.get (masterSlot k)).faulted) ∧
      field 1 22 5 = BitVec.ofNat 5 ((List.finRange 24).countP fun c => (s.fe.chan.get c).slot.isSome) ∧
      field 1 17 5 = BitVec.ofNat 5 s.fe.waiting.length ∧
      ((∀ n, ¬moving n) → field 1 5 12 = 0) ∧
      (∀ n, moving n → (∀ m, moving m → n.val ≤ m.val) → field 1 5 12 = BitVec.ofNat 12 n.val) ∧
      field 1 0 5 = BitVec.ofNat 5 ((List.finRange 24).countP fun c => decide ((s.gc.chan.get c).action ≠ .none))) ∧
    ((∀ x lo, (x, lo) ∈ [(Takeover.touched, 56), (.latched, 51), (.returning, 46), (.overridden, 41)] →
        field 2 lo 5 = BitVec.ofNat 5 ((List.finRange 24).countP fun c => decide ((s.tk.chan.get c).state = x))) ∧
      field 2 36 5 =
        BitVec.ofNat 5
          ((List.finRange 32).countP fun l => decide ((s.tk.link.get l).holder = some s.sl.station)) ∧
      (∀ p : Station, p ≠ 0 → bit 2 (4 + p.val) = isPresent p) ∧
      field 2 0 5 =
        BitVec.ofNat 5
          ((List.finRange 32).countP fun p =>
            isPresent p && !(s.sl.peer.get p).joining && decide ((s.sl.peer.get p).cue ≠ s.seq.currentCue))) ∧
    (∀ m : MasterNo, bit 3 (53 + m.val) = (s.sg.master.get m).fresh) ∧ field 3 0 9 = 0 ∧
    (∀ (m : MasterNo) (part : Fin 5) (lo : Nat),
      (m, part, lo) ∈
        [((0 : MasterNo), (3 : Fin 5), 42), (1, 3, 31), (2, 3, 20), (3, 3, 9), (4, 4, 50), (5, 4, 39), (6, 4, 28),
          (7, 4, 17)] →
      field part lo 11 = BitVec.ofInt 11 (s.sg.master.get m).level) ∧
    (∀ g : GroupNo, bit 4 (1 + g.val) = true ↔ ∃ p, (s.sg.asserters.get g).get p = true) ∧ bit 4 0 = false ∧
    s.presenceMsg =
      .presence (decide (s.sl.state = .joining)) s.seq.held s.seq.currentCue s.ownMask s.faultSummary ∧
    (∀ g : GroupNo, s.ownMask.getLsbD g.val = s.pi.ownAssert.get g) ∧
    (s.faultSummary.getLsbD 7 = true ↔ driven) ∧
    (∀ f i, (f, i) ∈
        [(Flag.calFault, 6), (.anyFaderFault, 5), (.anyGroupStale, 4), (.anyReadbackMismatch, 3), (.linkAlone, 2),
          (.tableFull, 1), (.stationClash, 0)] →
      s.faultSummary.getLsbD i = s.flag f) ∧
    ∀ (joining held : Bool) (cue : Cue) (mask : BitVec 16) (summary : BitVec 8),
      ∃ v : BitVec 40, (Msg.presence joining held cue mask summary).payload = some ⟨5, v⟩ ∧
        v.getLsbD 39 = joining ∧ v.getLsbD 38 = held ∧ v.extractLsb' 26 12 = BitVec.ofNat 12 cue.val ∧
        v.extractLsb' 10 16 = mask ∧ v.extractLsb' 2 8 = summary ∧ v.extractLsb' 0 2 = 0

/-- The kind codes of the messages this station sends (§8.2). The coalescing keys: two GROUP_LEVELs of one master, two LINKs of one
link, two PRESENCEs of one JOINING flag have the same key, and no other two messages have (R146). How a message joins the transmit
queue: an entry of its key takes its content in place and is marked amended if its frame is on
the line; otherwise it joins behind every entry of its kind or a lower one; a full queue gives up the newest of its worst waiting
entries to a lower kind and otherwise discards the message, and sets TX_OVERFLOW and counts a drop in both cases; a silent station
discards it uncounted and a station in LINK_OFF counts it (R141, R145, R146, R147, R148). -/
def Obligations.MessageJoinsTheQueue : Prop :=
  (∀ m : Msg, m.kind =
    match m with
    | .go .. => 1
    | .goto .. => 2
    | .hold => 3
    | .resume => 4
    | .link .. => 8
    | .muteGroup .. => 12
    | .groupLevel .. => 16
    | .presence .. => 20
    | .statusReply .. => 33) ∧
  (∀ m x : Msg, m.sameKey x = true ↔
    (∃ k y y', m = .groupLevel k y ∧ x = .groupLevel k y') ∨
    (∃ l a n p b y a' n' p' b' y', m = .link l a n p b y ∧ x = .link l a' n' p' b' y') ∨
    ∃ j b c k f b' c' k' f', m = .presence j b c k f ∧ x = .presence j b' c' k' f') ∧
  ∀ (m : Msg) (s : State),
    let q := s.sl.queue
    let u := s.enqueue m
    let drops := if s.fi.counters.txDrops < 63 then s.fi.counters.txDrops + 1 else s.fi.counters.txDrops
    let e : TxEntry := ⟨m, 0, false, none⟩
    let keyed := ∃ x ∈ q, m.sameKey x.msg = true
    u = { s with sl.queue := u.sl.queue, fi.flags := u.fi.flags, fi.counters.txDrops := u.fi.counters.txDrops } ∧
    (s.sl.station = 0 → u = s) ∧
    (s.sl.station ≠ 0 → s.busOff = true → u = { s with fi.counters.txDrops := drops }) ∧
    (s.sl.station ≠ 0 → s.busOff = false →
      (keyed →
        u = { s with
          sl.queue := q.map fun x =>
            if m.sameKey x.msg then { x with msg := m, amended := x.amended || x.sending.isSome } else x }) ∧
      (¬keyed → q.length < 16 → s.QueueLegal →
        ∃ a b, q = a ++ b ∧ (∀ x ∈ a, x.msg.kind ≤ m.kind) ∧ (∀ x ∈ b, m.kind < x.msg.kind) ∧
          u = { s with sl.queue := a ++ e :: b }) ∧
      (¬keyed → 16 ≤ q.length → s.QueueLegal →
        u.fi.counters.txDrops = drops ∧ u.flag .txOverflow = true ∧
        ((∀ x ∈ q, x.sending = none → x.msg.kind ≤ m.kind) → u.sl.queue = q) ∧
        ∀ a x b, q = a ++ x :: b → x.sending = none → m.kind < x.msg.kind →
          (∀ y ∈ a ++ b, y.sending = none → y.msg.kind ≤ x.msg.kind) →
          (∀ y ∈ b, y.sending = none → y.msg.kind ≠ x.msg.kind) →
          ∃ a' b', a ++ b = a' ++ b' ∧ (∀ y ∈ a', y.msg.kind ≤ m.kind) ∧ (∀ y ∈ b', m.kind < y.msg.kind) ∧
            u.sl.queue = a' ++ e :: b'))

/-- An offer puts the head's content on the line; lost arbitration leaves the attempts as they were; an error raises them and
drops the entry at sixteen; success removes the entry, or keeps an amended one with no attempts; the transmit error count rises
by 8 at an error, except for a missing acknowledgement at an error-passive station, and falls by 1 at a success (R145, R146,
R148). The offer and its end come as commands of their own (log 19); without a frame on the line an end is no event (log 4). -/
def Obligations.OffersAndTheirEnds : Prop :=
  ∀ (e : TxEntry) (before after : List TxEntry) (s : State),
    s.sl.station ≠ 0 → s.busOff = false →
    (∀ x ∈ before ++ after, x.sending = none) →
    (s.sl.queue = before ++ e :: after → before = [] → e.sending = none →
      exec .frameOffer s = .next ({ s with sl.queue := { e with sending := some e.msg } :: after }.commit s)) ∧
    (s.sl.queue = before ++ e :: after → e.sending.isSome = true →
      exec .frameOffer s = .next s ∧
      exec .lostArbitration s =
        .next
          ({ s with sl.queue := before ++ { e with sending := none, amended := false } :: after }.commit s) ∧
      exec .txSuccess s =
        .next
          ({ s with
              sl.queue :=
                before ++ (if e.amended then [(⟨e.msg, 0, false, none⟩ : TxEntry)] else []) ++ after
              sl.txErrors := s.sl.txErrors - 1 }.commit s) ∧
      ∀ kind,
        let raise := if ((128 ≤ s.sl.txErrors ∨ 128 ≤ s.sl.rxErrors) ∧ kind = .noAcknowledgement) then 0 else 8
        s.sl.txErrors + raise ≤ 255 →
        (e.attempts + 1 < 16 →
          exec (.txError kind) s =
            .next
              ({ s with
                  sl.queue := before ++ (⟨e.msg, e.attempts + 1, false, none⟩ : TxEntry) :: after
                  sl.txErrors := s.sl.txErrors + raise }.commit s)) ∧
        (16 ≤ e.attempts + 1 →
          exec (.txError kind) s =
            .next
              ({ s with
                  sl.queue := before ++ after
                  sl.txErrors := s.sl.txErrors + raise
                  fi.counters.txDrops :=
                    if s.fi.counters.txDrops < 63 then s.fi.counters.txDrops + 1 else s.fi.counters.txDrops }.commit
                s))) ∧
    ((∀ x ∈ s.sl.queue, x.sending = none) →
      exec .lostArbitration s = .next s ∧ exec .txSuccess s = .next s ∧ ∀ kind, exec (.txError kind) s = .next s)

/-- The errors of the CAN controller: a receive error raises its count up to 255; an increase of the transmit error count above
255 makes the controller bus-off, empties the queue and counts every entry; in LINK_OFF the 128th recessive run ends it with both
counts at 0 and re-announces the held links, the FRESH owned-here masters, in ascending link and master number (log 23), and the
station, and outside LINK_OFF none is counted (log 4) (R113, R126, R148, R149). LINK_OFF_END ends a LINK_OFF that stands at the
128th (log 5). -/
def Obligations.LinkOffAndItsEnd : Prop :=
  ∀ s : State,
    exec .receiveError s = .next ({ s with sl.rxErrors := min (s.sl.rxErrors + 1) 255 }.commit s) ∧
    (s.busOff = true ↔ 256 ≤ s.sl.txErrors) ∧
    s.linkSide = (if 256 ≤ s.sl.txErrors then .linkOff else if s.sl.aloneCond then .alone else .normal) ∧
    (∀ kind, s.QueueLegal → (∃ e ∈ s.sl.queue, e.sending.isSome = true) → s.busOff = false → 247 < s.sl.txErrors →
      ¬((128 ≤ s.sl.txErrors ∨ 128 ≤ s.sl.rxErrors) ∧ kind = .noAcknowledgement) →
      ∃ t, exec (.txError kind) s = .next t ∧
        t.sl = { s.sl with txErrors := 256, recessive := 0, queue := [] } ∧ t.linkSide = .linkOff ∧
        t.fi.counters =
          { s.fi.counters with
            txDrops := max s.fi.counters.txDrops (min 63 (s.fi.counters.txDrops + s.sl.queue.length)) } ∧
        t.cs = s.cs ∧ t.seq = s.seq ∧ t.fe = s.fe ∧ t.pi = s.pi ∧ t.tk = s.tk ∧ t.sg = s.sg) ∧
    (s.busOff = true → s.sl.recessive + 1 < 128 →
      exec .recessiveRun s = .next ({ s with sl.recessive := s.sl.recessive + 1 }.commit s)) ∧
    (s.busOff = false → exec .recessiveRun s = .next s ∧ exec .linkOffEnd s = .next s) ∧
    ∀ i, (i = .recessiveRun ∧ s.sl.recessive = 127) ∨ (i = .linkOffEnd ∧ s.sl.recessive = 128) →
      s.busOff = true → s.sl.queue = [] →
      ∃ t, exec i s = .next t ∧
        t.sl = { s.sl with txErrors := 0, rxErrors := 0, recessive := 0, queue := t.sl.queue } ∧
        t.linkSide = (if s.sl.aloneCond then .alone else .normal) ∧
        t.cs = s.cs ∧ t.seq = s.seq ∧ t.fe = s.fe ∧ t.pi = s.pi ∧ t.tk = s.tk ∧ t.sg = s.sg ∧
        (s.sl.station ≠ 0 →
          let links : List LinkNo := (List.finRange 32).filter fun l =>
            decide ((s.tk.link.get l).holder = some s.sl.station)
          let masters : List MasterNo := (List.finRange 8).filter fun m =>
            decide ((s.config.master.get m).owner = some s.sl.station) && (s.sg.master.get m).fresh
          links.length + masters.length < 16 →
          t.sl.queue =
            (links.map fun l =>
              ⟨.link l .touch (s.tk.link.get l).stamp (some s.sl.station) true (s.tk.link.get l).level, 0, false, none⟩) ++
            (masters.map fun m => ⟨.groupLevel m (s.sg.master.get m).level, 0, false, none⟩) ++
            [⟨.presence (s.sl.state == .joining) s.seq.held s.seq.currentCue s.ownMask s.faultSummary, 0, false, none⟩])

/-- The expiries of SL's presence, alone and silence timers: a PRESENCE is queued; the alone condition becomes present; the peer
becomes ABSENT, the alone timer starts where it was the last PRESENT peer, its links are released, and its place in the asserter
sets stays (R120, R135, R150, R151, R152). A stopped alone or silence timer has no expiry (log 4). -/
def Obligations.LinkTimersExpire : Prop :=
  ∀ s : State,
    exec .presenceTimerExpiry s =
      .next
        ((State.enqueue { s with sl.presenceTimer := .running 250 }
          (.presence (s.sl.state == .joining) s.seq.held s.seq.currentCue s.ownMask s.faultSummary)).commit s) ∧
    (s.sl.aloneTimer ≠ .stopped →
      exec .aloneTimerExpiry s = .next ({ s with sl.aloneTimer := .stopped, sl.aloneCond := true }.commit s)) ∧
    (s.sl.aloneTimer = .stopped → exec .aloneTimerExpiry s = .next s) ∧
    ∀ p : Station,
      ((s.sl.peer.get p).silence = .stopped → exec (.silenceTimerExpiry p) s = .next s) ∧
      ((s.sl.peer.get p).silence ≠ .stopped →
        ∃ t, exec (.silenceTimerExpiry p) s = .next t ∧
          t.cs = s.cs ∧ t.seq = s.seq ∧ t.fe = s.fe ∧ t.pi = s.pi ∧ t.sg = s.sg ∧
          t.sl =
            { s.sl with
              peer := t.sl.peer
              aloneTimer :=
                if (s.sl.peer.get p).state = .present ∧
                    ∀ q, q ≠ 0 → q ≠ s.sl.station → (t.sl.peer.get q).state ≠ .present then .running 1000
                else s.sl.aloneTimer } ∧
          (∀ q, t.sl.peer.get q =
            if q = p then { s.sl.peer.get p with state := .absent, silence := .stopped } else s.sl.peer.get q) ∧
          (∀ l, t.tk.link.get l =
            if (s.tk.link.get l).holder = some p then { s.tk.link.get l with holder := none, held := false }
            else s.tk.link.get l) ∧
          ∀ c, t.tk.chan.get c =
            match s.linkOf c with
            | none => s.tk.chan.get c
            | some l =>
              if (s.tk.link.get l).holder = some p ∧ s.mode c ≠ .safe ∧ (s.tk.chan.get c).state = .touched then
                (s.tk.chan.get c).released (s.tk.link.get l).level (s.mode c) s.config.returnTime
              else s.tk.chan.get c)

/-- Configuration messages. While RUNNING one addressed to this station's number is refused with NOT_JOINING and one addressed to 0
is disregarded. While JOINING CONFIG_BEGIN opens a copy of the configuration in force and starts the limit timer once; CONFIG_ITEM
is refused with BAD_ITEM without an assembly, enters a value in range, and refuses one out of range, which marks the assembly
rejected (R154, R156). A refusal sets LOAD_REFUSED, is counted, and leaves its reason. -/
def Obligations.ConfigurationMessages : Prop :=
  (∀ (w : State) (r : Reason), r = .notJoining ∨ r = .badItem →
    w.refuseLoad r =
      { w with
        fi.flags := w.fi.flags.set 3 true
        fi.counters.loadsRefused :=
          if w.fi.counters.loadsRefused < 63 then w.fi.counters.loadsRefused + 1 else w.fi.counters.loadsRefused
        fi.lastReason := some r }) ∧
  ∀ (p target : Station) (code index : Nat) (value : BitVec 16) (s : State), p ≠ 0 → s.addressed target = true →
    (s.sl.state = .running →
      ∀ i ∈ [Instr.configBegin p target, .configItem p target code index value, .configEnd p target],
        (target ≠ 0 → exec i s = .next (((s.heard p).refuseLoad .notJoining).commit s)) ∧
        (target = 0 → exec i s = .next ((s.heard p).commit s))) ∧
    (s.sl.state = .joining →
      exec (.configBegin p target) s =
        .next
          ({ s.heard p with
              sl.assembly := some ⟨s.config, false⟩
              sl.windowTimer := .stopped
              sl.limitTimer := if s.sl.limitTimer = Timer.stopped then .running 10000 else s.sl.limitTimer }.commit s) ∧
      (s.sl.assembly = none →
        exec (.configItem p target code index value) s = .next (((s.heard p).refuseLoad .badItem).commit s)) ∧
      ∀ a, s.sl.assembly = some a →
        (enterItem a.config code index value = none →
          exec (.configItem p target code index value) s =
            .next
              ({ (s.heard p).refuseLoad .badItem with sl.assembly := some { a with rejected := true } }.commit s)) ∧
        ∀ k, enterItem a.config code index value = some k →
          exec (.configItem p target code index value) s =
            .next ({ s.heard p with sl.assembly := some { a with config := k } }.commit s))

/-- Which items enter an assembly, and how: an item enters exactly when its code, its index and its value are those of the table of
items; levels are clamped where the table says so; it replaces that one item and no other (R2, R11, R156). -/
def Obligations.ConfigurationItems : Prop :=
  ∀ (k : Configuration) (v : BitVec 16),
    (∀ code index, 27 < code ∨ code = 0 → enterItem k code index v = none) ∧
    (∀ code index, code ≤ 6 → index = 0 ∨ 24 < index → enterItem k code index v = none) ∧
    (∀ code index, code = 7 ∨ code = 8 ∨ code = 9 → index = 0 ∨ 8 < index → enterItem k code index v = none) ∧
    (∀ code index, 10 ≤ code → code ≤ 20 ∨ code = 23 ∨ 25 ≤ code → index ≠ 0 → enterItem k code index v = none) ∧
    (∀ index, index = 0 ∨ 4 < index → enterItem k 21 index v = none) ∧
    (∀ index, 6 < index → enterItem k 22 index v = none) ∧ (∀ index, 15 < index → enterItem k 24 index v = none) ∧
    (∀ c : Channel,
      (∀ (n : Nat) (m : Mode), (n, m) ∈ [(0, Mode.auto), (1, .latch), (2, .safe)] → v.toNat = n →
        enterItem k 1 (c.val + 1) v = some { k with chan := k.chan.modify c fun x => { x with mode := m } }) ∧
      (2 < v.toNat → enterItem k 1 (c.val + 1) v = none) ∧
      (∀ (n : Nat) (m : TouchSource), (n, m) ∈ [(0, TouchSource.line), (1, .motion)] → v.toNat = n →
        enterItem k 2 (c.val + 1) v = some { k with chan := k.chan.modify c fun x => { x with source := m } }) ∧
      (1 < v.toNat → enterItem k 2 (c.val + 1) v = none) ∧
      (enterItem k 3 (c.val + 1) v =
        if -1024 ≤ v.toInt ∧ v.toInt ≤ 1023 then
          some { k with chan := k.chan.modify c fun x => { x with ceiling := max (-899) (min v.toInt 100) } }
        else none) ∧
      (enterItem k 4 (c.val + 1) v =
        if v.toNat ≤ 255 then some { k with chan := k.chan.modify c fun x => { x with masters := v.setWidth 8 } }
        else none) ∧
      enterItem k 5 (c.val + 1) v = some { k with chan := k.chan.modify c fun x => { x with groups := v } } ∧
      (∀ l : LinkNo, v.toNat = l.val + 1 →
        enterItem k 6 (c.val + 1) v = some { k with chan := k.chan.modify c fun x => { x with link := some l } }) ∧
      (v.toNat = 0 →
        enterItem k 6 (c.val + 1) v = some { k with chan := k.chan.modify c fun x => { x with link := none } }) ∧
      (32 < v.toNat → enterItem k 6 (c.val + 1) v = none)) ∧
    (∀ m : MasterNo,
      (∀ p : Station, v.toNat = p.val →
        enterItem k 7 (m.val + 1) v =
          some { k with
            master := k.master.modify m fun x => { x with owner := if p = 0 then none else some p } }) ∧
      (31 < v.toNat → enterItem k 7 (m.val + 1) v = none) ∧
      (v.toNat = 0 →
        enterItem k 8 (m.val + 1) v = some { k with master := k.master.modify m fun x => { x with slot := none } }) ∧
      (∀ j : Fin 4, v.toNat = j.val + 1 →
        enterItem k 8 (m.val + 1) v = some { k with master := k.master.modify m fun x => { x with slot := some j } }) ∧
      (4 < v.toNat → enterItem k 8 (m.val + 1) v = none)) ∧
    (∀ i : Fin 8,
      (v.toNat = 0 → enterItem k 9 (i.val + 1) v = some { k with keyMap := k.keyMap.set i none }) ∧
      (∀ g : GroupNo, v.toNat = g.val + 1 →
        enterItem k 9 (i.val + 1) v = some { k with keyMap := k.keyMap.set i (some g) }) ∧
      (16 < v.toNat → enterItem k 9 (i.val + 1) v = none)) ∧
    (enterItem k 10 0 v = if v.toNat ≤ 63 then some { k with deadband := v.toNat } else none) ∧
    (enterItem k 11 0 v = if 1 ≤ v.toNat ∧ v.toNat ≤ 15 then some { k with faultCount := v.toNat } else none) ∧
    (enterItem k 12 0 v = if 10 ≤ v.toNat ∧ v.toNat ≤ 200 then some { k with quietTime := v.toNat } else none) ∧
    (enterItem k 13 0 v = if v.toNat ≤ 1000 then some { k with returnTime := v.toNat } else none) ∧
    enterItem k 14 0 v = some { k with backTime := v.toNat } ∧ enterItem k 15 0 v = some { k with gotoTime := v.toNat } ∧
    (enterItem k 16 0 v = if v.toNat ≤ 200 then some { k with guardWindow := v.toNat } else none) ∧
    (enterItem k 17 0 v = if v.toNat ≤ 31 then some { k with readbackWindow := v.toNat } else none) ∧
    (enterItem k 18 0 v = if 1 ≤ v.toNat ∧ v.toNat ≤ 15 then some { k with readbackLimit := v.toNat } else none) ∧
    (enterItem k 19 0 v =
      if -1024 ≤ v.toInt ∧ v.toInt ≤ 1023 then some { k with duck := max (-899) (min v.toInt 0) } else none) ∧
    (enterItem k 20 0 v = if v.toNat ≤ 1000 then some { k with recoveryTime := v.toNat } else none) ∧
    (∀ i : Fin 4,
      (∀ (n : Nat) (a : Action), (n, a) ∈ [(0, Action.none), (1, .hold), (2, .duck), (3, .mute)] → v.toNat = n →
        enterItem k 21 (i.val + 1) v = some { k with actions := k.actions.set i a }) ∧
      (3 < v.toNat → enterItem k 21 (i.val + 1) v = none)) ∧
    (enterItem k 22 0 v = if 1 ≤ v.toNat ∧ v.toNat ≤ 6 then some { k with unlockLength := v.toNat } else none) ∧
    (∀ i : Fin 6, enterItem k 22 (i.val + 1) v =
      if v.toNat ≤ 35 then some { k with unlockCodes := k.unlockCodes.set i v.toNat } else none) ∧
    (enterItem k 23 0 v = if v.toNat ≤ 1 then some { k with lockAtStart := v.toNat == 1 } else none) ∧
    (∀ b : Fin 16, enterItem k 24 b.val v =
      if -900 ≤ v.toInt ∧ v.toInt ≤ 100 then some { k with law := k.law.set b v.toInt } else none) ∧
    (enterItem k 25 0 v = if v.toNat ≤ 31 then some { k with scanStart := v.toNat } else none) ∧
    (enterItem k 26 0 v = if v.toNat ≤ 31 then some { k with scanStop := v.toNat } else none) ∧
    enterItem k 27 0 v = if v.toNat ≤ 4095 then some { k with faultMask := v.setWidth 12 } else none

/-- The end of the JOINING window, at the window timer's expiry, a CONFIG_END or the limit timer's expiry: an assembly is accepted
as the configuration in force, or rejected with CONFIG_REJECTED; the station is RUNNING, both timers stop, the adopted cue is
rejoined by a GOTO over the GOTO time in force, from the latched level or the cue level, HELD takes the adopted HELD, the adoption
fields clear, a panel that is UNLOCKED begins to accept input with every catch-up and re-arm mark set, and a PRESENCE joins. The
link records and the asserter sets stay. Where no assembly is accepted the panel lock and the masters stay, and so do the takeover
states, but that a LATCHED channel which the rejoining GOTO takes becomes CUE; for an accepted one see AcceptanceApplied (R49,
R59, R76, R88, R107, R154, R155, R156, R157). -/
def Obligations.WindowEnds : Prop :=
  ∀ (i : Instr) (p target : Station) (s : State), s.WindowLegal → s.sl.state = .joining →
    (i = .windowTimerExpiry ∧ s.sl.windowTimer ≠ .stopped) ∨ (i = .limitTimerExpiry ∧ s.sl.limitTimer ≠ .stopped) ∨
      (i = .configEnd p target ∧ p ≠ 0 ∧ s.addressed target = true) →
    let accepted := ∃ a, i = .configEnd p target ∧ s.sl.assembly = some a ∧ a.rejected = false ∧
      lawOrdered a.config.law = true
    ∃ t, exec i s = .next t ∧ t.cs = s.cs ∧
      t.sl.state = .running ∧ t.sl.windowTimer = .stopped ∧ t.sl.limitTimer = .stopped ∧ t.sl.assembly = none ∧
      (∀ a, accepted → s.sl.assembly = some a → t.config = a.config) ∧ (¬accepted → t.config = s.config) ∧
      (s.sl.assembly.isSome = true → ¬accepted → t.flag .configRejected = true) ∧
      t.seq =
        { s.seq with
          held := s.seq.adoptedHeld
          currentCue := s.seq.adoptedCue
          goStamp := if s.seq.adoptedCue = 0 then s.seq.goStamp else some s.seq.frameCount
          follow := none
          adoptedCue := 0
          adoptedHeld := false
          adoptionSource := none
          cueSettled := false
          heldSettled := false } ∧
      t.fe.waiting = [] ∧
      (s.seq.adoptedCue = 0 → t.fe = s.fe) ∧
      (s.seq.adoptedCue ≠ 0 → ∀ c,
        (t.mode c = .safe → t.fe.chan.get c = s.fe.chan.get c) ∧
        (t.mode c ≠ .safe →
          (t.fe.chan.get c).cueMute = s.cs.trackedMute c s.seq.adoptedCue ∧
          (t.config.gotoTime = 0 → (t.fe.chan.get c).slot = none ∧
            (t.fe.chan.get c).cueLevel = s.cs.trackedLevel c s.seq.adoptedCue) ∧
          (t.config.gotoTime ≠ 0 → ∃ r, (t.fe.chan.get c).slot = some r ∧ r.cue = s.seq.adoptedCue ∧
            r.target = s.cs.trackedLevel c s.seq.adoptedCue ∧ r.duration = t.config.gotoTime ∧ r.elapsed = 0 ∧
            r.curve = .linear ∧ (t.fe.chan.get c).cueLevel = r.start ∧
            r.start =
              if (s.tk.chan.get c).state = .latched ∧ t.mode c = s.mode c ∧ t.linkOf c = s.linkOf c then
                (s.tk.chan.get c).manual
              else (s.fe.chan.get c).cueLevel))) ∧
      t.tk.link = s.tk.link ∧ t.sg.asserters = s.sg.asserters ∧
      (¬accepted → t.pi.locked = s.pi.locked ∧ t.sg = s.sg ∧
        ∀ c,
          let tk := s.tk.chan.get c
          t.tk.chan.get c =
            if s.seq.adoptedCue ≠ 0 ∧ s.mode c ≠ .safe ∧ tk.state = .latched then { tk with state := .cue } else tk) ∧
      (t.pi.locked = false →
        (∀ k, t.pi.slot.get k = { s.pi.slot.get k with catchUp := true }) ∧
        ∀ c, t.pi.touch.get c = { s.pi.touch.get c with rearm := true }) ∧
      (t.pi.locked = true → t.pi.slot = s.pi.slot ∧ t.pi.touch = s.pi.touch) ∧
      (s.sl.station ≠ 0 → s.busOff = false → s.sl.queue.length < 16 →
        (∀ x ∈ s.sl.queue, ∀ h q m f, x.msg ≠ .presence false h q m f) →
        ∃ x ∈ t.sl.queue, ∃ f,
          x.msg = .presence false s.seq.adoptedHeld s.seq.adoptedCue s.ownMask f)

/-- What the acceptance of a configuration, and the rejoin that follows it, do to takeover states, masters and the panel lock: a
channel whose mode or link changes is set as a reset sets it and then held if its new link is; a master whose owner or slot changes
is set as a reset sets it; all others stay, but that a LATCHED channel which the GOTO of an adopted cue takes becomes CUE; the panel
takes lock at start unless a PANEL_LOCK has been taken (R49, R59, R97, R107, R122, R130, R157). -/
def Obligations.AcceptanceApplied : Prop :=
  ∀ (p target : Station) (a : Assembly) (s : State),
    p ≠ 0 → s.addressed target = true → s.sl.state = .joining → s.sl.assembly = some a → a.rejected = false →
    lawOrdered a.config.law = true →
    ∃ t, exec (.configEnd p target) s = .next t ∧ t.config = a.config ∧
      t.pi.locked = (if s.pi.lockTaken then s.pi.locked else a.config.lockAtStart) ∧
      t.tk.link = s.tk.link ∧ t.sg.asserters = s.sg.asserters ∧
      (∀ c,
        let k := a.config.chan.get c
        let old := s.config.chan.get c
        let tk := s.tk.chan.get c
        let u := t.tk.chan.get c
        (k.mode = old.mode → k.link = old.link →
          u = if s.seq.adoptedCue ≠ 0 ∧ k.mode ≠ .safe ∧ tk.state = .latched then { tk with state := .cue } else tk) ∧
        (¬(k.mode = old.mode ∧ k.link = old.link) →
          (k.mode = .safe → u = ⟨.safeManual, off, none, tk.mark⟩) ∧
          (k.mode ≠ .safe → (∀ l, k.link = some l → (s.tk.link.get l).held = false) → u = ⟨.cue, off, none, tk.mark⟩) ∧
          ∀ l, k.mode ≠ .safe → k.link = some l → (s.tk.link.get l).held = true →
            u = ⟨.touched, (s.tk.link.get l).level, none, tk.mark⟩)) ∧
      ∀ m, t.sg.master.get m =
        if a.config.master.get m = s.config.master.get m then s.sg.master.get m else ⟨0, false, Timer.stopped⟩

/-- A timer of the window that is stopped has no expiry (log 4), and the four free-running or one-shot timers of SG, GP, GC and FI
do at their expiries what their rules say: every FRESH owned-here master is announced, in master order (log 23); the absent
channels join the update queue in order; every recovery glide advances; the indicator phase moves on by 25 ms; the burst ends
(R126, R154, R168, R175, R178; log 5). -/
def Obligations.OtherTimersExpire : Prop :=
  ∀ s : State,
    (s.sl.windowTimer = .stopped → exec .windowTimerExpiry s = .next s) ∧
    (s.sl.limitTimer = .stopped → exec .limitTimerExpiry s = .next s) ∧
    (let masters : List MasterNo := (List.finRange 8).filter fun m =>
        decide ((s.config.master.get m).owner = some s.sl.station) && (s.sg.master.get m).fresh
      let refreshed : State := { s with sg.refreshTimer := .running 500 }
      (s.sl.station = 0 ∨ masters = [] → exec .groupRefreshExpiry s = .next (refreshed.commit s)) ∧
      (s.sl.station ≠ 0 → s.busOff = false → s.sl.queue = [] →
        exec .groupRefreshExpiry s =
          .next
            ({ refreshed with
                sl.queue := masters.map fun m => ⟨.groupLevel m (s.sg.master.get m).level, 0, false, none⟩ }.commit s))) ∧
    exec .gainRefreshExpiry s =
      .next
        ({ s with
            gp.queue := s.gp.queue ++ (List.finRange 24).filter fun c => decide (c ∉ s.gp.queue)
            gp.refreshTimer := .running 1000 }.commit s) ∧
    (∃ chan, exec .recoveryTimer s = .next ({ s with gc.chan := chan, gc.recoveryTimer := .running 10 }.commit s) ∧
      ∀ c,
        let g := s.gc.chan.get c
        (g.glide = none → chan.get c = g) ∧
        ∀ r, g.glide = some r →
          (r.elapsed + 1 < r.duration → chan.get c = { g with glide := some { r with elapsed := r.elapsed + 1 } }) ∧
          (r.duration ≤ r.elapsed + 1 → chan.get c = { g with action := .none, glide := none })) ∧
    (∀ (c : Channel) (r : Glide), (s.gc.chan.get c).glide = some r →
      (r.duration ≤ r.elapsed →
        ∃ chan, exec (.recoveryGlideEnd c) s = .next ({ s with gc.chan := chan }.commit s) ∧
          ∀ d, chan.get d =
            if d = c then { s.gc.chan.get c with action := .none, glide := none } else s.gc.chan.get d) ∧
      (r.elapsed < r.duration → exec (.recoveryGlideEnd c) s = .next s)) ∧
    exec .indicatorTimerExpiry s =
      .next ({ s with fi.phase := (s.fi.phase + 25) % 6000, fi.indicatorTimer := .running 25 }.commit s) ∧
    (s.fi.burstTimer ≠ .stopped → exec .burstTimerExpiry s = .next ({ s with fi.burstTimer := .stopped }.commit s)) ∧
    (s.fi.burstTimer = .stopped → exec .burstTimerExpiry s = .next s)

/-! ## Gain Port -/

/-- The transfers. LEVEL_TRANSFER, with none in flight and a channel queued, sends the head channel's applied level under the next
sequence number and makes it the last-sent level. TRANSFER_COMPLETE counts the report against the previous transfer record, replaces
the record, and follows a LEVEL that leaves the queue empty by a POLL at once (R161, R163, R165, R166, R167). The report's effects
reach the queue before that decision (the model's reading, log 7). A transfer that cannot begin, and a completion with none in
flight, are no events (log 4). -/
def Obligations.Transfers : Prop :=
  (∀ (c : Channel) (x : Level) (q : BitVec 8),
    goutWord (.level c x q) =
      BitVec.ofNat 32 ((c.val + 1) * 2 ^ 25 + (x % 2048).toNat * 2 ^ 14 + q.toNat * 2 ^ 6) ∧
    goutWord (.poll q) = BitVec.ofNat 32 (2 ^ 30 + q.toNat * 2 ^ 6)) ∧
  ∀ s : State,
    (s.gp.inFlight.isSome = true ∨ s.gp.queue = [] → exec .levelTransfer s = .next s) ∧
    (∀ (c : Channel) (rest : List Channel), s.gp.inFlight = none → s.gp.queue = c :: rest →
      let x := (s.gc.chan.get c).applied
      ∃ chan,
        exec .levelTransfer s =
          .next
            ({ s with
                gp.chan := chan
                gp.queue := rest
                gp.seq := s.gp.seq + 1
                gp.inFlight := some (.level c x (s.gp.seq + 1)) }.commit s) ∧
        ∀ d, chan.get d = if d = c then { s.gp.chan.get c with lastSent := some x } else s.gp.chan.get d) ∧
    ∀ gin : BitVec 32,
      (s.gp.inFlight = none → exec (.transferComplete gin) s = .next s) ∧
      ∀ f, s.gp.inFlight = some f →
        ∃ chan : Table 24 PortChannel,
          (s.gp.previous = none → chan = s.gp.chan) ∧
          (∀ r, s.gp.previous = some r →
            let p := s.gp.chan.get r.channel
            let y := (gin.extractLsb' 15 11).toInt
            let agrees := gin.getLsbD 31 = true ∧ gin.toNat / 2 ^ 26 % 32 = r.channel.val + 1 ∧
              gin.toNat / 2 ^ 7 % 256 = r.seq.toNat ∧
              ((y ≤ -900 ∧ r.level = off) ∨
                (-900 < y ∧ r.level ≠ off ∧ (y - r.level).natAbs ≤ s.config.readbackWindow))
            (∀ d, d ≠ r.channel → chan.get d = s.gp.chan.get d) ∧
            ((agrees ↔ p.mismatch = true) → p.run + 1 < s.config.readbackLimit →
              chan.get r.channel = { p with run := p.run + 1 }) ∧
            ((agrees ↔ p.mismatch = true) → s.config.readbackLimit ≤ p.run + 1 →
              chan.get r.channel = { p with mismatch := !p.mismatch, run := 0 }) ∧
            (¬(agrees ↔ p.mismatch = true) → chan.get r.channel = { p with run := 0 })) ∧
          let u := ({ s with gp.chan := chan } : State).commit s
          (∀ q, f = .poll q →
            exec (.transferComplete gin) s = .next { u with gp.inFlight := none, gp.previous := none }) ∧
          ∀ c x q, f = .level c x q →
            (u.gp.queue ≠ [] →
              exec (.transferComplete gin) s =
                .next { u with gp.inFlight := none, gp.previous := some ⟨c, q, x⟩ }) ∧
            (u.gp.queue = [] →
              exec (.transferComplete gin) s =
                .next
                  { u with
                    gp.previous := some ⟨c, q, x⟩
                    gp.seq := s.gp.seq + 1
                    gp.inFlight := some (.poll (s.gp.seq + 1)) })

/-! ## Frames and messages -/

/-- Sending and receiving agree: the frame in which a station sends a message, extra data bytes or not, is read at every other
station as that message with every field it carries, for each message whose layout the manual gives; and so are the frames of
STEP_LOAD, HEADER_LOAD and a LINK of action code 3 laid out field by field (R143 and the layouts of the messages). A MUTE_GROUP, of
which the manual gives no layout, has no frame in the model (log 15). -/
def Obligations.FramesDecode : Prop :=
  ∀ p : Station, p ≠ 0 →
    (∀ (m : Msg) (f : RawFrame) (extra : List (BitVec 8)), m.frame p = some f →
      f.data.length ≤ 8 ∧ f.sender = p ∧ f.kind = m.kind ∧
        decodeFrame { f with data := f.data ++ extra } = m.command p) ∧
    (∀ m : Msg, m.frame p = none ↔ ∃ g b, m = .muteGroup g b) ∧
    (∀ (target : Station) (cue : Cue) (channel : Fin 32) (level : BitVec 11) (fade : Fin 65536) (delay : Fin 2048)
      (curve mute : Fin 4),
      decodeFrame
          ⟨.data, BitVec.ofNat 11 (56 * 32 + p.val),
            payloadBytes 8
              (BitVec.ofNat 5 target.val ++ BitVec.ofNat 12 cue.val ++ BitVec.ofNat 5 channel.val ++ level ++
                BitVec.ofNat 16 fade.val ++ BitVec.ofNat 11 delay.val ++ BitVec.ofNat 2 curve.val ++
                BitVec.ofNat 2 mute.val)⟩ =
        some (.stepLoad p target cue channel level fade delay curve mute)) ∧
    (∀ (target : Station) (cue : Cue) (present : Bool) (follow : Fin 65536),
      decodeFrame
          ⟨.data, BitVec.ofNat 11 (58 * 32 + p.val),
            payloadBytes 5
              (BitVec.ofNat 5 target.val ++ BitVec.ofNat 12 cue.val ++ BitVec.ofBool present ++
                BitVec.ofNat 16 follow.val ++ 0#6)⟩ =
        some (.headerLoad p target cue present follow)) ∧
    ∀ (l : LinkNo) (rest : BitVec 41),
      decodeFrame
          ⟨.data, BitVec.ofNat 11 (8 * 32 + p.val), payloadBytes 6 (BitVec.ofNat 5 l.val ++ 3#2 ++ rest)⟩ =
        some (.malformedLink p l)

/-! ## Invariants that every step keeps -/

/-- Every step keeps the step list in ascending order of cue and channel and the header list in ascending order of cue, within
their capacities and with every field in range, and every configuration item in range with the law in force in order (R2, R11,
R17, R18, R20, R21, R156). -/
def Obligations.StoreAndConfigurationKept : Prop :=
  ∀ s t : State, s.cs.Legal → s.ConfigLegal → step s = .next t →
    t.cs.Legal ∧ t.ConfigLegal ∧
      (t.cs.steps.Pairwise fun a b => a.cue.val < b.cue.val ∨ (a.cue = b.cue ∧ a.channel.val < b.channel.val)) ∧
      t.cs.headers.Pairwise fun a b => a.cue.val < b.cue.val

/-- The order of the pending list is by remaining delay and, among equal delays, by channel. Every step keeps every fade record
short of its duration with the cue level at its level, and the pending list in that order with one entry a channel, each with a
delay to run (R62, R64, R65, R67, R73, R74). -/
def Obligations.FadesKept : Prop :=
  (∀ a b : PendingStep, a.before b = true ↔
    a.remaining < b.remaining ∨ (a.remaining = b.remaining ∧ a.channel.val < b.channel.val)) ∧
  ∀ s t : State, s.cs.Legal → s.ConfigLegal → s.FadesLegal → step s = .next t →
    t.FadesLegal ∧
      t.fe.waiting.Pairwise fun a b =>
        a.remaining < b.remaining ∨ (a.remaining = b.remaining ∧ a.channel.val < b.channel.val)

/-- Every step leaves the composed and applied levels, the conditions, the effective actions, the LEDs and the FAULT line as their
rules give them from the blocks' state, the action states in step with the effective actions, and every flag whose condition is
present set (R14, R15, R16, R171 to R174, R176, R177, R179). -/
def Obligations.OutputsKept : Prop :=
  ∀ s t : State, s.ConfigLegal → s.ActionsLegal → s.OutputsAgree → s.FlagsAgree → step s = .next t →
    t.ActionsLegal ∧ t.OutputsAgree ∧ t.FlagsAgree

/-- Every step keeps every level of every block in −900..+100, and every composed, applied and held level under its channel's
ceiling, a change of the ceiling included (R1, R2, R13, R174). -/
def Obligations.LevelsKept : Prop :=
  ∀ s t : State, s.cs.Legal → s.ConfigLegal → s.FadesLegal → s.ActionsLegal → s.LevelsLegal → step s = .next t →
    t.LevelsLegal

/-- Every step keeps the panel, the peer table and the JOINING window sound: no touch on a panel that does not accept input or on
a FAULTED fader, a quiet timer only during a touch, the matcher short of its sequence, the silence, alone and clash timers in step
with the entries and conditions they time, one of the window's two timers running exactly while JOINING, and no cue, fade or hold
before RUNNING (R57, R81, R87, R88, R91, R98, R99, R144, R150, R151, R154). -/
def Obligations.PanelPeersAndWindowKept : Prop :=
  ∀ s t : State, s.ConfigLegal → s.PanelLegal → s.PeersLegal → s.WindowLegal → step s = .next t →
    t.PanelLegal ∧ t.PeersLegal ∧ t.WindowLegal

/-- Every step keeps the links and takeover states sound: a held link has a holder that is this station or a PRESENT peer, this
station holds exactly the links with a counted touch, the last of them drives the link, a TOUCHED member that follows is at the
level of its held link, a takeover state fits its channel's mode, and a mark stands only during a touch (R103, R104, R109, R110,
R112, R114 to R120). -/
def Obligations.LinksAndTakeoverKept : Prop :=
  ∀ s t : State, s.ConfigLegal → s.PanelLegal → s.PeersLegal → s.WindowLegal →
    (∀ l, s.LinkLegal l ∧ s.TouchingLegal l) → s.TakeoverLegal → step s = .next t →
      (∀ l, t.LinkLegal l ∧ t.TouchingLegal l) ∧ t.TakeoverLegal

/-- Every step keeps the transmit queue within sixteen entries, in the order of its kinds, with one entry a coalescing key, at most
one frame on the line, no entry tried sixteen times, and empty at a silent station and in LINK_OFF; the error counts in their
ranges (R141, R145 to R149); each channel at most once in the update queue, this station's places in the asserter sets equal to its
own assertions, and the counters and the indicator phase in their ranges (R131, R162, R176, R178). -/
def Obligations.QueuesAndRecordsKept : Prop :=
  ∀ s t : State, s.QueueLegal → s.ErrorsLegal → s.gp.queue.Nodup → s.AssertionsAgree → s.fi.Legal → step s = .next t →
    t.QueueLegal ∧ t.ErrorsLegal ∧ t.gp.queue.Nodup ∧ t.AssertionsAgree ∧ t.fi.Legal

/-- What stands through every command but those that the manual names for it: the store (R32, R38); the configuration in force
(R156, R157); the station number and the bit rate (R141); a set flag, but for STATUS_REQUEST and the resets (R176, R177); the link
stamps and the counters never fall but at a reset (R112, R114, R116, R117, R176); the panel mutes (R95), the own assertions (R96),
the asserter sets (R131, R135), the port's records and the places in its queue (R161 to R163), and the indicator phase (R178). -/
def Obligations.WhatStands : Prop :=
  ∀ (i : Instr) (s t : State), exec i s = .next t →
    (match i with
      | .powerOn .. | .resetLine .. | .stepLoad .. | .stepDelete .. | .headerLoad .. | .headerDelete .. | .bankSet ..
      | .cueErase .. | .tableClear .. => True
      | _ => t.cs = s.cs) ∧
    (match i with
      | .powerOn .. | .resetLine .. => True
      | .configEnd .. => s.sl.state = .running → t.config = s.config
      | _ => t.config = s.config) ∧
    (match i with
      | .powerOn .. | .resetLine .. => True
      | _ => t.sl.station = s.sl.station ∧ t.sl.rate = s.sl.rate) ∧
    (match i with
      | .powerOn .. | .resetLine .. | .restart .. | .statusRequest .. => True
      | _ => ∀ f, s.flag f = true → t.flag f = true) ∧
    (match i with
      | .powerOn .. | .resetLine .. | .restart .. => True
      | _ =>
        (∀ l, (s.tk.link.get l).stamp ≤ 16777215 → (s.tk.link.get l).stamp ≤ (t.tk.link.get l).stamp) ∧
          s.fi.counters.loadsRefused ≤ t.fi.counters.loadsRefused ∧ s.fi.counters.goRefused ≤ t.fi.counters.goRefused ∧
          s.fi.counters.remoteIgnored ≤ t.fi.counters.remoteIgnored ∧ s.fi.counters.txDrops ≤ t.fi.counters.txDrops) ∧
    (match i with
      | .powerOn .. | .resetLine .. | .restart .. | .muteKeyPress .. => True
      | _ => t.pi.panelMute = s.pi.panelMute) ∧
    (match i with
      | .powerOn .. | .resetLine .. | .restart .. | .groupKeyPress .. => True
      | _ => t.pi.ownAssert = s.pi.ownAssert) ∧
    (match i with
      | .powerOn .. | .resetLine .. | .restart .. | .muteGroup .. | .presence .. | .groupKeyPress .. => True
      | _ => t.sg.asserters = s.sg.asserters) ∧
    (match i with
      | .powerOn .. | .resetLine .. | .restart .. | .levelTransfer | .transferComplete .. => True
      | _ =>
        t.gp.chan = s.gp.chan ∧ t.gp.inFlight = s.gp.inFlight ∧ t.gp.previous = s.gp.previous ∧ t.gp.seq = s.gp.seq ∧
          s.gp.queue <+: t.gp.queue) ∧
    (match i with
      | .powerOn .. | .resetLine .. | .restart .. | .indicatorTimerExpiry => True
      | _ => t.fi.phase = s.fi.phase)
end

