-- ==== Sys2Proof/Laws/Table.lean ====
section
/-! SUPPORT. Laws of the fixed-length tables: what reading an entry gives after each way of making a table. -/

namespace Sys2Proof

variable {n : Nat} {α : Type}

@[simp] theorem Table.get_ofFn (f : Fin n → α) (i : Fin n) : Table.get (Table.ofFn f) i = f i := by
  simp [Table.get, Table.ofFn]

@[simp] theorem Table.get_const (a : α) (i : Fin n) : Table.get (Table.const n a) i = a := by simp [Table.const]

@[simp] theorem Table.get_mapAt (t : Table n α) (f : Fin n → α → α) (i : Fin n) :
    Table.get (t.mapAt f) i = f i (t.get i) := by simp [Table.mapAt]

theorem Table.get_set (t : Table n α) (i j : Fin n) (a : α) :
    Table.get (Table.set t i a) j = if i = j then a else t.get j := by
  simp only [Table.get, Table.set, Fin.ext_iff]
  rw [Vector.getElem_set]

@[simp] theorem Table.get_set_self (t : Table n α) (i : Fin n) (a : α) : Table.get (Table.set t i a) i = a := by
  simp [Table.get_set]

theorem Table.get_modify (t : Table n α) (i j : Fin n) (f : α → α) :
    Table.get (t.modify i f) j = if i = j then f (t.get j) else t.get j := by
  unfold Table.modify
  rw [Table.get_set]
  split
  · rename_i h; rw [h]
  · rfl

@[simp] theorem Table.get_modify_self (t : Table n α) (i : Fin n) (f : α → α) :
    Table.get (t.modify i f) i = f (t.get i) := by simp [Table.get_modify]

/-- Two tables with the same entries are equal. -/
theorem Table.ext {t u : Table n α} (h : ∀ i, t.get i = u.get i) : t = u := by
  refine Vector.ext fun i hi => ?_
  exact h ⟨i, hi⟩

@[simp] theorem Table.ofFn_get (t : Table n α) : Table.ofFn (fun i => t.get i) = t := Table.ext fun i => by simp

theorem anyIndex_iff (p : Fin n → Bool) : anyIndex n p = true ↔ ∃ i, p i = true := by
  simp [anyIndex, List.any_eq_true, List.mem_finRange]

theorem anyIndex_false_iff (p : Fin n → Bool) : anyIndex n p = false ↔ ∀ i, p i = false := by
  simp [anyIndex, List.any_eq_false, List.mem_finRange]

theorem countIndex_le (p : Fin n → Bool) : countIndex n p ≤ n := by
  have := List.countP_le_length (p := p) (l := List.finRange n)
  simpa [countIndex] using this

/-- What every step of a walk over the indices keeps, the whole walk keeps. -/
theorem forEach_keeps {σ : Type} (P : σ → Prop) (f : Fin n → σ → σ) (hf : ∀ i s, P s → P (f i s)) (s : σ) (h : P s) :
    P (forEach n f s) := by
  unfold forEach
  generalize List.finRange n = l
  induction l generalizing s with
  | nil => exact h
  | cons i l ih => exact ih _ (hf i s h)

/-- A field that no step of a walk changes is unchanged by the walk. -/
theorem forEach_field {σ β : Type} (g : σ → β) (f : Fin n → σ → σ) (hf : ∀ i s, g (f i s) = g s) (s : σ) :
    g (forEach n f s) = g s :=
  forEach_keeps (fun t => g t = g s) f (fun i t h => by rw [hf, h]) s rfl

end Sys2Proof
end

