-- ==== Sys2Proof/Laws/State.lean ====
section
/-! SUPPORT. What each update of the state leaves unchanged, field by field: the flag and counter updates, the stages of the end
of an event, the queueing of a message, the reception of a frame. Later proofs cite these and unfold no record update. -/

namespace Sys2Proof.Machine

@[simp] theorem State.setFlag_cs (s : State) (f : Flag) : (s.setFlag f).cs = s.cs := rfl
@[simp] theorem State.setFlag_seq (s : State) (f : Flag) : (s.setFlag f).seq = s.seq := rfl
@[simp] theorem State.setFlag_fe (s : State) (f : Flag) : (s.setFlag f).fe = s.fe := rfl
@[simp] theorem State.setFlag_pi (s : State) (f : Flag) : (s.setFlag f).pi = s.pi := rfl
@[simp] theorem State.setFlag_tk (s : State) (f : Flag) : (s.setFlag f).tk = s.tk := rfl
@[simp] theorem State.setFlag_sg (s : State) (f : Flag) : (s.setFlag f).sg = s.sg := rfl
@[simp] theorem State.setFlag_sl (s : State) (f : Flag) : (s.setFlag f).sl = s.sl := rfl
@[simp] theorem State.setFlag_gc (s : State) (f : Flag) : (s.setFlag f).gc = s.gc := rfl
@[simp] theorem State.setFlag_gp (s : State) (f : Flag) : (s.setFlag f).gp = s.gp := rfl
@[simp] theorem State.setFlag_pending (s : State) (f : Flag) : (s.setFlag f).pending = s.pending := rfl
@[simp] theorem State.setFlag_fi_counters (s : State) (f : Flag) : (s.setFlag f).fi.counters = s.fi.counters := rfl
@[simp] theorem State.setFlag_fi_lastReason (s : State) (f : Flag) : (s.setFlag f).fi.lastReason = s.fi.lastReason := rfl
@[simp] theorem State.setFlag_fi_burstTimer (s : State) (f : Flag) : (s.setFlag f).fi.burstTimer = s.fi.burstTimer := rfl
@[simp] theorem State.setFlag_fi_phase (s : State) (f : Flag) : (s.setFlag f).fi.phase = s.fi.phase := rfl
@[simp] theorem State.setFlag_fi_indicatorTimer (s : State) (f : Flag) : (s.setFlag f).fi.indicatorTimer = s.fi.indicatorTimer := rfl

@[simp] theorem State.countIgnored_cs (s : State) : (s.countIgnored).cs = s.cs := rfl
@[simp] theorem State.countIgnored_seq (s : State) : (s.countIgnored).seq = s.seq := rfl
@[simp] theorem State.countIgnored_fe (s : State) : (s.countIgnored).fe = s.fe := rfl
@[simp] theorem State.countIgnored_pi (s : State) : (s.countIgnored).pi = s.pi := rfl
@[simp] theorem State.countIgnored_tk (s : State) : (s.countIgnored).tk = s.tk := rfl
@[simp] theorem State.countIgnored_sg (s : State) : (s.countIgnored).sg = s.sg := rfl
@[simp] theorem State.countIgnored_sl (s : State) : (s.countIgnored).sl = s.sl := rfl
@[simp] theorem State.countIgnored_gc (s : State) : (s.countIgnored).gc = s.gc := rfl
@[simp] theorem State.countIgnored_gp (s : State) : (s.countIgnored).gp = s.gp := rfl
@[simp] theorem State.countIgnored_pending (s : State) : (s.countIgnored).pending = s.pending := rfl
@[simp] theorem State.countIgnored_fi_flags (s : State) : (s.countIgnored).fi.flags = s.fi.flags := rfl
@[simp] theorem State.countIgnored_fi_lastReason (s : State) : (s.countIgnored).fi.lastReason = s.fi.lastReason := rfl
@[simp] theorem State.countIgnored_fi_burstTimer (s : State) : (s.countIgnored).fi.burstTimer = s.fi.burstTimer := rfl
@[simp] theorem State.countIgnored_fi_phase (s : State) : (s.countIgnored).fi.phase = s.fi.phase := rfl
@[simp] theorem State.countIgnored_fi_indicatorTimer (s : State) : (s.countIgnored).fi.indicatorTimer = s.fi.indicatorTimer := rfl

@[simp] theorem State.countDrop_cs (s : State) : (s.countDrop).cs = s.cs := rfl
@[simp] theorem State.countDrop_seq (s : State) : (s.countDrop).seq = s.seq := rfl
@[simp] theorem State.countDrop_fe (s : State) : (s.countDrop).fe = s.fe := rfl
@[simp] theorem State.countDrop_pi (s : State) : (s.countDrop).pi = s.pi := rfl
@[simp] theorem State.countDrop_tk (s : State) : (s.countDrop).tk = s.tk := rfl
@[simp] theorem State.countDrop_sg (s : State) : (s.countDrop).sg = s.sg := rfl
@[simp] theorem State.countDrop_sl (s : State) : (s.countDrop).sl = s.sl := rfl
@[simp] theorem State.countDrop_gc (s : State) : (s.countDrop).gc = s.gc := rfl
@[simp] theorem State.countDrop_gp (s : State) : (s.countDrop).gp = s.gp := rfl
@[simp] theorem State.countDrop_pending (s : State) : (s.countDrop).pending = s.pending := rfl
@[simp] theorem State.countDrop_fi_flags (s : State) : (s.countDrop).fi.flags = s.fi.flags := rfl
@[simp] theorem State.countDrop_fi_lastReason (s : State) : (s.countDrop).fi.lastReason = s.fi.lastReason := rfl
@[simp] theorem State.countDrop_fi_burstTimer (s : State) : (s.countDrop).fi.burstTimer = s.fi.burstTimer := rfl
@[simp] theorem State.countDrop_fi_phase (s : State) : (s.countDrop).fi.phase = s.fi.phase := rfl
@[simp] theorem State.countDrop_fi_indicatorTimer (s : State) : (s.countDrop).fi.indicatorTimer = s.fi.indicatorTimer := rfl

@[simp] theorem State.refuseGo_cs (s : State) : (s.refuseGo).cs = s.cs := rfl
@[simp] theorem State.refuseGo_seq (s : State) : (s.refuseGo).seq = s.seq := rfl
@[simp] theorem State.refuseGo_fe (s : State) : (s.refuseGo).fe = s.fe := rfl
@[simp] theorem State.refuseGo_pi (s : State) : (s.refuseGo).pi = s.pi := rfl
@[simp] theorem State.refuseGo_tk (s : State) : (s.refuseGo).tk = s.tk := rfl
@[simp] theorem State.refuseGo_sg (s : State) : (s.refuseGo).sg = s.sg := rfl
@[simp] theorem State.refuseGo_sl (s : State) : (s.refuseGo).sl = s.sl := rfl
@[simp] theorem State.refuseGo_gc (s : State) : (s.refuseGo).gc = s.gc := rfl
@[simp] theorem State.refuseGo_gp (s : State) : (s.refuseGo).gp = s.gp := rfl
@[simp] theorem State.refuseGo_pending (s : State) : (s.refuseGo).pending = s.pending := rfl
@[simp] theorem State.refuseGo_fi_lastReason (s : State) : (s.refuseGo).fi.lastReason = s.fi.lastReason := rfl
@[simp] theorem State.refuseGo_fi_phase (s : State) : (s.refuseGo).fi.phase = s.fi.phase := rfl
@[simp] theorem State.refuseGo_fi_indicatorTimer (s : State) : (s.refuseGo).fi.indicatorTimer = s.fi.indicatorTimer := rfl

@[simp] theorem State.compose_cs (s : State) : (s.compose).cs = s.cs := by
  simp only [State.compose]
@[simp] theorem State.compose_seq (s : State) : (s.compose).seq = s.seq := by
  simp only [State.compose]
@[simp] theorem State.compose_fe (s : State) : (s.compose).fe = s.fe := by
  simp only [State.compose]
@[simp] theorem State.compose_pi (s : State) : (s.compose).pi = s.pi := by
  simp only [State.compose]
@[simp] theorem State.compose_tk (s : State) : (s.compose).tk = s.tk := by
  simp only [State.compose]
@[simp] theorem State.compose_sg (s : State) : (s.compose).sg = s.sg := by
  simp only [State.compose]
@[simp] theorem State.compose_sl (s : State) : (s.compose).sl = s.sl := by
  simp only [State.compose]
@[simp] theorem State.compose_gp (s : State) : (s.compose).gp = s.gp := by
  simp only [State.compose]
@[simp] theorem State.compose_pending (s : State) : (s.compose).pending = s.pending := by
  simp only [State.compose]
@[simp] theorem State.compose_gc_recoveryTimer (s : State) : (s.compose).gc.recoveryTimer = s.gc.recoveryTimer := by
  simp only [State.compose]
@[simp] theorem State.compose_fi_taken (s : State) : (s.compose).fi.taken = s.fi.taken := by
  simp only [State.compose]
@[simp] theorem State.compose_fi_flags (s : State) : (s.compose).fi.flags = s.fi.flags := by
  simp only [State.compose]
@[simp] theorem State.compose_fi_counters (s : State) : (s.compose).fi.counters = s.fi.counters := by
  simp only [State.compose]
@[simp] theorem State.compose_fi_lastReason (s : State) : (s.compose).fi.lastReason = s.fi.lastReason := by
  simp only [State.compose]
@[simp] theorem State.compose_fi_burstTimer (s : State) : (s.compose).fi.burstTimer = s.fi.burstTimer := by
  simp only [State.compose]
@[simp] theorem State.compose_fi_phase (s : State) : (s.compose).fi.phase = s.fi.phase := by
  simp only [State.compose]
@[simp] theorem State.compose_fi_indicatorTimer (s : State) : (s.compose).fi.indicatorTimer = s.fi.indicatorTimer := by
  simp only [State.compose]

@[simp] theorem State.takeConditions_cs (s : State) : (s.takeConditions).cs = s.cs := by
  simp only [State.takeConditions]
@[simp] theorem State.takeConditions_seq (s : State) : (s.takeConditions).seq = s.seq := by
  simp only [State.takeConditions]
@[simp] theorem State.takeConditions_fe (s : State) : (s.takeConditions).fe = s.fe := by
  simp only [State.takeConditions]
@[simp] theorem State.takeConditions_pi (s : State) : (s.takeConditions).pi = s.pi := by
  simp only [State.takeConditions]
@[simp] theorem State.takeConditions_tk (s : State) : (s.takeConditions).tk = s.tk := by
  simp only [State.takeConditions]
@[simp] theorem State.takeConditions_sg (s : State) : (s.takeConditions).sg = s.sg := by
  simp only [State.takeConditions]
@[simp] theorem State.takeConditions_sl (s : State) : (s.takeConditions).sl = s.sl := by
  simp only [State.takeConditions]
@[simp] theorem State.takeConditions_gc (s : State) : (s.takeConditions).gc = s.gc := by
  simp only [State.takeConditions]
@[simp] theorem State.takeConditions_gp (s : State) : (s.takeConditions).gp = s.gp := by
  simp only [State.takeConditions]
@[simp] theorem State.takeConditions_pending (s : State) : (s.takeConditions).pending = s.pending := by
  simp only [State.takeConditions]
@[simp] theorem State.takeConditions_fi_cond (s : State) : (s.takeConditions).fi.cond = s.fi.cond := by
  simp only [State.takeConditions]
@[simp] theorem State.takeConditions_fi_effective (s : State) : (s.takeConditions).fi.effective = s.fi.effective := by
  simp only [State.takeConditions]
@[simp] theorem State.takeConditions_fi_counters (s : State) : (s.takeConditions).fi.counters = s.fi.counters := by
  simp only [State.takeConditions]
@[simp] theorem State.takeConditions_fi_lastReason (s : State) : (s.takeConditions).fi.lastReason = s.fi.lastReason := by
  simp only [State.takeConditions]
@[simp] theorem State.takeConditions_fi_burstTimer (s : State) : (s.takeConditions).fi.burstTimer = s.fi.burstTimer := by
  simp only [State.takeConditions]
@[simp] theorem State.takeConditions_fi_phase (s : State) : (s.takeConditions).fi.phase = s.fi.phase := by
  simp only [State.takeConditions]
@[simp] theorem State.takeConditions_fi_indicatorTimer (s : State) : (s.takeConditions).fi.indicatorTimer = s.fi.indicatorTimer := by
  simp only [State.takeConditions]

@[simp] theorem State.drive_cs (s : State) : (s.drive).cs = s.cs := by
  simp only [State.drive]
@[simp] theorem State.drive_seq (s : State) : (s.drive).seq = s.seq := by
  simp only [State.drive]
@[simp] theorem State.drive_fe (s : State) : (s.drive).fe = s.fe := by
  simp only [State.drive]
@[simp] theorem State.drive_pi (s : State) : (s.drive).pi = s.pi := by
  simp only [State.drive]
@[simp] theorem State.drive_tk (s : State) : (s.drive).tk = s.tk := by
  simp only [State.drive]
@[simp] theorem State.drive_sg (s : State) : (s.drive).sg = s.sg := by
  simp only [State.drive]
@[simp] theorem State.drive_sl (s : State) : (s.drive).sl = s.sl := by
  simp only [State.drive]
@[simp] theorem State.drive_gc (s : State) : (s.drive).gc = s.gc := by
  simp only [State.drive]
@[simp] theorem State.drive_gp (s : State) : (s.drive).gp = s.gp := by
  simp only [State.drive]
@[simp] theorem State.drive_pending (s : State) : (s.drive).pending = s.pending := by
  simp only [State.drive]
@[simp] theorem State.drive_fi_cond (s : State) : (s.drive).fi.cond = s.fi.cond := by
  simp only [State.drive]
@[simp] theorem State.drive_fi_effective (s : State) : (s.drive).fi.effective = s.fi.effective := by
  simp only [State.drive]
@[simp] theorem State.drive_fi_taken (s : State) : (s.drive).fi.taken = s.fi.taken := by
  simp only [State.drive]
@[simp] theorem State.drive_fi_flags (s : State) : (s.drive).fi.flags = s.fi.flags := by
  simp only [State.drive]
@[simp] theorem State.drive_fi_counters (s : State) : (s.drive).fi.counters = s.fi.counters := by
  simp only [State.drive]
@[simp] theorem State.drive_fi_lastReason (s : State) : (s.drive).fi.lastReason = s.fi.lastReason := by
  simp only [State.drive]
@[simp] theorem State.drive_fi_burstTimer (s : State) : (s.drive).fi.burstTimer = s.fi.burstTimer := by
  simp only [State.drive]
@[simp] theorem State.drive_fi_phase (s : State) : (s.drive).fi.phase = s.fi.phase := by
  simp only [State.drive]
@[simp] theorem State.drive_fi_indicatorTimer (s : State) : (s.drive).fi.indicatorTimer = s.fi.indicatorTimer := by
  simp only [State.drive]

@[simp] theorem State.settle_cs (s : State) : (s.settle).cs = s.cs := by
  simp [State.settle]
@[simp] theorem State.settle_seq (s : State) : (s.settle).seq = s.seq := by
  simp [State.settle]
@[simp] theorem State.settle_fe (s : State) : (s.settle).fe = s.fe := by
  simp [State.settle]
@[simp] theorem State.settle_pi (s : State) : (s.settle).pi = s.pi := by
  simp [State.settle]
@[simp] theorem State.settle_tk (s : State) : (s.settle).tk = s.tk := by
  simp [State.settle]
@[simp] theorem State.settle_sg (s : State) : (s.settle).sg = s.sg := by
  simp [State.settle]
@[simp] theorem State.settle_sl (s : State) : (s.settle).sl = s.sl := by
  simp [State.settle]
@[simp] theorem State.settle_gp (s : State) : (s.settle).gp = s.gp := by
  simp [State.settle]
@[simp] theorem State.settle_pending (s : State) : (s.settle).pending = s.pending := by
  simp [State.settle]
@[simp] theorem State.settle_gc_recoveryTimer (s : State) : (s.settle).gc.recoveryTimer = s.gc.recoveryTimer := by
  simp [State.settle]
@[simp] theorem State.settle_fi_counters (s : State) : (s.settle).fi.counters = s.fi.counters := by
  simp [State.settle]
@[simp] theorem State.settle_fi_lastReason (s : State) : (s.settle).fi.lastReason = s.fi.lastReason := by
  simp [State.settle]
@[simp] theorem State.settle_fi_burstTimer (s : State) : (s.settle).fi.burstTimer = s.fi.burstTimer := by
  simp [State.settle]
@[simp] theorem State.settle_fi_phase (s : State) : (s.settle).fi.phase = s.fi.phase := by
  simp [State.settle]
@[simp] theorem State.settle_fi_indicatorTimer (s : State) : (s.settle).fi.indicatorTimer = s.fi.indicatorTimer := by
  simp [State.settle]

@[simp] theorem State.beginClash_cs (s : State) : (s.beginClash).cs = s.cs := rfl
@[simp] theorem State.beginClash_seq (s : State) : (s.beginClash).seq = s.seq := rfl
@[simp] theorem State.beginClash_fe (s : State) : (s.beginClash).fe = s.fe := rfl
@[simp] theorem State.beginClash_pi (s : State) : (s.beginClash).pi = s.pi := rfl
@[simp] theorem State.beginClash_tk (s : State) : (s.beginClash).tk = s.tk := rfl
@[simp] theorem State.beginClash_sg (s : State) : (s.beginClash).sg = s.sg := rfl
@[simp] theorem State.beginClash_gc (s : State) : (s.beginClash).gc = s.gc := rfl
@[simp] theorem State.beginClash_gp (s : State) : (s.beginClash).gp = s.gp := rfl
@[simp] theorem State.beginClash_pending (s : State) : (s.beginClash).pending = s.pending := rfl
@[simp] theorem State.beginClash_fi_counters (s : State) : (s.beginClash).fi.counters = s.fi.counters := rfl
@[simp] theorem State.beginClash_fi_lastReason (s : State) : (s.beginClash).fi.lastReason = s.fi.lastReason := rfl

@[simp] theorem State.endAlone_cs (s : State) : (s.endAlone).cs = s.cs := rfl
@[simp] theorem State.endAlone_seq (s : State) : (s.endAlone).seq = s.seq := rfl
@[simp] theorem State.endAlone_fe (s : State) : (s.endAlone).fe = s.fe := rfl
@[simp] theorem State.endAlone_pi (s : State) : (s.endAlone).pi = s.pi := rfl
@[simp] theorem State.endAlone_tk (s : State) : (s.endAlone).tk = s.tk := rfl
@[simp] theorem State.endAlone_sg (s : State) : (s.endAlone).sg = s.sg := rfl
@[simp] theorem State.endAlone_gc (s : State) : (s.endAlone).gc = s.gc := rfl
@[simp] theorem State.endAlone_gp (s : State) : (s.endAlone).gp = s.gp := rfl
@[simp] theorem State.endAlone_fi (s : State) : (s.endAlone).fi = s.fi := rfl
@[simp] theorem State.endAlone_pending (s : State) : (s.endAlone).pending = s.pending := rfl

@[simp] theorem State.countReceived_cs (s : State) : (s.countReceived).cs = s.cs := rfl
@[simp] theorem State.countReceived_seq (s : State) : (s.countReceived).seq = s.seq := rfl
@[simp] theorem State.countReceived_fe (s : State) : (s.countReceived).fe = s.fe := rfl
@[simp] theorem State.countReceived_pi (s : State) : (s.countReceived).pi = s.pi := rfl
@[simp] theorem State.countReceived_tk (s : State) : (s.countReceived).tk = s.tk := rfl
@[simp] theorem State.countReceived_sg (s : State) : (s.countReceived).sg = s.sg := rfl
@[simp] theorem State.countReceived_gc (s : State) : (s.countReceived).gc = s.gc := rfl
@[simp] theorem State.countReceived_gp (s : State) : (s.countReceived).gp = s.gp := rfl
@[simp] theorem State.countReceived_fi (s : State) : (s.countReceived).fi = s.fi := rfl
@[simp] theorem State.countReceived_pending (s : State) : (s.countReceived).pending = s.pending := rfl

/-- A refusal changes FI alone (R23). -/
theorem State.refuseLoad_eq (s : State) (r : Reason) :
    s.refuseLoad r =
      { s with
        fi.flags :=
          if r = .tableFull then (s.fi.flags.set Flag.loadRefused.bit true).set Flag.tableFull.bit true
          else s.fi.flags.set Flag.loadRefused.bit true
        fi.counters.loadsRefused := bump s.fi.counters.loadsRefused
        fi.lastReason := some r } := by
  unfold State.refuseLoad
  split <;> simp_all [State.setFlag]

@[simp] theorem State.refuseLoad_cs (s : State) (r : Reason) : (s.refuseLoad r).cs = s.cs := by
  rw [State.refuseLoad_eq]
@[simp] theorem State.refuseLoad_seq (s : State) (r : Reason) : (s.refuseLoad r).seq = s.seq := by
  rw [State.refuseLoad_eq]
@[simp] theorem State.refuseLoad_fe (s : State) (r : Reason) : (s.refuseLoad r).fe = s.fe := by
  rw [State.refuseLoad_eq]
@[simp] theorem State.refuseLoad_pi (s : State) (r : Reason) : (s.refuseLoad r).pi = s.pi := by
  rw [State.refuseLoad_eq]
@[simp] theorem State.refuseLoad_tk (s : State) (r : Reason) : (s.refuseLoad r).tk = s.tk := by
  rw [State.refuseLoad_eq]
@[simp] theorem State.refuseLoad_sg (s : State) (r : Reason) : (s.refuseLoad r).sg = s.sg := by
  rw [State.refuseLoad_eq]
@[simp] theorem State.refuseLoad_sl (s : State) (r : Reason) : (s.refuseLoad r).sl = s.sl := by
  rw [State.refuseLoad_eq]
@[simp] theorem State.refuseLoad_gc (s : State) (r : Reason) : (s.refuseLoad r).gc = s.gc := by
  rw [State.refuseLoad_eq]
@[simp] theorem State.refuseLoad_gp (s : State) (r : Reason) : (s.refuseLoad r).gp = s.gp := by
  rw [State.refuseLoad_eq]
@[simp] theorem State.refuseLoad_pending (s : State) (r : Reason) : (s.refuseLoad r).pending = s.pending := by
  rw [State.refuseLoad_eq]
@[simp] theorem State.refuseLoad_fi_burstTimer (s : State) (r : Reason) : (s.refuseLoad r).fi.burstTimer = s.fi.burstTimer := by
  rw [State.refuseLoad_eq]
@[simp] theorem State.refuseLoad_fi_phase (s : State) (r : Reason) : (s.refuseLoad r).fi.phase = s.fi.phase := by
  rw [State.refuseLoad_eq]

/-! ## The end of an event -/

/-- Marking a channel changes the update queue alone (R162). -/
theorem State.mark_eq (c : Channel) (s : State) :
    s.mark c =
      { s with
        gp.queue :=
          if c ∉ s.gp.queue ∧ (s.gp.chan.get c).lastSent ≠ some (s.gc.chan.get c).applied then s.gp.queue ++ [c]
          else s.gp.queue } := by
  unfold State.mark
  split <;> rfl

/-- The marks of an event change the update queue alone. -/
theorem State.markChanges_eq (s before : State) :
    s.markChanges before = { s with gp.queue := (s.markChanges before).gp.queue } := by
  unfold State.markChanges
  refine forEach_keeps (fun t : State => t = { s with gp.queue := t.gp.queue }) _ ?_ s rfl
  intro c t ht
  split
  · exact ht
  · rw [State.mark_eq, ht]

@[simp] theorem State.markChanges_cs (s before : State) : (s.markChanges before).cs = s.cs := by
  rw [State.markChanges_eq]
@[simp] theorem State.markChanges_seq (s before : State) : (s.markChanges before).seq = s.seq := by
  rw [State.markChanges_eq]
@[simp] theorem State.markChanges_fe (s before : State) : (s.markChanges before).fe = s.fe := by
  rw [State.markChanges_eq]
@[simp] theorem State.markChanges_pi (s before : State) : (s.markChanges before).pi = s.pi := by
  rw [State.markChanges_eq]
@[simp] theorem State.markChanges_tk (s before : State) : (s.markChanges before).tk = s.tk := by
  rw [State.markChanges_eq]
@[simp] theorem State.markChanges_sg (s before : State) : (s.markChanges before).sg = s.sg := by
  rw [State.markChanges_eq]
@[simp] theorem State.markChanges_sl (s before : State) : (s.markChanges before).sl = s.sl := by
  rw [State.markChanges_eq]
@[simp] theorem State.markChanges_gc (s before : State) : (s.markChanges before).gc = s.gc := by
  rw [State.markChanges_eq]
@[simp] theorem State.markChanges_fi (s before : State) : (s.markChanges before).fi = s.fi := by
  rw [State.markChanges_eq]
@[simp] theorem State.markChanges_pending (s before : State) : (s.markChanges before).pending = s.pending := by
  rw [State.markChanges_eq]
@[simp] theorem State.markChanges_gp_chan (s before : State) : (s.markChanges before).gp.chan = s.gp.chan := by
  rw [State.markChanges_eq]
@[simp] theorem State.markChanges_gp_inFlight (s before : State) : (s.markChanges before).gp.inFlight = s.gp.inFlight := by
  rw [State.markChanges_eq]
@[simp] theorem State.markChanges_gp_previous (s before : State) : (s.markChanges before).gp.previous = s.gp.previous := by
  rw [State.markChanges_eq]
@[simp] theorem State.markChanges_gp_seq (s before : State) : (s.markChanges before).gp.seq = s.gp.seq := by
  rw [State.markChanges_eq]
@[simp] theorem State.markChanges_gp_refreshTimer (s before : State) : (s.markChanges before).gp.refreshTimer = s.gp.refreshTimer := by
  rw [State.markChanges_eq]

/-- The end of an event: what `settle` forms, and the marked channels at the end of the update queue. -/
theorem State.commit_eq (s before : State) :
    s.commit before = { s.settle with gp.queue := (s.commit before).gp.queue } := by
  unfold State.commit
  exact State.markChanges_eq _ _

@[simp] theorem State.commit_cs (s before : State) : (s.commit before).cs = s.cs := by
  simp [State.commit]
@[simp] theorem State.commit_seq (s before : State) : (s.commit before).seq = s.seq := by
  simp [State.commit]
@[simp] theorem State.commit_fe (s before : State) : (s.commit before).fe = s.fe := by
  simp [State.commit]
@[simp] theorem State.commit_pi (s before : State) : (s.commit before).pi = s.pi := by
  simp [State.commit]
@[simp] theorem State.commit_tk (s before : State) : (s.commit before).tk = s.tk := by
  simp [State.commit]
@[simp] theorem State.commit_sg (s before : State) : (s.commit before).sg = s.sg := by
  simp [State.commit]
@[simp] theorem State.commit_sl (s before : State) : (s.commit before).sl = s.sl := by
  simp [State.commit]
@[simp] theorem State.commit_pending (s before : State) : (s.commit before).pending = s.pending := by
  simp [State.commit]
@[simp] theorem State.commit_gp_chan (s before : State) : (s.commit before).gp.chan = s.gp.chan := by
  simp [State.commit]
@[simp] theorem State.commit_gp_inFlight (s before : State) : (s.commit before).gp.inFlight = s.gp.inFlight := by
  simp [State.commit]
@[simp] theorem State.commit_gp_previous (s before : State) : (s.commit before).gp.previous = s.gp.previous := by
  simp [State.commit]
@[simp] theorem State.commit_gp_seq (s before : State) : (s.commit before).gp.seq = s.gp.seq := by
  simp [State.commit]
@[simp] theorem State.commit_gp_refreshTimer (s before : State) : (s.commit before).gp.refreshTimer = s.gp.refreshTimer := by
  simp [State.commit]
@[simp] theorem State.commit_gc_recoveryTimer (s before : State) : (s.commit before).gc.recoveryTimer = s.gc.recoveryTimer := by
  simp [State.commit]
@[simp] theorem State.commit_fi_counters (s before : State) : (s.commit before).fi.counters = s.fi.counters := by
  simp [State.commit]
@[simp] theorem State.commit_fi_lastReason (s before : State) : (s.commit before).fi.lastReason = s.fi.lastReason := by
  simp [State.commit]
@[simp] theorem State.commit_fi_burstTimer (s before : State) : (s.commit before).fi.burstTimer = s.fi.burstTimer := by
  simp [State.commit]
@[simp] theorem State.commit_fi_phase (s before : State) : (s.commit before).fi.phase = s.fi.phase := by
  simp [State.commit]
@[simp] theorem State.commit_fi_indicatorTimer (s before : State) : (s.commit before).fi.indicatorTimer = s.fi.indicatorTimer := by
  simp [State.commit]
theorem State.commit_gc (s before : State) : (s.commit before).gc = s.settle.gc := by
  unfold State.commit
  rw [State.markChanges_gc]
theorem State.commit_fi (s before : State) : (s.commit before).fi = s.settle.fi := by
  unfold State.commit
  rw [State.markChanges_fi]

/-! ## Queueing a message -/

/-- Queueing a message changes the transmit queue, the flags and the drop counter alone (R145 to R148). -/
theorem State.enqueue_eq (s : State) (m : Msg) :
    s.enqueue m =
      { s with
        sl.queue := (s.enqueue m).sl.queue
        fi.flags := (s.enqueue m).fi.flags
        fi.counters.txDrops := (s.enqueue m).fi.counters.txDrops } := by
  unfold State.enqueue
  split
  · rfl
  · split
    · rfl
    · dsimp only
      split <;> rfl

@[simp] theorem State.enqueue_cs (s : State) (m : Msg) : (s.enqueue m).cs = s.cs := by
  rw [State.enqueue_eq]
@[simp] theorem State.enqueue_seq (s : State) (m : Msg) : (s.enqueue m).seq = s.seq := by
  rw [State.enqueue_eq]
@[simp] theorem State.enqueue_fe (s : State) (m : Msg) : (s.enqueue m).fe = s.fe := by
  rw [State.enqueue_eq]
@[simp] theorem State.enqueue_pi (s : State) (m : Msg) : (s.enqueue m).pi = s.pi := by
  rw [State.enqueue_eq]
@[simp] theorem State.enqueue_tk (s : State) (m : Msg) : (s.enqueue m).tk = s.tk := by
  rw [State.enqueue_eq]
@[simp] theorem State.enqueue_sg (s : State) (m : Msg) : (s.enqueue m).sg = s.sg := by
  rw [State.enqueue_eq]
@[simp] theorem State.enqueue_gc (s : State) (m : Msg) : (s.enqueue m).gc = s.gc := by
  rw [State.enqueue_eq]
@[simp] theorem State.enqueue_gp (s : State) (m : Msg) : (s.enqueue m).gp = s.gp := by
  rw [State.enqueue_eq]
@[simp] theorem State.enqueue_pending (s : State) (m : Msg) : (s.enqueue m).pending = s.pending := by
  rw [State.enqueue_eq]
@[simp] theorem State.enqueue_sl_station (s : State) (m : Msg) : (s.enqueue m).sl.station = s.sl.station := by
  rw [State.enqueue_eq]
@[simp] theorem State.enqueue_sl_rate (s : State) (m : Msg) : (s.enqueue m).sl.rate = s.sl.rate := by
  rw [State.enqueue_eq]
@[simp] theorem State.enqueue_sl_state (s : State) (m : Msg) : (s.enqueue m).sl.state = s.sl.state := by
  rw [State.enqueue_eq]
@[simp] theorem State.enqueue_sl_txErrors (s : State) (m : Msg) : (s.enqueue m).sl.txErrors = s.sl.txErrors := by
  rw [State.enqueue_eq]
@[simp] theorem State.enqueue_sl_rxErrors (s : State) (m : Msg) : (s.enqueue m).sl.rxErrors = s.sl.rxErrors := by
  rw [State.enqueue_eq]
@[simp] theorem State.enqueue_sl_recessive (s : State) (m : Msg) : (s.enqueue m).sl.recessive = s.sl.recessive := by
  rw [State.enqueue_eq]
@[simp] theorem State.enqueue_sl_peer (s : State) (m : Msg) : (s.enqueue m).sl.peer = s.sl.peer := by
  rw [State.enqueue_eq]
@[simp] theorem State.enqueue_sl_config (s : State) (m : Msg) : (s.enqueue m).sl.config = s.sl.config := by
  rw [State.enqueue_eq]
@[simp] theorem State.enqueue_sl_assembly (s : State) (m : Msg) : (s.enqueue m).sl.assembly = s.sl.assembly := by
  rw [State.enqueue_eq]
@[simp] theorem State.enqueue_sl_aloneCond (s : State) (m : Msg) : (s.enqueue m).sl.aloneCond = s.sl.aloneCond := by
  rw [State.enqueue_eq]
@[simp] theorem State.enqueue_sl_clashCond (s : State) (m : Msg) : (s.enqueue m).sl.clashCond = s.sl.clashCond := by
  rw [State.enqueue_eq]
@[simp] theorem State.enqueue_sl_presenceTimer (s : State) (m : Msg) : (s.enqueue m).sl.presenceTimer = s.sl.presenceTimer := by
  rw [State.enqueue_eq]
@[simp] theorem State.enqueue_sl_aloneTimer (s : State) (m : Msg) : (s.enqueue m).sl.aloneTimer = s.sl.aloneTimer := by
  rw [State.enqueue_eq]
@[simp] theorem State.enqueue_sl_clashTimer (s : State) (m : Msg) : (s.enqueue m).sl.clashTimer = s.sl.clashTimer := by
  rw [State.enqueue_eq]
@[simp] theorem State.enqueue_sl_windowTimer (s : State) (m : Msg) : (s.enqueue m).sl.windowTimer = s.sl.windowTimer := by
  rw [State.enqueue_eq]
@[simp] theorem State.enqueue_sl_limitTimer (s : State) (m : Msg) : (s.enqueue m).sl.limitTimer = s.sl.limitTimer := by
  rw [State.enqueue_eq]
@[simp] theorem State.enqueue_fi_burstTimer (s : State) (m : Msg) : (s.enqueue m).fi.burstTimer = s.fi.burstTimer := by
  rw [State.enqueue_eq]
@[simp] theorem State.enqueue_fi_lastReason (s : State) (m : Msg) : (s.enqueue m).fi.lastReason = s.fi.lastReason := by
  rw [State.enqueue_eq]
@[simp] theorem State.enqueue_fi_phase (s : State) (m : Msg) : (s.enqueue m).fi.phase = s.fi.phase := by
  rw [State.enqueue_eq]
@[simp] theorem State.enqueue_fi_counters_remoteIgnored (s : State) (m : Msg) : (s.enqueue m).fi.counters.remoteIgnored = s.fi.counters.remoteIgnored := by
  rw [State.enqueue_eq]
@[simp] theorem State.enqueue_fi_counters_loadsRefused (s : State) (m : Msg) : (s.enqueue m).fi.counters.loadsRefused = s.fi.counters.loadsRefused := by
  rw [State.enqueue_eq]
@[simp] theorem State.enqueue_fi_counters_goRefused (s : State) (m : Msg) : (s.enqueue m).fi.counters.goRefused = s.fi.counters.goRefused := by
  rw [State.enqueue_eq]
@[simp] theorem State.enqueue_fi_taken (s : State) (m : Msg) : (s.enqueue m).fi.taken = s.fi.taken := by
  rw [State.enqueue_eq]
@[simp] theorem State.enqueue_fi_cond (s : State) (m : Msg) : (s.enqueue m).fi.cond = s.fi.cond := by
  rw [State.enqueue_eq]
@[simp] theorem State.enqueue_fi_effective (s : State) (m : Msg) : (s.enqueue m).fi.effective = s.fi.effective := by
  rw [State.enqueue_eq]
@[simp] theorem State.enqueue_fi_indicatorTimer (s : State) (m : Msg) : (s.enqueue m).fi.indicatorTimer = s.fi.indicatorTimer := by
  rw [State.enqueue_eq]

/-! ## Receiving a frame -/

/-- Hearing a peer changes its entry and, if it was not PRESENT, the alone timer and condition (R150, R151). -/
theorem State.hearPeer_eq (s : State) (p : Station) :
    s.hearPeer p =
      { s with
        sl.peer := s.sl.peer.modify p fun e => { e with state := .present, silence := .running Config.silenceMs }
        sl.aloneTimer := if (s.sl.peer.get p).state = .present then s.sl.aloneTimer else .stopped
        sl.aloneCond := if (s.sl.peer.get p).state = .present then s.sl.aloneCond else false } := by
  unfold State.hearPeer
  dsimp only
  split <;> rfl

@[simp] theorem State.heard_cs (s : State) (p : Station) : (s.heard p).cs = s.cs := by
  unfold State.heard State.hearSender
  split
  · rfl
  · rw [State.hearPeer_eq]; rfl
@[simp] theorem State.heard_seq (s : State) (p : Station) : (s.heard p).seq = s.seq := by
  unfold State.heard State.hearSender
  split
  · rfl
  · rw [State.hearPeer_eq]; rfl
@[simp] theorem State.heard_fe (s : State) (p : Station) : (s.heard p).fe = s.fe := by
  unfold State.heard State.hearSender
  split
  · rfl
  · rw [State.hearPeer_eq]; rfl
@[simp] theorem State.heard_pi (s : State) (p : Station) : (s.heard p).pi = s.pi := by
  unfold State.heard State.hearSender
  split
  · rfl
  · rw [State.hearPeer_eq]; rfl
@[simp] theorem State.heard_tk (s : State) (p : Station) : (s.heard p).tk = s.tk := by
  unfold State.heard State.hearSender
  split
  · rfl
  · rw [State.hearPeer_eq]; rfl
@[simp] theorem State.heard_sg (s : State) (p : Station) : (s.heard p).sg = s.sg := by
  unfold State.heard State.hearSender
  split
  · rfl
  · rw [State.hearPeer_eq]; rfl
@[simp] theorem State.heard_gc (s : State) (p : Station) : (s.heard p).gc = s.gc := by
  unfold State.heard State.hearSender
  split
  · rfl
  · rw [State.hearPeer_eq]; rfl
@[simp] theorem State.heard_gp (s : State) (p : Station) : (s.heard p).gp = s.gp := by
  unfold State.heard State.hearSender
  split
  · rfl
  · rw [State.hearPeer_eq]; rfl
@[simp] theorem State.heard_pending (s : State) (p : Station) : (s.heard p).pending = s.pending := by
  unfold State.heard State.hearSender
  split
  · rfl
  · rw [State.hearPeer_eq]; rfl
@[simp] theorem State.heard_fi_counters (s : State) (p : Station) : (s.heard p).fi.counters = s.fi.counters := by
  unfold State.heard State.hearSender
  split
  · rfl
  · rw [State.hearPeer_eq]; rfl
@[simp] theorem State.heard_fi_lastReason (s : State) (p : Station) : (s.heard p).fi.lastReason = s.fi.lastReason := by
  unfold State.heard State.hearSender
  split
  · rfl
  · rw [State.hearPeer_eq]; rfl
@[simp] theorem State.heard_sl_station (s : State) (p : Station) : (s.heard p).sl.station = s.sl.station := by
  unfold State.heard State.hearSender
  split
  · rfl
  · rw [State.hearPeer_eq]; rfl
@[simp] theorem State.heard_sl_rate (s : State) (p : Station) : (s.heard p).sl.rate = s.sl.rate := by
  unfold State.heard State.hearSender
  split
  · rfl
  · rw [State.hearPeer_eq]; rfl
@[simp] theorem State.heard_sl_state (s : State) (p : Station) : (s.heard p).sl.state = s.sl.state := by
  unfold State.heard State.hearSender
  split
  · rfl
  · rw [State.hearPeer_eq]; rfl
@[simp] theorem State.heard_sl_txErrors (s : State) (p : Station) : (s.heard p).sl.txErrors = s.sl.txErrors := by
  unfold State.heard State.hearSender
  split
  · rfl
  · rw [State.hearPeer_eq]; rfl
@[simp] theorem State.heard_sl_recessive (s : State) (p : Station) : (s.heard p).sl.recessive = s.sl.recessive := by
  unfold State.heard State.hearSender
  split
  · rfl
  · rw [State.hearPeer_eq]; rfl
@[simp] theorem State.heard_sl_queue (s : State) (p : Station) : (s.heard p).sl.queue = s.sl.queue := by
  unfold State.heard State.hearSender
  split
  · rfl
  · rw [State.hearPeer_eq]; rfl
@[simp] theorem State.heard_sl_config (s : State) (p : Station) : (s.heard p).sl.config = s.sl.config := by
  unfold State.heard State.hearSender
  split
  · rfl
  · rw [State.hearPeer_eq]; rfl
@[simp] theorem State.heard_sl_assembly (s : State) (p : Station) : (s.heard p).sl.assembly = s.sl.assembly := by
  unfold State.heard State.hearSender
  split
  · rfl
  · rw [State.hearPeer_eq]; rfl
@[simp] theorem State.heard_sl_presenceTimer (s : State) (p : Station) : (s.heard p).sl.presenceTimer = s.sl.presenceTimer := by
  unfold State.heard State.hearSender
  split
  · rfl
  · rw [State.hearPeer_eq]; rfl
@[simp] theorem State.heard_sl_windowTimer (s : State) (p : Station) : (s.heard p).sl.windowTimer = s.sl.windowTimer := by
  unfold State.heard State.hearSender
  split
  · rfl
  · rw [State.hearPeer_eq]; rfl
@[simp] theorem State.heard_sl_limitTimer (s : State) (p : Station) : (s.heard p).sl.limitTimer = s.sl.limitTimer := by
  unfold State.heard State.hearSender
  split
  · rfl
  · rw [State.hearPeer_eq]; rfl
@[simp] theorem State.heard_fi_burstTimer (s : State) (p : Station) : (s.heard p).fi.burstTimer = s.fi.burstTimer := by
  unfold State.heard State.hearSender
  split
  · rfl
  · rw [State.hearPeer_eq]; rfl

/-- Reception leaves the configuration in force, and with it every accessor of it, as it was. -/
@[simp] theorem State.heard_config (s : State) (p : Station) : (s.heard p).config = s.config := by
  simp [State.config]

end Sys2Proof.Machine
end

