-- ==== Sys2Proof/Laws/Takeover.lean ====
section
/-! SUPPORT. What the operations of TK and FE can do: each changes TK (and FE), and beside them only the transmit queue with the
flag and the counter of an overflow. One lemma an operation; the projections below turn each into the fields it keeps. -/

namespace Sys2Proof.Machine

/-- `t` differs from `s` in FE, TK, the transmit queue, the flags and the drop counter at most. -/
structure State.LevelsOnly (s t : State) : Prop where
  cs : t.cs = s.cs
  seq : t.seq = s.seq
  pi : t.pi = s.pi
  sg : t.sg = s.sg
  gc : t.gc = s.gc
  gp : t.gp = s.gp
  pending : t.pending = s.pending
  sl : t.sl = { s.sl with queue := t.sl.queue }
  fi : t.fi = { s.fi with flags := t.fi.flags, counters.txDrops := t.fi.counters.txDrops }

namespace State.LevelsOnly

variable {s t u : State}

theorem refl (s : State) : s.LevelsOnly s := ⟨rfl, rfl, rfl, rfl, rfl, rfl, rfl, rfl, rfl⟩

theorem trans (h : s.LevelsOnly t) (k : t.LevelsOnly u) : s.LevelsOnly u where
  cs := k.cs.trans h.cs
  seq := k.seq.trans h.seq
  pi := k.pi.trans h.pi
  sg := k.sg.trans h.sg
  gc := k.gc.trans h.gc
  gp := k.gp.trans h.gp
  pending := k.pending.trans h.pending
  sl := by rw [k.sl, h.sl]
  fi := by rw [k.fi, h.fi]

theorem config (h : s.LevelsOnly t) : t.config = s.config := by unfold State.config; rw [h.sl]
theorem station (h : s.LevelsOnly t) : t.sl.station = s.sl.station := by rw [h.sl]
theorem state (h : s.LevelsOnly t) : t.sl.state = s.sl.state := by rw [h.sl]
theorem peer (h : s.LevelsOnly t) : t.sl.peer = s.sl.peer := by rw [h.sl]
theorem busOff (h : s.LevelsOnly t) : t.busOff = s.busOff := by unfold State.busOff; rw [h.sl]
theorem effective (h : s.LevelsOnly t) : t.fi.effective = s.fi.effective := by rw [h.fi]
theorem phase (h : s.LevelsOnly t) : t.fi.phase = s.fi.phase := by rw [h.fi]
theorem taken (h : s.LevelsOnly t) : t.fi.taken = s.fi.taken := by rw [h.fi]
theorem burstTimer (h : s.LevelsOnly t) : t.fi.burstTimer = s.fi.burstTimer := by rw [h.fi]

end State.LevelsOnly

theorem State.levelsOnly_enqueue (s : State) (m : Msg) : s.LevelsOnly (s.enqueue m) := by
  have h := State.enqueue_eq s m
  exact ⟨by simp, by simp, by simp, by simp, by simp, by simp, by simp, congrArg State.sl h, congrArg State.fi h⟩

theorem State.levelsOnly_modifyTk (s : State) (c : Channel) (f : TakeoverChannel → TakeoverChannel) :
    s.LevelsOnly (s.modifyTk c f) :=
  ⟨rfl, rfl, rfl, rfl, rfl, rfl, rfl, rfl, rfl⟩

theorem State.levelsOnly_modifyLink (s : State) (l : LinkNo) (f : LinkRecord → LinkRecord) :
    s.LevelsOnly (s.modifyLink l f) :=
  ⟨rfl, rfl, rfl, rfl, rfl, rfl, rfl, rfl, rfl⟩

theorem State.levelsOnly_modifyFe (s : State) (c : Channel) (f : FadeChannel → FadeChannel) :
    s.LevelsOnly (s.modifyFe c f) :=
  ⟨rfl, rfl, rfl, rfl, rfl, rfl, rfl, rfl, rfl⟩

theorem State.levelsOnly_holdBegin (s : State) (l : LinkNo) : s.LevelsOnly (s.holdBegin l) := by
  constructor <;> simp only [State.holdBegin]

theorem State.levelsOnly_levelChange (s : State) (l : LinkNo) : s.LevelsOnly (s.levelChange l) := by
  constructor <;> simp only [State.levelChange]

theorem State.levelsOnly_membersRelease (s : State) (l : LinkNo) : s.LevelsOnly (s.membersRelease l) := by
  constructor <;> simp only [State.membersRelease]

theorem State.levelsOnly_queueLink (l : LinkNo) (a : LinkAction) (s : State) : s.LevelsOnly (s.queueLink l a) :=
  s.levelsOnly_enqueue _

theorem State.levelsOnly_takeHold (s : State) (l : LinkNo) (c : Channel) : s.LevelsOnly (s.takeHold l c) :=
  ((s.levelsOnly_modifyLink l _).trans (State.levelsOnly_queueLink ..)).trans (State.levelsOnly_holdBegin ..)

theorem State.levelsOnly_driveLink (s : State) (l : LinkNo) (c : Channel) : s.LevelsOnly (s.driveLink l c) :=
  ((s.levelsOnly_modifyLink l _).trans (State.levelsOnly_queueLink ..)).trans (State.levelsOnly_levelChange ..)

theorem State.levelsOnly_giveUp (s : State) (l : LinkNo) : s.LevelsOnly (s.giveUp l) :=
  ((s.levelsOnly_modifyLink l _).trans (State.levelsOnly_queueLink ..)).trans (State.levelsOnly_membersRelease ..)

theorem State.levelsOnly_leaveList (s : State) (l : LinkNo) (c : Channel) : s.LevelsOnly (s.leaveList l c) := by
  unfold State.leaveList
  dsimp only
  split
  · split
    · exact (s.levelsOnly_modifyLink l _).trans (State.levelsOnly_giveUp ..)
    · split
      · exact (s.levelsOnly_modifyLink l _).trans (State.levelsOnly_driveLink ..)
      · exact s.levelsOnly_modifyLink l _
  · exact .refl s

theorem State.levelsOnly_touchBegin (s : State) (c : Channel) : s.LevelsOnly (s.touchBegin c) := by
  unfold State.touchBegin
  dsimp only
  split
  · exact s.levelsOnly_modifyTk c _
  · exact (s.levelsOnly_modifyTk c _).trans (State.levelsOnly_takeHold ..)

theorem State.levelsOnly_touchEnd (s : State) (c : Channel) : s.LevelsOnly (s.touchEnd c) := by
  unfold State.touchEnd
  split
  · exact s.levelsOnly_modifyTk c _
  · split
    · exact s.levelsOnly_leaveList ..
    · exact s.levelsOnly_modifyTk c _

theorem State.levelsOnly_faderChange (s : State) (c : Channel) : s.LevelsOnly (s.faderChange c) := by
  unfold State.faderChange
  split
  · exact s.levelsOnly_modifyTk c _
  · split
    · exact s.levelsOnly_driveLink ..
    · exact .refl s

theorem State.levelsOnly_notice (s : State) (c : Channel) (priority : Bool) : s.LevelsOnly (s.notice c priority) := by
  unfold State.notice
  split
  · dsimp only
    split
    · exact s.levelsOnly_modifyTk c _
    · exact (s.levelsOnly_modifyTk c _).trans (State.levelsOnly_leaveList ..)
  · exact s.levelsOnly_modifyTk c _

theorem State.levelsOnly_loseHold (s : State) (l : LinkNo) : s.LevelsOnly (s.loseHold l) := by
  unfold State.loseHold
  split
  · exact ⟨rfl, rfl, rfl, rfl, rfl, rfl, rfl, rfl, rfl⟩
  · exact .refl s

theorem State.levelsOnly_acceptTouch (s : State) (l : LinkNo) (t : Nat) (p : Option Station) (held : Bool) (level : Level) :
    s.LevelsOnly (s.acceptTouch l t p held level) := by
  unfold State.acceptTouch
  have h := fun f => (s.levelsOnly_loseHold l).trans (State.levelsOnly_modifyLink (s.loseHold l) l f)
  dsimp only
  split
  · split
    · exact (h _).trans (State.levelsOnly_holdBegin ..)
    · exact (h _).trans (State.levelsOnly_levelChange ..)
  · split
    · exact (h _).trans (State.levelsOnly_membersRelease ..)
    · exact h _

theorem State.levelsOnly_acceptRelease (s : State) (l : LinkNo) (t : Nat) (p : Option Station) (level : Level) :
    s.LevelsOnly (s.acceptRelease l t p level) := by
  unfold State.acceptRelease
  have h := fun f => (s.levelsOnly_loseHold l).trans (State.levelsOnly_modifyLink (s.loseHold l) l f)
  dsimp only
  split
  · exact (h _).trans (State.levelsOnly_membersRelease ..)
  · exact h _

/-- A loop of operations that each keep to the levels keeps to them. -/
theorem State.levelsOnly_forEach {n : Nat} (f : Fin n → State → State) (hf : ∀ i (s : State), s.LevelsOnly (f i s)) (s : State) :
    s.LevelsOnly (forEach n f s) :=
  forEach_keeps (fun t => s.LevelsOnly t) f (fun i t h => h.trans (hf i t)) s (.refl s)

theorem State.levelsOnly_releaseHeldBy (s : State) (p : Station) : s.LevelsOnly (s.releaseHeldBy p) := by
  refine State.levelsOnly_forEach _ (fun l t => ?_) s
  unfold State.releaseIfHeldBy
  split
  · exact (t.levelsOnly_modifyLink l _).trans (State.levelsOnly_membersRelease ..)
  · exact .refl t

theorem State.levelsOnly_answerLinks (s : State) : s.LevelsOnly s.answerLinks := by
  refine State.levelsOnly_forEach _ (fun l t => ?_) s
  split
  · exact State.levelsOnly_queueLink ..
  · exact .refl t

theorem State.levelsOnly_announceLinks (s : State) : s.LevelsOnly s.announceLinks := by
  refine State.levelsOnly_forEach _ (fun l t => ?_) s
  split
  · exact State.levelsOnly_queueLink ..
  · exact .refl t

theorem State.levelsOnly_startFade (s : State) (c : Channel) (cue : Cue) (target : Level) (fade : Nat) (curve : Curve)
    (priority : Bool) : s.LevelsOnly (s.startFade c cue target fade curve priority) :=
  (s.levelsOnly_modifyFe c _).trans (State.levelsOnly_notice ..)

theorem State.levelsOnly_startStep (s : State) (p : PendingStep) : s.LevelsOnly (s.startStep p) := by
  unfold State.startStep
  dsimp only
  split
  · exact s.levelsOnly_modifyFe ..
  · exact (s.levelsOnly_startFade ..).trans (State.levelsOnly_modifyFe ..)

theorem State.levelsOnly_takeStep (s : State) (p : PendingStep) : s.LevelsOnly (s.takeStep p) := by
  unfold State.takeStep
  have h : s.LevelsOnly { s with fe.waiting := s.fe.waiting.filter fun e => !decide (e.channel = p.channel) } :=
    ⟨rfl, rfl, rfl, rfl, rfl, rfl, rfl, rfl, rfl⟩
  dsimp only
  split
  · exact h.trans (State.levelsOnly_startStep ..)
  · exact ⟨rfl, rfl, rfl, rfl, rfl, rfl, rfl, rfl, rfl⟩

/-- A fold of operations that each keep to the levels keeps to them. -/
theorem State.levelsOnly_foldl {α : Type} (f : State → α → State) (hf : ∀ (s : State) a, s.LevelsOnly (f s a)) (l : List α) (s : State) :
    s.LevelsOnly (l.foldl f s) := by
  induction l generalizing s with
  | nil => exact .refl s
  | cons a l ih => exact (hf s a).trans (ih (f s a))

theorem State.levelsOnly_advanceFades (s : State) : s.LevelsOnly s.advanceFades := by
  unfold State.advanceFades
  refine State.LevelsOnly.trans ?_ (State.levelsOnly_foldl _ State.levelsOnly_startStep _ _)
  constructor <;> simp only

theorem State.levelsOnly_gotoRequest (s : State) (cue : Cue) (fade : Nat) : s.LevelsOnly (s.gotoRequest cue fade) := by
  have h : s.LevelsOnly { s with fe.waiting := [] } := ⟨rfl, rfl, rfl, rfl, rfl, rfl, rfl, rfl, rfl⟩
  refine h.trans (State.levelsOnly_forEach _ (fun c t => ?_) _)
  unfold State.gotoChannel
  split
  · exact .refl t
  · exact (t.levelsOnly_startFade ..).trans (State.levelsOnly_modifyFe ..)

end Sys2Proof.Machine
end

