-- ==== Sys2Proof/Laws/Effects.lean ====
section
/-! SUPPORT. The shared operations of TK, FE, PI and SEQ satisfy the relations of Sys2Proof/Effects.lean: one lemma an operation,
which the provers cite instead of unfolding it. -/

namespace Sys2Proof.Machine

/-! ## Queueing a message beside another block -/

/-- Queueing a message reads and leaves nothing of TK. -/
theorem State.enqueue_tk_update (s : State) (tk : TakeoverUnit) (m : Msg) :
    ({ s with tk := tk } : State).enqueue m = { s.enqueue m with tk := tk } := by
  unfold State.enqueue
  split
  · rfl
  · by_cases h : s.busOff
    · rw [if_pos (show State.busOff { s with tk := tk } = true from h), if_pos h]; rfl
    · rw [if_neg (show ¬State.busOff { s with tk := tk } = true from h), if_neg h]
      dsimp only
      split <;> rfl

theorem TakeoverChannel.releaseAt_eq (tk : TakeoverChannel) (x : Level) (m : Mode) (r : Nat) (h : m ≠ .safe) :
    tk.releaseAt x m r = tk.released x m r := by
  cases m <;> simp_all [TakeoverChannel.releaseAt, TakeoverChannel.release, TakeoverChannel.released]

theorem TakeoverChannel.release_eq (tk : TakeoverChannel) (m : Mode) (r : Nat) :
    tk.release m r = tk.released tk.manual m r := by
  cases m <;> simp_all [TakeoverChannel.release, TakeoverChannel.released]

theorem State.follows_iff (s : State) (l : LinkNo) (c : Channel) :
    s.follows l c = true ↔ s.linkOf c = some l ∧ s.mode c ≠ .safe := by simp [State.follows]

/-- The operations on the members of a link, read from a state with the configuration of `s`. -/
theorem State.membersRelease_eq {s u : State} (hu : u.config = s.config) (l : LinkNo) :
    u.membersRelease l =
      { u with
        tk.chan := Table.ofFn fun d =>
          let tk := u.tk.chan.get d
          if s.linkOf d = some l ∧ s.mode d ≠ .safe ∧ tk.state = .touched then
            tk.released (u.tk.link.get l).level (s.mode d) s.config.returnTime else tk } := by
  have hm : u.mode = s.mode := by funext d; simp [State.mode, hu]
  have hl : u.linkOf = s.linkOf := by funext d; simp [State.linkOf, hu]
  refine congrArg (fun t => ({ u with tk.chan := t } : State)) (Table.ext fun d => ?_)
  simp only [Table.get_mapAt, Table.get_ofFn, State.follows, hm, hl, hu]
  by_cases h : s.linkOf d = some l <;> by_cases k : s.mode d = .safe <;>
    by_cases t : (u.tk.chan.get d).state = .touched <;> simp_all [TakeoverChannel.releaseAt_eq]

theorem State.levelChange_eq {s u : State} (hu : u.config = s.config) (l : LinkNo) :
    u.levelChange l =
      { u with
        tk.chan := Table.ofFn fun d =>
          let tk := u.tk.chan.get d
          if s.linkOf d = some l ∧ s.mode d ≠ .safe ∧ tk.state = .touched then
            { tk with manual := (u.tk.link.get l).level } else tk } := by
  have hm : u.mode = s.mode := by funext d; simp [State.mode, hu]
  have hl : u.linkOf = s.linkOf := by funext d; simp [State.linkOf, hu]
  refine congrArg (fun t => ({ u with tk.chan := t } : State)) (Table.ext fun d => ?_)
  simp only [Table.get_mapAt, Table.get_ofFn, State.follows, hm, hl]
  by_cases h : s.linkOf d = some l <;> by_cases k : s.mode d = .safe <;>
    by_cases t : (u.tk.chan.get d).state = .touched <;> simp_all

theorem State.holdBegin_eq {s u : State} (hu : u.config = s.config) (l : LinkNo) :
    u.holdBegin l =
      { u with
        tk.chan := Table.ofFn fun d =>
          let tk := u.tk.chan.get d
          if s.linkOf d = some l ∧ s.mode d ≠ .safe then ⟨.touched, (u.tk.link.get l).level, none, tk.mark⟩ else tk } := by
  have hm : u.mode = s.mode := by funext d; simp [State.mode, hu]
  have hl : u.linkOf = s.linkOf := by funext d; simp [State.linkOf, hu]
  refine congrArg (fun t => ({ u with tk.chan := t } : State)) (Table.ext fun d => ?_)
  simp only [Table.get_mapAt, Table.get_ofFn, State.follows, hm, hl, TakeoverChannel.hold]
  by_cases h : s.linkOf d = some l <;> by_cases k : s.mode d = .safe <;> simp_all

/-- A LINK queued after a change of TK, the message built from the changed record. -/
theorem State.queueLink_eq (s : State) (tk : TakeoverUnit) (l : LinkNo) (a : LinkAction) :
    State.queueLink l a { s with tk := tk } = { s.enqueue (State.linkMsg { s with tk := tk } l a) with tk := tk } :=
  s.enqueue_tk_update tk _

theorem State.config_of_enqueue (s : State) (tk : TakeoverUnit) (m : Msg) :
    State.config { s.enqueue m with tk := tk } = s.config := by simp [State.config]

theorem State.giveUp_eq (s : State) (l : LinkNo) (list : List Channel) :
    let r := s.tk.link.get l
    (s.modifyLink l fun r => { r with touching := list }).giveUp l =
      { s.enqueue (.link l .release r.stamp (some s.sl.station) false r.level) with
        tk.link := s.tk.link.set l { r with holder := none, held := false, touching := list }
        tk.chan := Table.ofFn fun d =>
          let tk := s.tk.chan.get d
          if s.linkOf d = some l ∧ s.mode d ≠ .safe ∧ tk.state = .touched then
            tk.released r.level (s.mode d) s.config.returnTime else tk } := by
  intro r
  unfold State.giveUp State.modifyLink
  dsimp only
  rw [State.queueLink_eq, State.membersRelease_eq (State.config_of_enqueue s _ _)]
  simp only [State.linkMsg, Table.get_modify_self, State.enqueue_tk]
  congr 2
  exact Table.ext fun k => by simp only [Table.get_modify, Table.get_set]; split <;> simp_all [r]

theorem State.driveLink_eq (s : State) (l : LinkNo) (c : Channel) (list : List Channel) :
    let r := s.tk.link.get l
    (s.modifyLink l fun r => { r with touching := list }).driveLink l c =
      { s.enqueue (.link l .touch r.stamp (some s.sl.station) true (s.faderLevel c)) with
        tk.link := s.tk.link.set l { r with level := s.faderLevel c, touching := list }
        tk.chan := Table.ofFn fun d =>
          let tk := s.tk.chan.get d
          if s.linkOf d = some l ∧ s.mode d ≠ .safe ∧ tk.state = .touched then
            { tk with manual := s.faderLevel c } else tk } := by
  intro r
  unfold State.driveLink State.modifyLink
  dsimp only
  rw [State.queueLink_eq, State.levelChange_eq (State.config_of_enqueue s _ _)]
  simp only [State.linkMsg, Table.get_modify_self, State.enqueue_tk, State.faderLevel]
  congr 2
  exact Table.ext fun k => by simp only [Table.get_modify, Table.get_set]; split <;> simp_all [r]

theorem State.leavesList_leaveList (s : State) (l : LinkNo) (c : Channel) : s.LeavesList l c (s.leaveList l c) := by
  unfold State.LeavesList State.leaveList
  dsimp only
  refine ⟨fun h => if_neg h, fun h e => ?_, fun h d e k => ?_, fun h e k => ?_⟩
  · rw [if_pos h, e]
    simp only [List.getLast?_nil]
    rw [State.giveUp_eq]
  · rw [if_pos h, e]
    simp only [k, if_true]
    rw [State.driveLink_eq]
  · rw [if_pos h]
    obtain ⟨d, hd⟩ := Option.isSome_iff_exists.mp (List.getLast?_isSome.mpr e)
    rw [hd]
    simp only [k, if_false]
    rfl

/-! ## Touches, notices and the starts of steps -/

theorem State.touchBegins_touchBegin (s : State) (c : Channel) : s.TouchBegins c (s.touchBegin c) := by
  unfold State.TouchBegins State.touchBegin
  dsimp only
  refine ⟨fun h => ?_, fun l h => ?_⟩
  · rw [h]
    dsimp only
    cases hm : s.mode c <;> simp only [State.modifyTk, Table.modify, TakeoverChannel.hold, reduceCtorEq, if_false, if_true]
    congr 3
    split <;> simp_all
  · rw [h]
    unfold State.takeHold State.modifyLink
    dsimp only
    rw [show (s.modifyTk c fun ch => _) = { s with tk.chan := s.tk.chan.modify c _ } from rfl]
    dsimp only
    rw [State.queueLink_eq, State.holdBegin_eq (State.config_of_enqueue s _ _)]
    simp only [State.linkMsg, Table.get_modify_self, State.enqueue_tk]
    refine congrArg (fun t => ({ s.enqueue _ with tk := t } : State)) ?_
    refine congrArg₂ (fun a b => (⟨a, b, s.tk.glideTimer⟩ : TakeoverUnit)) (Table.ext fun d => ?_) rfl
    simp only [Table.get_ofFn, Table.get_modify, State.faderLevel, eq_comm (a := c)]
    by_cases hd : d = c
    · subst hd
      cases hm : s.mode d <;> simp_all
      split <;> rfl
    · simp [hd]

theorem State.touchEnds_touchEnd (s : State) (c : Channel) : s.TouchEnds c (s.touchEnd c) := by
  unfold State.TouchEnds State.touchEnd
  dsimp only
  refine ⟨fun h => ?_, fun h k => ?_, fun h l k => ?_⟩
  · rw [if_pos h]; rfl
  · rw [if_neg (by simp [h]), k]
    simp only [State.modifyTk, Table.modify, TakeoverChannel.release_eq]
  · rw [if_neg (by simp [h]), k]
    exact s.leavesList_leaveList l c

theorem State.faderMoves_faderChange (s : State) (c : Channel) : s.FaderMoves c (s.faderChange c) := by
  unfold State.FaderMoves State.faderChange
  dsimp only
  refine ⟨fun h => ?_, fun l h => ⟨fun k => ?_, fun k => ?_⟩⟩
  · rw [h]; simp [State.modifyTk, Table.modify]
  · rw [h]; simp only [k, if_false]
  · rw [h]; simp only [k, if_true]
    have e : s.modifyLink l (fun r => { r with touching := (s.tk.link.get l).touching }) = s := by
      refine congrArg (fun t => ({ s with tk.link := t } : State)) (Table.ext fun k => ?_)
      rw [Table.get_modify]; split <;> simp_all
    exact (congrArg (fun t => State.driveLink t l c) e.symm).trans (State.driveLink_eq s l c (s.tk.link.get l).touching)

theorem State.noticeTaken_notice (s : State) (c : Channel) (b : Bool) : s.NoticeTaken c b (s.notice c b) := by
  unfold State.NoticeTaken State.notice
  dsimp only
  refine ⟨fun h => ?_, fun h => ⟨fun k => ?_, fun l k => ?_⟩⟩
  · subst h
    simp only [Bool.false_eq_true, if_false, State.modifyTk, Table.modify, TakeoverChannel.clearNotice]
    congr 3
    split <;> simp_all
  · simp only [h, if_true, k]; rfl
  · simp only [h, if_true, k]; exact State.leavesList_leaveList ..

theorem State.touchIsEnded_endTouch (s : State) (c : Channel) : s.TouchIsEnded c (State.endTouch c s) := by
  unfold State.TouchIsEnded State.endTouch
  dsimp only
  refine ⟨fun h => by simp [h], fun h => ?_⟩
  rw [if_pos h]
  exact State.touchEnds_touchEnd ..

theorem State.touchesAreEnded_foldl (s : State) (l : List Channel) :
    s.TouchesAreEnded l (l.foldl (fun t c => State.endTouch c t) s) := by
  induction l generalizing s with
  | nil => exact rfl
  | cons c l ih => exact ⟨_, s.touchIsEnded_endTouch c, ih _⟩

/-- Queueing a message reads and leaves nothing of FE. -/
theorem State.enqueue_fe_update (s : State) (fe : FadeEngine) (m : Msg) :
    ({ s with fe := fe } : State).enqueue m = { s.enqueue m with fe := fe } := by
  unfold State.enqueue
  split
  · rfl
  · by_cases h : s.busOff
    · rw [if_pos (show State.busOff { s with fe := fe } = true from h), if_pos h]; rfl
    · rw [if_neg (show ¬State.busOff { s with fe := fe } = true from h), if_neg h]
      dsimp only
      split <;> rfl

theorem State.leaveList_fe_update (s : State) (fe : FadeEngine) (l : LinkNo) (c : Channel) :
    ({ s with fe := fe } : State).leaveList l c = { s.leaveList l c with fe := fe } := by
  unfold State.leaveList
  dsimp only
  split
  · split
    · rw [State.giveUp_eq, State.giveUp_eq]
      dsimp only
      rw [State.enqueue_fe_update]
      rfl
    · split
      · rw [State.driveLink_eq, State.driveLink_eq]
        dsimp only
        rw [show State.faderLevel { s with fe := fe } = s.faderLevel from rfl, State.enqueue_fe_update]
        rfl
      · rfl
  · rfl

theorem State.notice_fe_update (s : State) (fe : FadeEngine) (c : Channel) (b : Bool) :
    ({ s with fe := fe } : State).notice c b = { s.notice c b with fe := fe } := by
  unfold State.notice
  split
  · dsimp only
    rw [show State.linkOf { s with fe := fe } c = s.linkOf c from rfl]
    split
    · rfl
    · exact State.leaveList_fe_update (s.modifyTk c _) fe _ c
  · rfl

theorem State.notice_fe (s : State) (c : Channel) (b : Bool) : (s.notice c b).fe = s.fe := by
  have h := congrArg State.fe (s.notice_fe_update s.fe c b)
  exact h

theorem State.stepStarts_startStep (s : State) (p : PendingStep) : s.StepStarts p (s.startStep p) := by
  have hm : ∀ b, p.mute.apply b = if p.mute = .none then b else decide (p.mute = .mute) := by
    intro b; cases p.mute <;> rfl
  unfold State.StepStarts State.startStep
  dsimp only
  refine ⟨fun h => ?_, fun x h => ?_⟩
  · rw [h]; simp only [State.modifyFe, Table.modify, hm]
  · rw [h]
    have hs : s.startLevel p.channel p.priority =
        if (s.tk.chan.get p.channel).state = .cue ∨ (s.tk.chan.get p.channel).state = .overridden ∨
            (p.priority = false ∧ (s.tk.chan.get p.channel).state ≠ .latched) then (s.fe.chan.get p.channel).cueLevel
        else s.sourceLevel p.channel := by
      unfold State.startLevel
      cases (s.tk.chan.get p.channel).state <;> cases p.priority <;> simp
    have e : ∀ (u : State) f, (u.notice p.channel p.priority).modifyFe p.channel f =
        (u.modifyFe p.channel f).notice p.channel p.priority := by
      intro u f
      refine Eq.trans ?_ (u.notice_fe_update { u.fe with chan := u.fe.chan.modify p.channel f } p.channel p.priority).symm
      refine congrArg (fun t => ({ u.notice p.channel p.priority with fe := t } : State)) ?_
      rw [State.notice_fe]
    unfold State.startFade
    dsimp only
    rw [e, ← hs]
    have k : ((s.modifyFe p.channel fun ch =>
          ch.begin p.cue (s.startLevel p.channel p.priority) x p.fade p.curve).modifyFe p.channel
            fun ch => { ch with cueMute := p.mute.apply ch.cueMute }) =
        { s with
          fe.chan := s.fe.chan.set p.channel
            (if p.fade = 0 then
              ⟨x, if p.mute = .none then (s.fe.chan.get p.channel).cueMute else decide (p.mute = .mute), none⟩
            else
              ⟨s.startLevel p.channel p.priority,
                if p.mute = .none then (s.fe.chan.get p.channel).cueMute else decide (p.mute = .mute),
                some ⟨p.cue, s.startLevel p.channel p.priority, x, p.fade, 0, p.curve⟩⟩) } := by
      refine congrArg (fun t => ({ s with fe.chan := t } : State)) (Table.ext fun d => ?_)
      simp only [State.modifyFe, Table.get_modify, Table.get_set, hm, FadeChannel.begin]
      by_cases hd : p.channel = d
      · subst hd; simp only [if_true]; by_cases hf : p.fade = 0 <;> simp only [hf, if_true, if_false]
      · simp only [hd, if_false]
    rw [k]
    exact State.noticeTaken_notice ..

theorem State.stepsStart_foldl (s : State) (l : List PendingStep) : s.StepsStart l (l.foldl State.startStep s) := by
  induction l generalizing s with
  | nil => exact rfl
  | cons p l ih => exact ⟨_, s.stepStarts_startStep p, ih _⟩

/-! ## Handed steps, GO, follow delays of 0, GOTO -/

theorem placePending_split (p : PendingStep) (q : List PendingStep) :
    ∃ a b, q = a ++ b ∧ (∀ x ∈ a, p.before x = false) ∧ (∀ x ∈ b.head?, p.before x = true) ∧
      placePending p q = a ++ p :: b := by
  induction q with
  | nil => exact ⟨[], [], by simp [placePending]⟩
  | cons y q ih =>
    unfold placePending
    by_cases h : p.before y = true
    · exact ⟨[], y :: q, by simp [h]⟩
    · obtain ⟨a, b, e, ha, hb, hp⟩ := ih
      exact ⟨y :: a, b, by simp [e], by simpa [h] using ha, hb, by simp [h, hp]⟩

theorem State.stepIsTaken_takeStep (s : State) (p : PendingStep) : s.StepIsTaken p (s.takeStep p) := by
  unfold State.StepIsTaken State.takeStep
  simp only [ne_eq, decide_not]
  refine ⟨fun h => ?_, fun h => ?_⟩
  · rw [if_pos h]; exact State.stepStarts_startStep ..
  · rw [if_neg h]
    obtain ⟨a, b, e, ha, hb, hp⟩ := placePending_split p (s.fe.waiting.filter fun e => !decide (e.channel = p.channel))
    exact ⟨a, b, e, ha, hb, by rw [hp]⟩

theorem State.stepsAreTaken_foldl (s : State) (l : List PendingStep) : s.StepsAreTaken l (l.foldl State.takeStep s) := by
  induction l generalizing s with
  | nil => exact rfl
  | cons p l ih => exact ⟨_, s.stepIsTaken_takeStep p, ih _⟩

/-- The steps that a GO hands over, as one list. -/
theorem State.handSteps_eq (s : State) (n : Cue) :
    s.handSteps n =
      (((s.cs.stepsOf n).filter fun st =>
          decide (s.mode st.channel ≠ .safe ∨ (s.cs.bankOf n).kind = .priority)).map
        fun st => st.handed (decide ((s.cs.bankOf n).kind = .priority))).foldl State.takeStep s := by
  unfold State.handSteps
  have hk : ((s.cs.bankOf n).kind == .priority) = decide ((s.cs.bankOf n).kind = .priority) := by
    cases (s.cs.bankOf n).kind <;> rfl
  simp only [hk]
  generalize hb : decide ((s.cs.bankOf n).kind = .priority) = b
  have hb' : (s.cs.bankOf n).kind = .priority ↔ b = true := by rw [← hb]; simp
  simp only [hb']
  generalize s.cs.stepsOf n = l
  have key : ∀ (l : List CueStep) (t : State), t.mode = s.mode →
      l.foldl (fun t st => if t.mode st.channel = .safe ∧ (!b) = true then t else t.takeStep (st.handed b)) t =
        ((l.filter fun st => decide (s.mode st.channel ≠ .safe ∨ b = true)).map fun st => st.handed b).foldl
          State.takeStep t := by
    intro l
    induction l with
    | nil => intro t _; rfl
    | cons x l ih =>
      intro t ht
      have hx : (t.takeStep (x.handed b)).mode = s.mode := by
        rw [← ht]; funext d; simp only [State.mode]; rw [(t.levelsOnly_takeStep _).config]
      by_cases h : s.mode x.channel = .safe ∧ (!b) = true
      · rw [List.foldl_cons, ht, if_pos h, ih t ht, List.filter_cons_of_neg (by simp at h ⊢; exact h)]
      · rw [List.foldl_cons, ht, if_neg h, ih _ hx, List.filter_cons_of_pos (by simp at h ⊢; by_cases k : s.mode x.channel = .safe <;> simp_all)]
        rfl
  exact key l s rfl

theorem State.goIsTaken_takeGo (s : State) (hs : s.cs.Legal) (n : Cue) (cause : Cause) (isLocal : Bool) :
    s.GoIsTaken n cause isLocal (s.takeGo n cause isLocal) := by
  unfold State.GoIsTaken State.takeGo
  dsimp only
  rw [State.handSteps_eq]
  refine ⟨(s.cs.stepsOf n).filter fun st => decide (s.mode st.channel ≠ .safe ∨ (s.cs.bankOf n).kind = .priority), _, ?_, ?_,
    State.stepsAreTaken_foldl .., ?_⟩
  rotate_left 2
  · have e : ∀ b, ((s.cs.stepsOf n).filter fun st => decide (s.mode st.channel ≠ .safe ∨ (s.cs.bankOf n).kind = .priority)).map
          (fun st => st.handed b) =
        ((s.cs.stepsOf n).filter fun st => decide (s.mode st.channel ≠ .safe ∨ (s.cs.bankOf n).kind = .priority)).map
          fun st => (⟨st.channel, n, st.delay, st.level, st.fade, st.curve, st.mute, b⟩ : PendingStep) := by
      intro b
      refine List.map_congr_left fun st h => ?_
      have h := (List.mem_filter.mp (List.mem_filter.mp h).1).2
      simp only [decide_eq_true_eq] at h
      simp only [CueStep.handed, h]
    rw [← e]
    rfl
  · refine List.Pairwise.filter _ ?_
    have h := hs.stepOrder.filter fun st => decide (st.cue = n)
    refine h.imp_of_mem fun {a b} ha hb hab => ?_
    have ha := (List.mem_filter.mp ha).2
    have hb := (List.mem_filter.mp hb).2
    simp [CueStep.before] at ha hb hab
    rcases hab with hab | hab
    · rw [ha, hb] at hab; exact absurd hab (lt_irrefl _)
    · exact hab.2
  · intro st
    simp [CueStore.stepsOf, List.mem_filter, and_comm (a := ¬s.mode st.channel = Mode.safe ∨ _)]

theorem lowerCue_mem (l : List Cue) (b : Option Cue) (n : Cue) (h : l.foldl lowerCue b = some n) : n ∈ l ∨ b = some n := by
  induction l generalizing b with
  | nil => exact .inr h
  | cons x l ih =>
    rcases ih _ h with k | k
    · exact .inl (by simp [k])
    · cases b with
      | none => simp [lowerCue] at k; simp [k]
      | some m => simp only [lowerCue] at k; split at k <;> simp_all

theorem CueStore.next_mem {cs : CueStore} {c n : Cue} (h : cs.next c = some n) :
    (∃ r ∈ cs.headers, r.cue = n) ∧ c.val < n.val := by
  rcases lowerCue_mem _ _ _ h with k | k
  · simp only [List.mem_filter, List.mem_map, decide_eq_true_eq] at k; exact k
  · cases k

theorem State.refuseGo_eq (s : State) : s.refuseGo = s.withGoRefused := rfl

theorem State.takeGo_cs (s : State) (n : Cue) (cause : Cause) (b : Bool) : (s.takeGo n cause b).cs = s.cs := by
  unfold State.takeGo
  dsimp only
  rw [State.handSteps_eq]
  split
  · rw [State.enqueue_cs, (State.levelsOnly_foldl _ State.levelsOnly_takeStep _ _).cs]
  · rw [(State.levelsOnly_foldl _ State.levelsOnly_takeStep _ _).cs]

theorem State.takeGo_currentCue (s : State) (n : Cue) (cause : Cause) (b : Bool) :
    (s.takeGo n cause b).seq.currentCue = n := by
  unfold State.takeGo
  dsimp only
  rw [State.handSteps_eq]
  split
  · rw [State.enqueue_seq, (State.levelsOnly_foldl _ State.levelsOnly_takeStep _ _).seq]
  · rw [(State.levelsOnly_foldl _ State.levelsOnly_takeStep _ _).seq]

/-- A count falls where the condition narrows and one counted entry drops out. -/
theorem countP_lt {α : Type} {p q : α → Bool} (l : List α) {a : α} (ha : a ∈ l) (h : ∀ x, p x = true → q x = true)
    (hq : q a = true) (hp : p a = false) : l.countP p < l.countP q := by
  induction l with
  | nil => cases ha
  | cons x l ih =>
    have hle : l.countP p ≤ l.countP q := List.countP_mono_left fun x _ => h x
    rcases List.mem_cons.mp ha with e | k
    · subst e; rw [List.countP_cons, List.countP_cons, hq, hp]; simp; omega
    · have := ih k
      rw [List.countP_cons, List.countP_cons]
      by_cases hx : p x = true
      · rw [if_pos hx, if_pos (h x hx)]; omega
      · rw [if_neg hx]; omega

theorem State.followsOn_followChain (fuel : Nat) (s : State) (hs : s.cs.Legal)
    (hf : (s.cs.headers.countP fun h => decide (s.seq.currentCue.val < h.cue.val)) < fuel) :
    s.FollowsOn (s.followChain fuel) := by
  induction fuel generalizing s with
  | zero => exact absurd hf (Nat.not_lt_zero _)
  | succ k ih =>
    have rest : ∀ t : State, t.seq.follow = none → State.followChain k t = t := by
      intro t ht
      cases k with
      | zero => rfl
      | succ k => simp [State.followChain, ht]
    unfold State.followChain
    split
    · rename_i h
      unfold State.expireFollow
      dsimp only
      split
      · rename_i e
        rw [rest _ rfl]
        exact .ends s h e
      · rename_i n e
        have b : ((s.cs.bankOf n).allowsLocal = true) ↔
            (s.cs.bankOf n).localGo = true ∧ (s.cs.bankOf n).kind ≠ .parked := by simp [Bank.allowsLocal]
        split
        · rename_i a
          refine .takes s _ _ n h e (b.mp a).1 (b.mp a).2 (State.goIsTaken_takeGo _ hs ..) (ih _ ?_ ?_)
          · rw [State.takeGo_cs]; exact hs
          · rw [State.takeGo_cs, State.takeGo_currentCue]
            obtain ⟨⟨r, hr, rfl⟩, hn⟩ := CueStore.next_mem e
            refine Nat.lt_of_lt_of_le ?_ (Nat.lt_succ_iff.mp hf)
            exact countP_lt s.cs.headers hr (fun h k => by simp at k ⊢; omega) (by simpa using hn) (by simp)
        · rename_i a
          rw [State.refuseGo_eq, rest _ rfl]
          refine .refused s n h e ?_
          by_contra x
          exact a (b.mpr (by simpa using x))
    · rename_i h
      exact .rests s h

theorem State.followsOn_runFollow (s : State) (hs : s.cs.Legal) : s.FollowsOn s.runFollow :=
  State.followsOn_followChain _ s hs (Nat.lt_of_le_of_lt List.countP_le_length (by omega))

theorem State.gotoChannel_eq (s : State) (n : Cue) (fade : Nat) (c : Channel) :
    State.gotoChannel n fade c s =
      { s with
        fe.chan := s.fe.chan.set c
          (let tk := s.tk.chan.get c
          let x := s.cs.trackedLevel c n
          let start := if tk.state = .latched then tk.manual else (s.fe.chan.get c).cueLevel
          if s.mode c = .safe then s.fe.chan.get c
          else if fade = 0 then ⟨x, s.cs.trackedMute c n, none⟩
          else ⟨start, s.cs.trackedMute c n, some ⟨n, start, x, fade, 0, .linear⟩⟩)
        tk.chan := s.tk.chan.set c
          (let tk := s.tk.chan.get c
          if s.mode c ≠ .safe ∧ tk.state = .latched then { tk with state := .cue } else tk) } := by
  unfold State.gotoChannel
  dsimp only
  by_cases h : s.mode c = .safe
  · simp only [h, if_true, ne_eq, not_true_eq_false, false_and, if_false]
    have a : s.fe.chan.set c (s.fe.chan.get c) = s.fe.chan := Table.ext fun d => by rw [Table.get_set]; split <;> simp_all
    have b : s.tk.chan.set c (s.tk.chan.get c) = s.tk.chan := Table.ext fun d => by rw [Table.get_set]; split <;> simp_all
    rw [a, b]
  · have hs : s.startLevel c false =
        if (s.tk.chan.get c).state = .latched then (s.tk.chan.get c).manual else (s.fe.chan.get c).cueLevel := by
      unfold State.startLevel State.sourceLevel
      cases hc : (s.tk.chan.get c).state <;> simp [hc]
    rw [if_neg h]
    unfold State.startFade State.notice
    simp only [hs, h, State.modifyFe, State.modifyTk, Bool.false_eq_true, if_false, ne_eq, not_false_eq_true, true_and]
    refine congrArg₂ (fun a b => ({ s with fe.chan := a, tk.chan := b } : State)) (Table.ext fun d => ?_) ?_
    · simp only [Table.get_modify, Table.get_set, FadeChannel.begin]
      by_cases hd : c = d
      · subst hd; by_cases hf : fade = 0 <;> simp [hf]
      · simp [hd]
    · simp only [Table.modify, TakeoverChannel.clearNotice]

theorem State.gotoChannels_eq (n : Cue) (fade : Nat) (l : List Channel) (hl : l.Nodup) (s : State) :
    l.foldl (fun t c => State.gotoChannel n fade c t) s =
      { s with
        fe.chan := Table.ofFn fun c =>
          let tk := s.tk.chan.get c
          let x := s.cs.trackedLevel c n
          let start := if tk.state = .latched then tk.manual else (s.fe.chan.get c).cueLevel
          if s.mode c = .safe ∨ c ∉ l then s.fe.chan.get c
          else if fade = 0 then ⟨x, s.cs.trackedMute c n, none⟩
          else ⟨start, s.cs.trackedMute c n, some ⟨n, start, x, fade, 0, .linear⟩⟩
        tk.chan := Table.ofFn fun c =>
          let tk := s.tk.chan.get c
          if s.mode c ≠ .safe ∧ tk.state = .latched ∧ c ∈ l then { tk with state := .cue } else tk } := by
  induction l generalizing s with
  | nil => simp
  | cons c l ih =>
    obtain ⟨hc, hl⟩ := List.nodup_cons.mp hl
    rw [List.foldl_cons, ih hl, State.gotoChannel_eq]
    refine congrArg₂ (fun a b => ({ s with fe.chan := a, tk.chan := b } : State)) (Table.ext fun d => ?_)
      (Table.ext fun d => ?_)
    · simp only [Table.get_ofFn, Table.get_set, State.mode, State.config, List.mem_cons]
      by_cases hd : c = d
      · subst hd; by_cases hm : (s.sl.config.chan.get c).mode = .safe <;> simp [hc, hm]
      · simp [hd, Ne.symm hd]
    · simp only [Table.get_ofFn, Table.get_set, State.mode, State.config, List.mem_cons]
      by_cases hd : c = d
      · subst hd; by_cases hm : (s.sl.config.chan.get c).mode = .safe <;> simp [hc, hm]
      · simp [hd, Ne.symm hd]

theorem State.gotoIsTaken_takeGoto (s : State) (n : Cue) (fade : Nat) : s.GotoIsTaken n fade (s.takeGoto n fade) := by
  unfold State.GotoIsTaken State.takeGoto State.gotoRequest forEach
  rw [State.gotoChannels_eq n fade _ (List.nodup_finRange 24)]
  simp only [List.mem_finRange, not_true_eq_false, or_false, and_true]
  rfl

/-! ## Readings -/

/-- Queueing a message reads and leaves nothing of PI. -/
theorem State.enqueue_pi_update (s : State) (pi : Panel) (m : Msg) :
    ({ s with pi := pi } : State).enqueue m = { s.enqueue m with pi := pi } := by
  unfold State.enqueue
  split
  · rfl
  · by_cases h : s.busOff
    · rw [if_pos (show State.busOff { s with pi := pi } = true from h), if_pos h]; rfl
    · rw [if_neg (show ¬State.busOff { s with pi := pi } = true from h), if_neg h]
      dsimp only
      split <;> rfl

/-- A touch begin reads and leaves nothing of PI but the fader levels. -/
theorem State.touchBegin_pi_update (s : State) (pi : Panel) (hp : pi.slot = s.pi.slot) (c : Channel) :
    ({ s with pi := pi } : State).touchBegin c = { s.touchBegin c with pi := pi } := by
  have hf : State.faderLevel { s with pi := pi } c = s.faderLevel c := by simp [State.faderLevel, hp]
  cases h : s.linkOf c with
  | none =>
    rw [(State.touchBegins_touchBegin { s with pi := pi } c).1 h, (State.touchBegins_touchBegin s c).1 h, hf]
    rfl
  | some l =>
    rw [(State.touchBegins_touchBegin { s with pi := pi } c).2 l h, (State.touchBegins_touchBegin s c).2 l h, hf]
    dsimp only
    rw [State.enqueue_pi_update]
    rfl

/-- A touch begin leaves PI. -/
theorem State.touchBegin_pi (s : State) (c : Channel) : (s.touchBegin c).pi = s.pi :=
  (s.levelsOnly_touchBegin c).pi

/-- A recovery glide that starts, of a duration other than 0, is at its start level. -/
theorem Glide.level_start (a t : Level) (d : Nat) (h : d ≠ 0) : Glide.level ⟨a, 0, d⟩ t = a := by
  simp [Glide.level, interpolate, progress, h]

/-- A handed action touches the channel's record in GC and the action FI holds, and nothing else. -/
theorem State.handAction_eq (s : State) (c : Channel) :
    State.handAction c s =
      { s with gc.chan := (State.handAction c s).gc.chan, fi.effective := (State.handAction c s).fi.effective } := by
  unfold State.handAction
  split <;> rfl

@[simp] theorem State.handAction_pi (s : State) (c : Channel) : (State.handAction c s).pi = s.pi := by
  rw [State.handAction_eq]

@[simp] theorem State.handAction_sl (s : State) (c : Channel) : (State.handAction c s).sl = s.sl := by
  rw [State.handAction_eq]

@[simp] theorem State.handAction_config (s : State) (c : Channel) : (State.handAction c s).config = s.config := by
  simp [State.config]

/-- Handing an action reads and leaves nothing of PI but the fader state of the channel's slot. -/
theorem State.handAction_pi_update (s : State) (pi : Panel) (c : Channel)
    (h : (pi.slot.get (channelSlot c)).faulted = (s.pi.slot.get (channelSlot c)).faulted) :
    State.handAction c { s with pi := pi } = { State.handAction c s with pi := pi } := by
  have e : State.effectiveAction { s with pi := pi } c = s.effectiveAction c := by
    unfold State.effectiveAction
    refine congrArg (fun k => s.config.effective k s.busOff) ?_
    exact congrArg (fun b => (⟨b, s.groupStale c, (s.gp.chan.get c).mismatch⟩ : ChannelConditions)) h
  unfold State.handAction
  rw [e]
  dsimp only
  split <;> rfl

theorem State.actionIsHanded_handAction (s : State) (c : Channel) : s.ActionIsHanded c (State.handAction c s) := by
  unfold State.ActionIsHanded State.handAction State.effectiveAction
  dsimp only
  refine ⟨fun h => if_pos h, fun h => ?_⟩
  rw [if_neg h]
  refine congrArg (fun t => ({ s with gc.chan := t, fi.effective := _ } : State)) ?_
  refine congrArg (s.gc.chan.set c) ?_
  cases s.config.effective (s.channelConditions c) s.busOff with
  | hold => rfl
  | duck => rfl
  | mute => rfl
  | none =>
    by_cases hr : s.config.recoveryTime = 0
    · simp [ComposerChannel.hand, ComposerChannel.form, ComposerChannel.level, hr]
    · simp [ComposerChannel.hand, ComposerChannel.form, ComposerChannel.level, hr, Glide.level_start]

/-- A counted reading: the slot's new record, and what it does to the touch of a channel's fader. -/
theorem State.countReading_eq (s : State) (k : FaderSlot) (rail : Bool) :
    let y := (s.pi.slot.get k).count rail s.config.faultCount
    let u : State := { s with pi.slot := s.pi.slot.set k y }
    s.countReading k rail =
      match slotChannel k with
      | none => u
      | some c =>
        if !(s.pi.slot.get k).faulted && y.faulted then u.endTouch c
        else if (s.pi.slot.get k).faulted && !y.faulted then
          State.handAction c { u with pi.touch := u.pi.touch.set c { u.pi.touch.get c with rearm := true } }
        else u := by
  intro y u
  unfold State.countReading State.modifySlot
  dsimp only
  rw [Table.get_modify_self]
  rfl

/-- A counted reading that leaves the fader's state as it was. -/
theorem State.countReading_steady (s : State) (k : FaderSlot) (rail : Bool)
    (h : ((s.pi.slot.get k).count rail s.config.faultCount).faulted = (s.pi.slot.get k).faulted) :
    s.countReading k rail =
      { s with pi.slot := s.pi.slot.set k ((s.pi.slot.get k).count rail s.config.faultCount) } := by
  rw [State.countReading_eq]
  dsimp only
  rw [h]
  split
  · rfl
  · rw [if_neg (by cases (s.pi.slot.get k).faulted <;> simp), if_neg (by cases (s.pi.slot.get k).faulted <;> simp)]

/-- The end of a touch leaves the fader slots. -/
theorem State.endTouch_slot (s : State) (c : Channel) : (State.endTouch c s).pi.slot = s.pi.slot := by
  unfold State.endTouch
  split
  · rw [(State.levelsOnly_touchEnd _ _).pi]; rfl
  · rfl

/-- After a counted reading: the slot is the counted one, and what the panel accepts and the configuration are as they were. -/
theorem State.countReading_keeps (s : State) (k : FaderSlot) (rail : Bool) :
    ((s.countReading k rail).pi.slot.get k) = (s.pi.slot.get k).count rail s.config.faultCount ∧
      (s.countReading k rail).acceptsInput = s.acceptsInput ∧ (s.countReading k rail).config = s.config := by
  rw [State.countReading_eq]
  have e : ∀ (u : State) c, (State.endTouch c u).acceptsInput = u.acceptsInput ∧ (State.endTouch c u).config = u.config := by
    intro u c
    unfold State.endTouch
    split
    · have h := State.levelsOnly_touchEnd (u.modifyTouch c fun t => { t with touched := false, quiet := .stopped }) c
      refine ⟨?_, h.config⟩
      unfold State.acceptsInput
      rw [h.state, h.pi]; rfl
    · exact ⟨rfl, rfl⟩
  dsimp only
  split
  · exact ⟨Table.get_set_self _ _ _, rfl, rfl⟩
  · split
    · rw [State.endTouch_slot, (e _ _).1, (e _ _).2]; exact ⟨Table.get_set_self _ _ _, rfl, rfl⟩
    · split
      · rw [State.handAction_eq]; exact ⟨Table.get_set_self _ _ _, rfl, rfl⟩
      · exact ⟨Table.get_set_self _ _ _, rfl, rfl⟩

/-- A fader reading: counted, and accepted where it is a travel reading of a NORMAL slot, on a panel that accepts input, away from
the accepted one by more than the deadband. -/
theorem State.readFader_eq (s : State) (k : FaderSlot) (raw : Nat) :
    let c := calibrate raw s.pi.calOffset
    let x := s.pi.slot.get k
    s.readFader k raw =
      if isRail c = false ∧ (x.count (isRail c) s.config.faultCount).faulted = false ∧ s.sl.state = .running ∧
          s.pi.locked = false ∧ ∀ a, x.accepted = some a → s.config.deadband < ((c : Int) - (a : Int)).natAbs then
        (s.countReading k (isRail c)).acceptReading k c
      else s.countReading k (isRail c) := by
  intro c x
  obtain ⟨h1, h2, h3⟩ := s.countReading_keeps k (isRail c)
  unfold State.readFader
  dsimp only
  rw [h1, h2]
  change (if (!isRail c && !(x.count (isRail c) s.config.faultCount).faulted && s.acceptsInput && (x.count (isRail c) s.config.faultCount).accepts c s.config.deadband) = true then _ else _) = _
  have ha : (x.count (isRail c) s.config.faultCount).accepted = x.accepted := by
    unfold SlotState.count; split
    · rfl
    · split <;> rfl
  congr 1
  rw [eq_iff_iff]
  simp only [State.acceptsInput, SlotState.accepts, ha, Bool.and_eq_true, Bool.not_eq_true', beq_iff_eq]
  cases x.accepted <;> simp [and_assoc]

/-- An accepted reading of a channel's fader. -/
theorem State.acceptReading_channel (s : State) (c : Channel) (n : Nat) :
    let x := s.pi.slot.get (channelSlot c)
    let level := lawLevel s.config.law n
    let u : State :=
      { s with
        pi.slot := s.pi.slot.set (channelSlot c) { x with accepted := some n, level := level, catchUp := false } }
    s.acceptReading (channelSlot c) n = (if x.level != level then u.faderChange c else u).motionTouch c x.catchUp := by
  have hk : slotChannel (channelSlot c) = some c := by unfold slotChannel channelSlot; rw [dif_pos c.isLt]
  have hm : slotMaster (channelSlot c) = none := by unfold slotMaster channelSlot; rw [dif_neg (by simp)]
  unfold State.acceptReading State.handReading
  dsimp only
  rw [hm, hk]
  rfl

/-- What an accepted reading does to the touch of a channel's fader (R91): nothing on a LINE channel or while the slot is caught up;
the quiet timer of a touched channel starts afresh; otherwise a touch begins with the timer running. -/
theorem State.motionTouch_spec (s : State) (c : Channel) (catchUp : Bool) :
    let t0 := s.pi.touch.get c
    let quiet : Timer := .running (s.config.quietTime * 10)
    if s.source c = .line ∨ (t0.touched = false ∧ catchUp = true) then s.motionTouch c catchUp = s
    else if t0.touched then
      s.motionTouch c catchUp = { s with pi.touch := s.pi.touch.set c { t0 with quiet := quiet } }
    else
      State.TouchBegins { s with pi.touch := s.pi.touch.set c { t0 with touched := true, quiet := quiet } } c
        (s.motionTouch c catchUp) := by
  intro t0 quiet
  unfold State.motionTouch
  cases hs : s.source c with
  | line => simp
  | motion =>
    simp only [if_true, reduceCtorEq, false_or]
    cases ht : t0.touched with
    | true =>
      have ht' : (s.pi.touch.get c).touched = true := ht
      simp only [ht', Bool.not_true, Bool.false_and, Bool.false_eq_true, if_false, if_true, reduceCtorEq, false_and]
      rw [← ht']
      rfl
    | false =>
      have ht' : (s.pi.touch.get c).touched = false := ht
      cases catchUp with
      | true => simp [ht']
      | false =>
        simp only [Bool.not_false, Bool.and_self, if_true, Bool.false_eq_true, and_false, if_false]
        have z : (s.beginTouch c).pi.touch = s.pi.touch.modify c fun t => { t with touched := true } := by
          unfold State.beginTouch; rw [State.touchBegin_pi]; rfl
        have z2 : (s.beginTouch c).config = s.config := by
          unfold State.beginTouch; exact (State.levelsOnly_touchBegin _ _).config
        rw [z, Table.get_modify_self, z2, if_pos rfl]
        have key := State.touchBegin_pi_update (s.modifyTouch c fun t => { t with touched := true })
          { s.pi with touch := s.pi.touch.set c { t0 with touched := true, quiet := quiet } } rfl c
        have tb := State.touchBegins_touchBegin
          { s with pi.touch := s.pi.touch.set c { t0 with touched := true, quiet := quiet } } c
        have e1 : State.touchBegin { s with pi.touch := s.pi.touch.set c { t0 with touched := true, quiet := quiet } } c =
            (s.beginTouch c).modifyTouch c fun t => { t with quiet := quiet } := by
          refine Eq.trans key ?_
          unfold State.modifyTouch
          rw [z]
          refine congrArg (fun t => ({ s.beginTouch c with pi := t } : State)) ?_
          have zp : (s.beginTouch c).pi = { s.pi with touch := s.pi.touch.modify c fun t => { t with touched := true } } := by
            unfold State.beginTouch; rw [State.touchBegin_pi]; rfl
          rw [zp]
          refine congrArg (fun t => ({ s.pi with touch := t } : Panel)) (Table.ext fun d => ?_)
          simp only [Table.get_modify, Table.get_set]
          split
          · rename_i h; subst h; rfl
          · rfl
        rw [e1] at tb
        exact tb

/-! ## Master fader slots -/

/-- Queueing a message reads and leaves nothing of SG. -/
theorem State.enqueue_sg_update (s : State) (sg : SharedGroups) (m : Msg) :
    ({ s with sg := sg } : State).enqueue m = { s.enqueue m with sg := sg } := by
  unfold State.enqueue
  split
  · rfl
  · by_cases h : s.busOff
    · rw [if_pos (show State.busOff { s with sg := sg } = true from h), if_pos h]; rfl
    · rw [if_neg (show ¬State.busOff { s with sg := sg } = true from h), if_neg h]
      dsimp only
      split <;> rfl

/-- The level of a master fader slot as some of the masters take it, one after another. -/
theorem State.slotLevels_eq (k : Fin 4) (first : Bool) (l : List MasterNo) (hl : l.Nodup) (s : State) :
    let level := (s.pi.slot.get (masterSlot k)).level
    let bound : MasterNo → Bool := fun m => decide (s.config.master.get m = ⟨some s.sl.station, some k⟩)
    l.foldl (fun t m => State.takeSlotLevel k first m t) s =
      (l.filter fun m =>
          let r := s.sg.master.get m
          bound m && (first || (r.fresh && decide (r.level ≠ level)))).foldl
        (fun (t : State) m => t.enqueue (.groupLevel m level))
        { s with
          sg.master := Table.ofFn fun m =>
            let r := s.sg.master.get m
            if bound m && decide (m ∈ l) then { r with level := level, fresh := r.fresh || first } else r } := by
  induction l generalizing s with
  | nil =>
    simp only [List.foldl_nil, List.filter_nil, List.not_mem_nil, decide_false, Bool.and_false, Bool.false_eq_true, if_false]
    have : Table.ofFn (fun m => s.sg.master.get m) = s.sg.master := Table.ext fun d => by simp
    rw [this]
  | cons m l ih =>
    obtain ⟨hm, hl⟩ := List.nodup_cons.mp hl
    intro level bound
    have hb : (s.ownedHere m && ((s.config.master.get m).slot == some k)) = bound m := by
      show _ = decide _
      rw [Bool.eq_iff_iff]
      cases h : s.config.master.get m
      simp [State.ownedHere, h]
    rw [List.foldl_cons]
    -- the first master
    let r := s.sg.master.get m
    let u : State := { s with sg.master := s.sg.master.set m { r with level := level, fresh := r.fresh || first } }
    have e : State.takeSlotLevel k first m s =
        if bound m then
          if first || (r.fresh && decide (r.level ≠ level)) then u.enqueue (.groupLevel m level) else u
        else s := by
      unfold State.takeSlotLevel
      rw [hb]
      by_cases b : bound m = true
      · rw [if_pos b, if_pos b]
        have ho : u.ownedHere m = true := by
          rw [← hb, Bool.and_eq_true] at b; exact b.1
        have hg : u.sg.master.get m = { r with level := level, fresh := r.fresh || first } := Table.get_set_self _ _ _
        show (if first || (r.level != level) then u.queueLevel m else u) = _
        unfold State.queueLevel
        rw [ho, hg]
        cases first <;> cases hf : r.fresh <;> simp
      · rw [if_neg b, if_neg b]
    have rest : ∀ v : State, v.pi = s.pi → v.config = s.config → v.sl.station = s.sl.station →
        (∀ d, d ∈ l → v.sg.master.get d = s.sg.master.get d) →
        l.foldl (fun t m => State.takeSlotLevel k first m t) v =
          (l.filter fun m => bound m && (first || ((s.sg.master.get m).fresh && decide ((s.sg.master.get m).level ≠ level)))).foldl
            (fun (t : State) m => t.enqueue (.groupLevel m level))
            { v with
              sg.master := Table.ofFn fun d =>
                if bound d && decide (d ∈ l) then
                  { v.sg.master.get d with level := level, fresh := (v.sg.master.get d).fresh || first }
                else v.sg.master.get d } := by
      intro v h1 h2 h3 h4
      have := ih hl v
      dsimp only at this
      rw [h1, h2, h3] at this
      rw [this, h1]
      have fc : l.filter (fun m => bound m &&
            (first || ((v.sg.master.get m).fresh && decide ((v.sg.master.get m).level ≠ level)))) =
          l.filter (fun m => bound m &&
            (first || ((s.sg.master.get m).fresh && decide ((s.sg.master.get m).level ≠ level)))) :=
        List.filter_congr fun d hd => by rw [h4 d hd]
      exact congrArg (List.foldl (fun (t : State) m => t.enqueue (.groupLevel m level)) _) fc
    have tab : ∀ x : MasterRecord, (Table.ofFn fun d =>
          let r := (s.sg.master.set m x).get d
          if bound d && decide (d ∈ l) then { r with level := level, fresh := r.fresh || first } else r) =
        Table.ofFn fun d =>
          let r := s.sg.master.get d
          if d = m then x else if bound d && decide (d ∈ m :: l) then { r with level := level, fresh := r.fresh || first } else r :=
      fun x => Table.ext fun d => by
        simp only [Table.get_ofFn, Table.get_set, List.mem_cons]
        by_cases hd : m = d
        · subst hd; simp [hm]
        · simp [hd, Ne.symm hd]
    have cong : ∀ (v : State) (x y : Table 8 MasterRecord) (ms : List MasterNo), x = y →
        ms.foldl (fun (t : State) m => t.enqueue (.groupLevel m level)) { v with sg.master := x } =
          ms.foldl (fun (t : State) m => t.enqueue (.groupLevel m level)) { v with sg.master := y } := by
      rintro v x _ ms rfl; rfl
    have hlm : ∀ d ∈ l, m ≠ d := fun d hd e => hm (e ▸ hd)
    rw [e]
    by_cases b : bound m = true
    · have tab' := tab { r with level := level, fresh := r.fresh || first }
      have fin : (Table.ofFn fun d =>
          let r := s.sg.master.get d
          if d = m then { s.sg.master.get m with level := level, fresh := (s.sg.master.get m).fresh || first } else
            if bound d && decide (d ∈ m :: l) then { r with level := level, fresh := r.fresh || first } else r) =
          Table.ofFn fun d =>
            let r := s.sg.master.get d
            if bound d && decide (d ∈ m :: l) then { r with level := level, fresh := r.fresh || first } else r :=
        Table.ext fun d => by
          simp only [Table.get_ofFn]
          by_cases hd : d = m
          · subst hd; simp [b]
          · simp [hd]
      have tabs := tab'.trans fin
      rw [if_pos b]
      by_cases a : (first || (r.fresh && decide (r.level ≠ level))) = true
      · let x : Msg := .groupLevel m level
        have q : (u.enqueue x).sg = u.sg := State.enqueue_sg u x
        rw [if_pos a, List.filter_cons_of_pos (by rw [b, Bool.true_and]; exact a), List.foldl_cons,
          rest (u.enqueue x) (State.enqueue_pi u x) (State.enqueue_sl_config u x) (State.enqueue_sl_station u x)
            (fun d hd => by rw [q]; simp [u, Table.get_set, hlm d hd]), q,
          show u.enqueue x = { s.enqueue x with sg := u.sg } from State.enqueue_sg_update s u.sg x]
        refine Eq.trans ?_ (congrArg (List.foldl (fun (t : State) m => t.enqueue (.groupLevel m level)) · _)
          (State.enqueue_sg_update s _ x).symm)
        have sgs : ∀ (y z : SharedGroups), y = z → ∀ (v : State) (ms : List MasterNo),
            ms.foldl (fun (t : State) m => t.enqueue (.groupLevel m level)) { v with sg := y } =
              ms.foldl (fun (t : State) m => t.enqueue (.groupLevel m level)) { v with sg := z } := by
          rintro y _ rfl v ms; rfl
        exact sgs _ _ (congrArg (fun t => ({ s.sg with master := t } : SharedGroups)) tabs) (s.enqueue x) _
      · rw [if_neg a, List.filter_cons_of_neg (by rw [b, Bool.true_and]; exact a), rest u rfl rfl rfl
          (fun d hd => by simp [u, Table.get_set, hlm d hd])]
        exact cong s _ _ _ tabs
    · rw [if_neg b, List.filter_cons_of_neg (by simp [b]), rest s rfl rfl rfl (fun _ _ => rfl)]
      refine cong s _ _ _ (Table.ext fun d => ?_)
      simp only [Table.get_ofFn, List.mem_cons]
      by_cases hd : d = m
      · subst hd; simp [b]
      · simp [hd]

/-- The level of a master fader slot reaches every master bound to it, and each FRESH one whose level it changes or sets first is
announced, in ascending master number (R92, R125, R126; log 23). -/
theorem State.slotLevel_eq (s : State) (k : Fin 4) (first : Bool) :
    let level := (s.pi.slot.get (masterSlot k)).level
    let bound : MasterNo → Bool := fun m => decide (s.config.master.get m = ⟨some s.sl.station, some k⟩)
    s.slotLevel k first =
      ((List.finRange 8).filter fun m =>
          let r := s.sg.master.get m
          bound m && (first || (r.fresh && decide (r.level ≠ level)))).foldl
        (fun (t : State) m => t.enqueue (.groupLevel m level))
        { s with
          sg.master := Table.ofFn fun m =>
            let r := s.sg.master.get m
            if bound m then { r with level := level, fresh := r.fresh || first } else r } := by
  have h := State.slotLevels_eq k first (List.finRange 8) (List.nodup_finRange 8) s
  simp only [List.mem_finRange, decide_true, Bool.and_true] at h
  exact h

/-- An accepted reading of a master fader slot. -/
theorem State.acceptReading_master (s : State) (k : Fin 4) (n : Nat) :
    let x := s.pi.slot.get (masterSlot k)
    let level := lawLevel s.config.law n
    let u : State :=
      { s with
        pi.slot := s.pi.slot.set (masterSlot k) { x with accepted := some n, level := level, catchUp := false } }
    s.acceptReading (masterSlot k) n =
      if x.accepted.isNone || (x.level != level) then u.slotLevel k x.accepted.isNone else u := by
  have hm : slotMaster (masterSlot k) = some k := by
    unfold slotMaster masterSlot; revert k; decide
  unfold State.acceptReading State.handReading
  dsimp only
  rw [hm]
  rfl

end Sys2Proof.Machine
end

