-- ==== Sys2Proof/Laws/Ops.lean ====
section
/-! SUPPORT. What the answering and receiving operations do, case by case; and that the end of an event leaves what it reads: the
source and composed levels, the conditions and the effective actions. -/

namespace Sys2Proof.Machine

/-! ## Answering and receiving -/

theorem State.take_eq (s : State) (work : State → State) : s.take work = .next ((work s).commit s) := rfl

theorem State.takeWhen_enabled {s : State} {enabled : Bool} (h : enabled = true) (work : State → State) :
    s.takeWhen enabled work = .next ((work s).commit s) := by simp only [State.takeWhen, h, if_true, State.take]

theorem State.takeWhen_idle {s : State} {enabled : Bool} (h : enabled = false) (work : State → State) :
    s.takeWhen enabled work = .next s := by simp [State.takeWhen, h]

theorem State.receive_from {s : State} {p : Station} (h : p ≠ 0) (body : State → State) :
    s.receive p body = body (s.heard p) := by simp [State.receive, h]

theorem State.receive_zero (s : State) (body : State → State) :
    s.receive 0 body = (if s.sl.station = 0 then s.countReceived.beginClash else s.countReceived).countIgnored := by
  simp [State.receive]

theorem State.addressed_heard (s : State) (p target : Station) : (s.heard p).addressed target = s.addressed target := by
  simp [State.addressed]

theorem State.receiveAddressed_taken {s : State} {p target : Station} (h : p ≠ 0) (ht : s.addressed target = true)
    (body : State → State) : s.receiveAddressed p target body = body (s.heard p) := by
  simp [State.receiveAddressed, State.receive_from h, State.addressed_heard, ht]

theorem State.receiveAddressed_elsewhere {s : State} {p target : Station} (h : p ≠ 0) (ht : s.addressed target = false)
    (body : State → State) : s.receiveAddressed p target body = s.heard p := by
  simp [State.receiveAddressed, State.receive_from h, State.addressed_heard, ht]

/-! ## What the end of an event reads -/

section
variable (s before : State)

theorem State.commit_config : (s.commit before).config = s.config := by simp [State.config]

theorem State.commit_busOff : (s.commit before).busOff = s.busOff := by simp [State.busOff]

theorem State.commit_sourceLevel (c : Channel) : (s.commit before).sourceLevel c = s.sourceLevel c := by
  simp [State.sourceLevel, State.faderLevel]

theorem State.commit_masterLevels (c : Channel) : (s.commit before).masterLevels c = s.masterLevels c := by
  simp [State.masterLevels, State.inMaster, State.config]

theorem State.commit_isMuted (c : Channel) : (s.commit before).isMuted c = s.isMuted c := by
  simp [State.isMuted, State.groupMuted, State.inGroup, State.muting, State.config]

theorem State.commit_composedLevel (c : Channel) : (s.commit before).composedLevel c = s.composedLevel c := by
  simp only [State.composedLevel, State.commit_isMuted, State.commit_config, State.commit_sourceLevel,
    State.commit_masterLevels]

theorem State.commit_groupStale (c : Channel) : (s.commit before).groupStale c = s.groupStale c := by
  simp [State.groupStale, State.inMaster, State.config]

theorem State.commit_channelConditions (c : Channel) : (s.commit before).channelConditions c = s.channelConditions c := by
  simp [State.channelConditions, State.commit_groupStale]

theorem State.commit_condition (f : Flag) : (s.commit before).condition f = s.condition f := by
  cases f <;> simp [State.condition, State.commit_busOff, State.commit_groupStale]

theorem State.commit_effectiveAction (c : Channel) : (s.commit before).effectiveAction c = s.effectiveAction c := by
  simp only [State.effectiveAction, State.commit_config, State.commit_channelConditions, State.commit_busOff]

end

/-! ## The transmit queue -/

theorem placeEntry_mem (e x : TxEntry) (q : List TxEntry) : x ∈ placeEntry e q ↔ x = e ∨ x ∈ q := by
  induction q with
  | nil => simp [placeEntry]
  | cons y q ih =>
    unfold placeEntry
    split
    · simp
    · simp [ih, or_left_comm]

theorem placeEntry_length (e : TxEntry) (q : List TxEntry) : (placeEntry e q).length = q.length + 1 := by
  induction q with
  | nil => rfl
  | cons y q ih =>
    unfold placeEntry
    split
    · rfl
    · simp [ih]

/-- A message joins a queue whose entries are all of its kind or a lower one at the end. -/
theorem placeEntry_last (e : TxEntry) (q : List TxEntry) (h : ∀ x ∈ q, x.msg.kind ≤ e.msg.kind) :
    placeEntry e q = q ++ [e] := by
  induction q with
  | nil => rfl
  | cons y q ih =>
    have hy := h y (by simp)
    simp [placeEntry, Nat.not_lt.mpr hy, ih fun x hx => h x (by simp [hx])]

end Sys2Proof.Machine
end

