-- ==== Sys2Proof/Tests/Slice0.lean ====
section
/-! SUPPORT. Tests of this package: the checks of `wellFormed`, frames written out from the layouts of §8.9, the manual's worked
cases, one event at a time on small states, and for every statement with hypotheses a state and operands that meet them. -/

set_option Elab.async false

namespace Sys2Proof.Tests

open Sys2Proof.Machine

/-! ## Well-formed commands -/

theorem test_wellFormed_message : (Instr.hold 3).wellFormed = true := by decide
theorem test_illFormed_sender_zero : (Instr.hold 0).wellFormed = false := by decide
theorem test_illFormed_link_sender_zero : (Instr.malformedLink 0 4).wellFormed = false := by decide
theorem test_illFormed_ignored_sender_zero : (Instr.ignoredFrame (.unknownKind 0)).wellFormed = false := by decide
theorem test_illFormed_peer_zero : (Instr.silenceTimerExpiry 0).wellFormed = false := by decide
theorem test_wellFormed_peer : (Instr.silenceTimerExpiry 31).wellFormed = true := by decide

/-! ## Frames, written out from §8.2 and §8.9 -/

/-- GO of cue 261 by FOLLOW from station 5: identifier 1 × 32 + 5; cue 000100000101, cause 1, three bits unused. -/
theorem test_decode_go : decodeFrame ⟨.data, 0x025, [0x10, 0x58]⟩ = some (.go 5 261 .follow) := by decide +kernel

/-- GOTO of cue 2, fade 300, reason BACK from station 31: cue 000000000010, fade 0000000100101100, reason 1. -/
theorem test_decode_goto : decodeFrame ⟨.data, 0x05f, [0x00, 0x20, 0x12, 0xc8]⟩ = some (.goto 31 2 300 .back) := by
  decide +kernel

/-- HOLD and RESUME carry no byte. -/
theorem test_decode_hold_resume :
    decodeFrame ⟨.data, 0x061, []⟩ = some (.hold 1) ∧ decodeFrame ⟨.data, 0x081, []⟩ = some (.resume 1) := by
  decide +kernel

/-- LINK RELEASE of SL3, stamp 7, toucher 2, held clear, level −1 from station 2: link 00010, action 01,
stamp 000000000000000000000111, toucher 00010, held 0, level 11111111111. -/
theorem test_decode_link :
    decodeFrame ⟨.data, 0x102, [0x12, 0x00, 0x00, 0x0e, 0x27, 0xff]⟩ =
      some (.linkRelease 2 2 7 2 false (BitVec.ofInt 11 (-1))) := by decide +kernel

/-- GROUP_LEVEL of GM8 at +100 from station 4: master 111, level 00001100100, two bits unused. -/
theorem test_decode_groupLevel :
    decodeFrame ⟨.data, 0x204, [0xe1, 0x90]⟩ = some (.groupLevel 4 7 (BitVec.ofInt 11 100)) := by decide +kernel

/-- PRESENCE with JOINING set, HOLD clear, cue 1, mask of MG1 alone, FAULT alone in the summary, from station 9. -/
theorem test_decode_presence :
    decodeFrame ⟨.data, 0x289, [0x80, 0x04, 0x00, 0x06, 0x00]⟩ = some (.presence 9 true false 1 1 128) := by
  decide +kernel

/-- STEP_LOAD to all stations: cue 1, channel 24, absent target, fade 2, delay 3, S_CURVE, MUTE, from station 1:
00000 000000000001 11000 10000000000 0000000000000010 00000000011 11 01. -/
theorem test_decode_stepLoad :
    decodeFrame ⟨.data, 0x701, [0x00, 0x00, 0xe2, 0x00, 0x00, 0x01, 0x00, 0x3d]⟩ =
      some (.stepLoad 1 0 1 24 (BitVec.ofInt 11 (-1024)) 2 3 3 1) := by decide +kernel

/-- HEADER_LOAD to station 3: cue 4095, follow delay 0 present, from station 1. -/
theorem test_decode_headerLoad :
    decodeFrame ⟨.data, 0x741, [0x1f, 0xff, 0xc0, 0x00, 0x00]⟩ = some (.headerLoad 1 3 4095 true 0) := by decide +kernel

theorem test_decode_ignored :
    decodeFrame ⟨.data, 0x020, [0, 0]⟩ = some (.ignoredFrame .senderZero) ∧
      decodeFrame ⟨.data, 0x0a3, []⟩ = some (.ignoredFrame (.unknownKind 3)) ∧
      decodeFrame ⟨.data, 0x023, [0]⟩ = some (.ignoredFrame (.tooFewBytes 3)) ∧
      decodeFrame ⟨.remote, 0x023, []⟩ = some (.ignoredFrame .remote) := by decide +kernel

/-- No row of the opcode table has bits. -/
theorem test_no_table_word : decodeTableWord 32 0 = none := rfl

/-! ## The manual's worked cases of level arithmetic -/

/-- The table of R4 at the quarter points. -/
theorem test_curves :
    shape .easeIn 1024 = 256 ∧ shape .easeOut 1024 = 1792 ∧ shape .sCurve 1024 = 640 ∧ shape .sCurve 3072 = 3456 := by
  decide

/-- Case 1 of §1.3: an S_CURVE fade out of OFF. -/
theorem test_fade_sCurve :
    FadeRecord.level ⟨1, -900, -60, 300, 75, .sCurve⟩ = -769 ∧ FadeRecord.level ⟨1, -900, -60, 300, 225, .sCurve⟩ = -192 := by
  decide

/-- Case 3 of §1.3: rounding toward the start in both directions. -/
theorem test_fade_rounds_to_start :
    FadeRecord.level ⟨1, -100, -103, 10, 5, .linear⟩ = -101 ∧ FadeRecord.level ⟨1, -103, -100, 10, 5, .linear⟩ = -102 := by
  decide

/-- The worked return glide of §1.4. -/
theorem test_glide : Glide.level ⟨-150, 20, 50⟩ (-280) = -201 ∧ Glide.level ⟨-150, 20, 50⟩ (-300) = -209 := by decide

/-- The recovery glide worked in R16. -/
theorem test_recovery : Glide.level ⟨-200, 15, 30⟩ (-150) = -175 := by decide

/-- The readings worked in R10: 36 reads B0, and 4066 is a rail reading. -/
theorem test_end_zones :
    lawLevel defaultLaw (calibrate 30 6) = off ∧ isRail (calibrate 4060 6) = true := by decide +kernel

/-! ## Small states -/

/-- The state that a command leaves. -/
def after (i : Instr) (s : State) : State :=
  match exec i s with
  | .next t => t
  | .fault _ => s
  | .refused _ => s

/-- Station 3, RUNNING, its queue empty. -/
def running : State :=
  { State.reset with sl.station := 3, sl.state := .running, sl.windowTimer := .stopped }

/-- Station 3, JOINING. -/
def joining : State := { State.reset with sl.station := 3 }

/-- `running` with cue 1 listed and two steps in it: channel 1 to −100 in 4 frames, channel 2 to 0 after 2 frames. -/
def loaded : State :=
  { running with
    cs.steps := [⟨1, 0, some (-100), 4, 0, .linear, .mute⟩, ⟨1, 1, some 0, 0, 2, .linear, .none⟩]
    cs.headers := [⟨1, none⟩] }

/-- `running` with its sixteen transmit entries, STATUS_REPLY parts. -/
def full : State := { running with sl.queue := List.replicate 16 ⟨.statusReply 0 0, 0, false, none⟩ }

/-- `running` with slot `n` the one to be converted next. -/
def scanning (n : Nat) : State := { running with pi.scanSlot := n }

/-- `s` with some fields of its configuration changed. -/
def configured (f : Configuration → Configuration) (s : State) : State := { s with sl.config := f s.sl.config }

/-- Every channel on link SL1. -/
def linked : State :=
  configured (fun k => { k with chan := k.chan.mapAt fun _ c => { c with link := some 0 } }) running

/-- Channel 1 of `running` touched by hand. -/
def touched : State :=
  { running with
    pi.touch := running.pi.touch.set 0 ⟨true, true, false, .stopped⟩
    tk.chan := running.tk.chan.set 0 ⟨.touched, -100, none, false⟩ }

/-- Channel 1 of `linked` touched by hand: this station holds link SL1 with stamp 1. -/
def holding : State :=
  { linked with
    pi.touch := linked.pi.touch.set 0 ⟨true, true, false, .stopped⟩
    tk.link := linked.tk.link.set 0 ⟨1, some 3, off, true, some 3, [0]⟩
    tk.chan := Table.const 24 ⟨.touched, off, none, false⟩ }

/-- `linked` with link SL1 held by station 4 at level 50 and stamp 9. -/
def followed : State :=
  { linked with
    tk.link := linked.tk.link.set 0 ⟨9, some 4, 50, true, some 4, []⟩
    tk.chan := Table.const 24 ⟨.touched, 50, none, false⟩ }

/-! ## One event on a small state -/

theorem test_powerOn_zero : after (.powerOn 0 0) running = State.reset := by decide +kernel
theorem test_resetLine : (after (.resetLine 7 3) running).sl.queue.length = 1 ∧ (after (.resetLine 7 3) running).sl.rate = .k500 := by
  decide +kernel
theorem test_restart_keeps_store : (after (.restart 1 0) loaded).cs = loaded.cs ∧ (after (.restart 1 0) loaded).sl.state = .joining := by
  decide +kernel
/-- R42, R67, R70: the GO starts the step of channel 1 and its mute, and the step of channel 2 waits. -/
theorem test_go :
    let t := after (.go 1 1 .key) loaded
    t.seq.currentCue = 1 ∧ t.fe.chan.get 0 = ⟨off, true, some ⟨1, off, -100, 4, 0, .linear⟩⟩ ∧ t.fe.waiting.length = 1 := by
  decide +kernel
/-- R44, R47: a follow delay of 0 takes the next cue at the same event. -/
theorem test_follow_at_once :
    let s : State := { loaded with cs.headers := [⟨1, some 0⟩, ⟨2, none⟩] }
    (after (.go 1 1 .key) s).seq.currentCue = 2 ∧ (after (.go 1 1 .key) s).sl.queue.length = 1 := by decide +kernel
/-- R73: one frame on, the fade stands a quarter of the way. -/
theorem test_advance : ((after .advance (after (.go 1 1 .key) loaded)).fe.chan.get 0).cueLevel = -700 := by decide +kernel
/-- R49: a GOTO with fade time 0 brings channel 2 to its tracked level at once. -/
theorem test_goto : ((after (.goto 1 1 0 .goto) loaded).fe.chan.get 1).cueLevel = 0 := by decide +kernel
theorem test_hold_resume : (after (.hold 1) running).seq.held = true ∧ (after (.resume 1) (after (.hold 1) running)).seq.held = false := by
  decide +kernel
/-- R25: a STEP_LOAD with a held key replaces the record; R24: channel 25 is refused. -/
theorem test_stepLoad :
    (after (.stepLoad 1 3 1 1 0 0 0 0 0) loaded).cs.steps = [⟨1, 0, some 0, 0, 0, .linear, .none⟩, ⟨1, 1, some 0, 0, 2, .linear, .none⟩] ∧
      (after (.stepLoad 1 3 1 25 0 0 0 0 0) loaded).fi.lastReason = some .badChannel := by decide +kernel
theorem test_stepDelete : (after (.stepDelete 1 3 1 1) loaded).cs.steps.length = 1 := by decide +kernel
theorem test_headerLoad : (after (.headerLoad 1 0 2 true 0) loaded).cs.headers = [⟨1, none⟩, ⟨2, some 0⟩] := by decide +kernel
theorem test_cueErase_clear : (after (.cueErase 1 0 1) loaded).cs.steps = [] ∧ (after (.tableClear 1 0) loaded).cs.headers = [] := by
  decide +kernel
theorem test_bankSet : (after (.bankSet 1 0 15 true false 3) loaded).cs = loaded.cs ∧ (after (.bankSet 1 0 15 true false 2) loaded).cs ≠ loaded.cs := by
  decide +kernel
/-- R105, R106: a touch takes the fader level, and its end forms a return glide of the default 50 frames. -/
theorem test_touch :
    let t := after (.touchLineActive 0) running
    (t.tk.chan.get 0).state = .touched ∧
      ((after (.touchLineInactive 0) t).tk.chan.get 0) = ⟨.returning, off, some ⟨off, 0, 50⟩, false⟩ := by decide +kernel
/-- R90: a re-arm mark set while the line stands inactive does not hold the next touch back. -/
theorem test_touch_after_rearm :
    let s : State := { running with pi.touch := running.pi.touch.set 0 ⟨false, false, true, .stopped⟩ }
    ((after (.touchLineActive 0) s).pi.touch.get 0).touched = true := by decide +kernel
/-- R114: the first touch of a link gives stamp 1 and queues a TOUCH. -/
theorem test_link_touch :
    let t := after (.touchLineActive 2) linked
    t.tk.link.get 0 = ⟨1, some 3, off, true, some 3, [2]⟩ ∧ (t.tk.chan.get 5).state = .touched ∧
      t.sl.queue = [⟨.link 0 .touch 1 (some 3) true off, 0, false, none⟩] := by decide +kernel
/-- R116, R117: a TOUCH of a peer holds the link, and its RELEASE lets it go. -/
theorem test_link_received :
    let t := after (.linkTouch 4 0 9 4 true 50) linked
    (t.tk.link.get 0).holder = some 4 ∧ (t.tk.chan.get 7).manual = 50 ∧
      ((after (.linkRelease 4 0 9 4 false 50) t).tk.chan.get 7).state = .returning := by decide +kernel
/-- R116, R117: a RELEASE of a link without a member here is counted. -/
theorem test_release_counted :
    (after (.linkRelease 4 0 9 4 false 50) running).fi.counters.remoteIgnored = 1 ∧
      (after (.linkRelease 4 0 9 4 false 50) linked).fi.counters.remoteIgnored = 0 := by decide +kernel
/-- R144: a frame of no kind that bears this station's own number begins the clash and is counted. -/
theorem test_ignored_clash :
    let t := after (.ignoredFrame (.unknownKind 3)) running
    t.sl.clashCond = true ∧ t.flag .stationClash = true ∧ t.fi.counters.remoteIgnored = 1 := by decide +kernel
/-- R83. -/
theorem test_calibration : (after (.calibrationReading 1990) running).pi.calOffset = 58 := by decide +kernel
/-- R85, R9: the first accepted reading of a fader at the top reads B15. -/
theorem test_reading : (after (.faderReading 0 4000) (scanning 1)).pi.slot.get 0 = ⟨some 4000, 100, false, 0, false⟩ := by decide +kernel
/-- R84, R87, R173: an accepted reading that ends a fault under DUCK starts the recovery from the applied level before the reading. -/
theorem test_fault_end :
    let s : State :=
      { configured (fun k =>
          { k with duck := -200, actions := k.actions.set 0 .duck, chan := k.chan.modify 0 fun c => { c with mode := .safe } })
          (scanning 1) with
        pi.slot := running.pi.slot.set 0 ⟨some 2000, -300, true, 2, false⟩
        tk.chan := running.tk.chan.set 0 ⟨.safeManual, -300, none, false⟩
        gc.chan := running.gc.chan.set 0 ⟨-300, -300, .duck, none, none⟩
        fi.effective := running.fi.effective.set 0 .duck }
    (after (.faderReading 0 4000) s).gc.chan.get 0 = ⟨100, -300, .recovering, none, some ⟨-300, 0, 30⟩⟩ := by decide +kernel
/-- R82: a conversion moves the scan on to the next slot, and none comes of a slot that does not stand next. -/
theorem test_scan :
    (after (.faderReading 0 4000) (scanning 1)).pi.scanSlot = 2 ∧ (after (.faderReading 1 4000) (scanning 1)).pi.scanSlot = 1 := by
  decide +kernel
/-- R95. -/
theorem test_muteKey : (after (.muteKeyPress 23) running).pi.panelMute.get 23 = true := by decide +kernel
/-- R46: without a next cue the GO key is refused. -/
theorem test_goKey_refused : (after .goKeyPress running).fi.counters.goRefused = 1 := by decide +kernel
/-- R127, R128. -/
theorem test_groupLevel :
    let s := configured (fun k => { k with master := k.master.set 0 ⟨some 4, none⟩ }) running
    let t := after (.groupLevel 4 0 7) s
    t.sg.master.get 0 = ⟨7, true, .running 1500⟩ ∧ ((after (.staleTimerExpiry 0) t).sg.master.get 0) = ⟨7, false, .stopped⟩ := by
  decide +kernel
/-- R14, R131: a peer's assertion mutes a member channel whose source is loud. -/
theorem test_muteGroup :
    let s := configured (fun k => { k with chan := k.chan.modify 0 fun c => { c with groups := 1 } })
      { running with fe.chan := running.fe.chan.set 0 ⟨-50, false, none⟩ }
    ((after .advance s).gc.chan.get 0).applied = -50 ∧ ((after (.muteGroup 4 0 true) s).gc.chan.get 0).applied = off := by
  decide +kernel
/-- R158: five parts; R151: the sender is a PRESENT peer. -/
theorem test_statusRequest :
    (after (.statusRequest 4 3) running).sl.queue.length = 5 ∧ (after (.statusRequest 4 3) running).present 4 = true := by
  decide +kernel
/-- R154, R155: the window ends, the station runs, and its PRESENCE is queued. -/
theorem test_window :
    (after .windowTimerExpiry joining).sl.state = .running ∧ (after .windowTimerExpiry joining).sl.queue.length = 1 := by
  decide +kernel
/-- R59, R88: the rejoining GOTO starts from the latched level, and a panel that begins to accept input is armed afresh. -/
theorem test_rejoin :
    let s : State :=
      { joining with
        seq.adoptedCue := 1
        tk.chan := joining.tk.chan.set 0 ⟨.latched, -30, none, false⟩
        sl.config := { joining.sl.config with chan := joining.sl.config.chan.modify 0 fun c => { c with mode := .latch } } }
    let t := after .windowTimerExpiry s
    ((t.fe.chan.get 0).slot.map FadeRecord.start = some (-30)) ∧ (t.tk.chan.get 0).state = .cue ∧
      (t.pi.touch.get 5).rearm = true ∧ (t.pi.slot.get 27).catchUp = true := by decide +kernel
/-- R156: an assembly with one item is accepted, and the channel's ceiling is clamped. -/
theorem test_configuration :
    let s := after (.configItem 1 3 3 24 (BitVec.ofInt 16 (-1000))) (after (.configBegin 1 3) joining)
    ((after (.configEnd 1 3) s).config.chan.get 23).ceiling = -899 := by decide +kernel
/-- R145: an offered frame that is acknowledged leaves the queue. -/
theorem test_offer :
    (after .txSuccess (after .frameOffer (after .presenceTimerExpiry running))).sl.queue = [] := by decide +kernel
/-- R148: a failed offer raises the transmit error count by 8 and the attempt count by 1. -/
theorem test_txError :
    let t := after (.txError .bit) (after .frameOffer (after .presenceTimerExpiry running))
    t.sl.txErrors = 8 ∧ t.sl.queue.map TxEntry.attempts = [1] := by decide +kernel
/-- R163, §9.1: after a reset the first transfer carries channel 1 at OFF under sequence number 1. -/
theorem test_transfer : (after .levelTransfer running).gout = some 0x031f0040 := by decide +kernel
/-- R165: the last LEVEL transfer is followed by a POLL. -/
theorem test_poll :
    let s := { running with gp.queue := [], gp.inFlight := some (.level 0 off 255), gp.seq := 255 }
    (after (.transferComplete 0) s).gp.inFlight = some (.poll 0) := by decide +kernel
/-- R178. -/
theorem test_indicator : (after .indicatorTimerExpiry { running with fi.phase := 5975 }).fi.phase = 0 := by decide +kernel

/-! ## A state that meets every invariant -/

/-- Station 3 right after a RESET-line reset at 500 kbit/s, its first PRESENCE about to be offered. -/
def fresh : State := { after (.resetLine 3 1) State.reset with pending := [.frameOffer] }

theorem fresh_store : fresh.cs.Legal where
  stepOrder := by decide +kernel
  stepCount := by decide +kernel
  steps := by
    have h : fresh.cs.steps = [] := by decide +kernel
    simp [h]
  headerOrder := by decide +kernel
  headerCount := by decide +kernel
  headers := by decide +kernel

theorem fresh_configuration : fresh.config.Legal where
  ceiling := by decide +kernel
  owner := by decide +kernel
  deadband := by decide +kernel
  faultCount := by decide +kernel
  quietTime := by decide +kernel
  returnTime := by decide +kernel
  backTime := by decide +kernel
  gotoTime := by decide +kernel
  guardWindow := by decide +kernel
  readbackWindow := by decide +kernel
  readbackLimit := by decide +kernel
  duck := by decide +kernel
  recoveryTime := by decide +kernel
  unlockLength := by decide +kernel
  unlockCodes := by decide +kernel
  law := by
    unfold InScale
    decide +kernel
  scan := by decide +kernel

theorem fresh_config : fresh.ConfigLegal where
  inForce := fresh_configuration
  order := by decide +kernel
  assembly := by
    have h : fresh.sl.assembly = none := by decide +kernel
    simp [h]

theorem fresh_fades : fresh.FadesLegal where
  chan c := ⟨by revert c; decide +kernel, by revert c; decide +kernel, by revert c; decide +kernel, by revert c; decide +kernel⟩
  waiting := ⟨by decide +kernel, by decide +kernel, by decide +kernel, by decide +kernel⟩

theorem fresh_panel : fresh.PanelLegal where
  scan := by decide +kernel
  scanRange := by decide +kernel
  touchAccepts := by decide +kernel
  touchFault := by decide +kernel
  quiet := by decide +kernel
  offset := by decide +kernel
  run := by decide +kernel
  match_locked := by decide +kernel
  match_timer := by decide +kernel
  match_length := by decide +kernel

theorem fresh_link (l : LinkNo) : fresh.LinkLegal l where
  stamp := by revert l; decide +kernel
  held := by revert l; decide +kernel
  holder := by revert l; decide +kernel
  here := by revert l; decide +kernel
  zero := by revert l; decide +kernel

theorem fresh_touching (l : LinkNo) : fresh.TouchingLegal l where
  once := by revert l; decide +kernel
  member := by revert l; decide +kernel
  driving := by revert l; decide +kernel

theorem fresh_takeover : fresh.TakeoverLegal where
  chan c := ⟨by revert c; decide +kernel, by revert c; decide +kernel, by revert c; decide +kernel, by revert c; decide +kernel,
    by revert c; decide +kernel, by revert c; decide +kernel⟩
  following := by decide +kernel
  mark := by decide +kernel

theorem fresh_assertions : fresh.AssertionsAgree := by
  unfold State.AssertionsAgree
  decide +kernel

theorem fresh_queue : fresh.QueueLegal where
  length := by decide +kernel
  order := by decide +kernel
  keys := by decide +kernel
  attempts := by decide +kernel
  oneFrame := by decide +kernel
  amended := by decide +kernel
  silent := by decide +kernel
  linkOff := by decide +kernel

theorem fresh_errors : fresh.ErrorsLegal := ⟨by decide +kernel, by decide +kernel, by decide +kernel, by decide +kernel⟩

theorem fresh_peers : fresh.PeersLegal := ⟨by decide +kernel, by decide +kernel, by decide +kernel, by decide +kernel⟩

theorem fresh_window : fresh.WindowLegal where
  joining := by decide +kernel
  running := by decide +kernel
  assembly := by decide +kernel
  still := by decide +kernel
  fades := by decide +kernel
  adopted := by decide +kernel

theorem fresh_actions : fresh.ActionsLegal := fun c =>
  ⟨by
    have h : ∀ c, fresh.fi.effective.get c = .none ∧ (fresh.gc.chan.get c).action = .none := by decide +kernel
    simp [h c], by revert c; decide +kernel, by revert c; decide +kernel, by revert c; decide +kernel⟩

theorem fresh_outputs : fresh.OutputsAgree where
  composed := by decide +kernel
  appliedNone := by decide +kernel
  appliedHold := by decide +kernel
  appliedDuck := by decide +kernel
  appliedMute := by decide +kernel
  appliedGlide := by decide +kernel
  conditions := by decide +kernel
  effective := by decide +kernel
  taken f := by cases f <;> decide +kernel
  faultLine := by decide +kernel
  stateLed := by decide +kernel
  muteLed := by decide +kernel
  goLed := by decide +kernel
  stationLed := by decide +kernel

theorem fresh_flags : fresh.FlagsAgree := fun f => by cases f <;> decide +kernel

theorem fresh_levels : fresh.LevelsLegal where
  cueLevel := by unfold InScale; decide +kernel
  record := by unfold InScale; decide +kernel
  waiting := by
    have h : fresh.fe.waiting = [] := by decide +kernel
    simp [h]
  fader := by unfold InScale; decide +kernel
  manual := by unfold InScale; decide +kernel
  glide := by unfold InScale; decide +kernel
  link := by unfold InScale; decide +kernel
  master := by unfold InScale; decide +kernel
  composed := by unfold InCeiling; decide +kernel
  applied := by unfold InCeiling; decide +kernel
  held := by unfold InCeiling; decide +kernel
  recovery := by unfold InCeiling; decide +kernel
  lastSent := by unfold InScale; decide +kernel

theorem fresh_faults : fresh.fi.Legal :=
  ⟨by decide +kernel, by decide +kernel, by decide +kernel, by decide +kernel, by decide +kernel⟩

/-- The step of `fresh` puts its PRESENCE on the line. -/
theorem fresh_step : ∃ t, step fresh = .next t ∧ t.transmitting = true := by
  have h : (match step fresh with | .next t => t.transmitting | _ => false) = true := by decide +kernel
  revert h
  cases step fresh with
  | next t => exact fun h => ⟨t, rfl, h⟩
  | fault e => simp
  | refused r => simp

/-! ## Witnesses: a state and operands that meet the hypotheses of each statement -/

theorem witness_StepRunsTheFrontCommand : fresh.pending = Instr.frameOffer :: [] := by decide +kernel

theorem witness_ColdResetValues :
    ((3 : Fin 4).val, BitRate.k500) ∈ [(0, BitRate.k250), (1, .k500), (2, .k1000), (3, .k500)] ∧
      Instr.resetLine 0 3 ∈ [Instr.powerOn 0 3, Instr.resetLine 0 3] := by decide

theorem witness_RestartValues :
    (1 : Station) ≠ 0 ∧ fresh.addressed 3 = true ∧ fresh.addressed 0 = true ∧ fresh.ConfigLegal :=
  ⟨by decide, by decide +kernel, by decide +kernel, fresh_config⟩

theorem witness_ProgressAndCurves :
    1 ≤ 1 ∧ 1 ≤ 65535 ∧ progress 65535 65535 = 4096 ∧ progress 65534 65535 < 4096 ∧ shape .sCurve 4096 = 4096 := by
  decide +kernel

/-- A fade up and one down of one frame, and a glide at, before and past its end. -/
theorem witness_FadesAndGlidesStayBetween :
    1 ≤ 1 ∧ (-900 : Int) ≤ 100 ∧ FadeRecord.level ⟨0, -900, 100, 1, 1, .easeIn⟩ = 100 ∧
      FadeRecord.level ⟨0, 100, -900, 1, 0, .easeIn⟩ = 100 ∧ Glide.level ⟨100, 49, 50⟩ (-900) = -879 ∧
      Glide.level ⟨100, 50, 50⟩ (-900) = -900 ∧ Glide.level ⟨100, 0, 0⟩ (-900) = -900 := by decide +kernel

/-- The law of the default configuration; the ends of the end zones, and the reading of the first breakpoint but one. -/
theorem witness_FaderLawRises :
    (∀ b, InScale (defaultLaw.get b)) ∧ lawOrdered defaultLaw = true ∧ lawLevel defaultLaw 128 = defaultLaw.get 0 ∧
      lawLevel defaultLaw 3967 = defaultLaw.get 15 ∧ (128 : Nat) + 256 * 14 + 255 = 3967 := by
  unfold InScale
  decide +kernel

/-- Channel 1 of `summing` sums to −50, channel 2 has a master at OFF, channel 3 is muted, channel 4 is over its ceiling
and channel 5 falls under the floor. -/
def summing : State :=
  { configured
      (fun k =>
        { k with
          chan := k.chan.mapAt fun c x =>
            { x with masters := if c = 1 then 1 else if c = 4 then 2 else 0, ceiling := if c = 3 then -899 else 100 } })
      running with
    fe.chan := running.fe.chan.mapAt fun c x =>
      { x with cueLevel := if c = 4 then -899 else -50, cueMute := decide (c = 2) }
    sg.master := (running.sg.master.set 0 ⟨off, true, .stopped⟩).set 1 ⟨-899, false, .stopped⟩ }

theorem witness_SumAndComposedLevel :
    (let s : State := { running with tk.chan := running.tk.chan.set 0 ⟨.returning, 0, some ⟨0, 10, 50⟩, false⟩ };
      (s.tk.chan.get 0).glide = some ⟨0, 10, 50⟩ ∧ s.sourceLevel 0 = Glide.level ⟨0, 10, 50⟩ (-900)) ∧
    levelSum (summing.sourceLevel 0) (summing.masterLevels 0) = some (-50) ∧ summing.composedLevel 0 = -50 ∧
      levelSum (summing.sourceLevel 1) (summing.masterLevels 1) = none ∧ summing.composedLevel 1 = off ∧
      (summing.fe.chan.get 2).cueMute = true ∧ summing.composedLevel 3 = -899 ∧
      levelSum (summing.sourceLevel 4) (summing.masterLevels 4) = some (-1798) ∧ summing.composedLevel 4 = off ∧
      InScale (summing.sourceLevel 4) ∧ ∀ m, InScale (summing.sg.master.get m).level := by
  unfold InScale
  decide +kernel

/-- A change to each effective action, with a recovery time and without. -/
theorem witness_ProtectiveActions :
    (∀ a : Action, a ∈ [Action.hold, .duck, .mute] →
      let s := configured (fun k => { k with actions := Table.const 4 a })
        { running with pi.slot := running.pi.slot.set 0 ⟨none, off, true, 0, false⟩ }
      s.config.effective (s.channelConditions 0) s.busOff = a ∧ s.fi.effective.get 0 ≠ a) ∧
    (running.config.effective (running.channelConditions 0) running.busOff = .none ∧
      running.fi.effective.get 0 = .none ∧ running.config.recoveryTime ≠ 0) ∧
    (let s := configured (fun k => { k with recoveryTime := 0 })
        { running with fi.effective := running.fi.effective.set 0 .mute };
      s.config.effective (s.channelConditions 0) s.busOff = .none ∧ s.fi.effective.get 0 ≠ .none ∧
        s.config.recoveryTime = 0) := by decide +kernel

theorem loaded_store : loaded.cs.Legal where
  stepOrder := by decide +kernel
  stepCount := by decide +kernel
  steps st h := by
    have h' : st = ⟨1, 0, some (-100), 4, 0, .linear, .mute⟩ ∨ st = ⟨1, 1, some 0, 0, 2, .linear, .none⟩ := by
      simpa [loaded] using h
    rcases h' with rfl | rfl
    · exact ⟨by decide, by simp [InScale, off, Config.levelTop], by decide, by decide⟩
    · exact ⟨by decide, by simp [InScale, off, Config.levelTop], by decide, by decide⟩
  headerOrder := by decide +kernel
  headerCount := by decide +kernel
  headers := by decide +kernel

/-- The latest steps of channel 1 up to cue 1, and channel 2 without a mute and channel 3 without a step. -/
theorem witness_StoreLookups :
    loaded.cs.Legal ∧ (15 : Fin 16).val = (4095 : Cue).val / 256 ∧
      ((⟨1, none⟩ : Header) ∈ loaded.cs.headers ∧ ∀ h ∈ loaded.cs.headers, h.cue ≠ 4095) ∧
      ((⟨1, 0, some (-100), 4, 0, .linear, .mute⟩ : CueStep) ∈ loaded.cs.steps ∧
        ∀ u ∈ loaded.cs.steps, u.channel = 0 → u.cue.val ≤ 1 → u.cue.val ≤ 1) ∧
      (∀ u ∈ loaded.cs.steps, u.channel = 2 → u.cue.val ≤ 1 → u.level = none) ∧
      (∀ u ∈ loaded.cs.steps, u.channel = 1 → u.cue.val ≤ 1 → u.mute = .none) :=
  ⟨loaded_store, by decide +kernel⟩

theorem witness_LoadsTaken :
    (1 : Station) ≠ 0 ∧ loaded.addressed 3 = true ∧ (4095 : Cue) ≠ 0 ∧ loaded.cs.Legal ∧
      ((24 : Fin 32).val = (23 : Channel).val + 1 ∧ loaded.cs.steps.length < 2048) ∧
      ((1 : Fin 32).val = (0 : Channel).val + 1 ∧ ∃ x ∈ loaded.cs.steps, x.cue = 1 ∧ x.channel = 0) ∧
      loaded.cs.headers.length < 512 ∧ ∃ x ∈ loaded.cs.headers, x.cue = 1 :=
  ⟨by decide, by decide +kernel, by decide, loaded_store, by decide +kernel⟩

theorem witness_StoreEditsTaken :
    (31 : Station) ≠ 0 ∧ loaded.addressed 0 = true ∧ (1 : Cue) ≠ 0 ∧ (1 : Fin 32).val = (0 : Channel).val + 1 ∧
      (2, BankKind.parked) ∈ [(0, BankKind.plain), (1, .priority), (2, .parked)] := by decide +kernel

/-- A full step list and a full header list that do not hold cue 4095. -/
theorem witness_StoreRefusals :
    (1 : Station) ≠ 0 ∧ running.addressed 3 = true ∧ (4095 : Cue) ≠ 0 ∧ (0 : Fin 32).val = 0 ∧ 25 ≤ (25 : Fin 32).val ∧
      (1 : Fin 32).val = (0 : Channel).val + 1 ∧ 3 ≤ 3 ∧
      let s := { running with
        cs.steps := List.replicate 2048 ⟨1, 0, none, 0, 0, .linear, .none⟩, cs.headers := List.replicate 512 ⟨1, none⟩ }
      2048 ≤ s.cs.steps.length ∧ (∀ x ∈ s.cs.steps, ¬(x.cue = 4095 ∧ x.channel = 0)) ∧ 512 ≤ s.cs.headers.length ∧
        ∀ x ∈ s.cs.headers, x.cue ≠ 4095 := by
  refine ⟨by decide, by decide +kernel, by decide, by decide, by decide, by decide, by decide, ?_⟩
  refine ⟨List.length_replicate.ge, fun x h => ?_, List.length_replicate.ge, fun x h => ?_⟩ <;>
  · have e := List.eq_of_mem_replicate h
    subst e
    decide

theorem witness_Reception :
    (1 : Station) ≠ 0 ∧ (1 : Station) ≠ running.sl.station ∧ running.sl.station ≠ 0 ∧
      (after (.hold 3) running).sl.clashTimer ≠ .stopped := by decide +kernel

theorem witness_FramesThatGoNoFurther :
    (3 : Station) = running.sl.station ∧ (Instr.hold 0).sender? = some 0 ∧ State.reset.sl.station = 0 ∧ (4 : Station) ≠ running.sl.station ∧
      (Instr.tableClear 1 4).sender? = some 1 ∧ (Instr.tableClear 1 4).target? = some 4 ∧ (4 : Station) ≠ 0 := by
  decide +kernel

/-- `loaded` takes cue 1 under a PLAIN bank; its second step has a delay and its first has none. -/
theorem witness_GoTaken :
    loaded.sl.state = .running ∧ (1 : Cue) ≠ 0 ∧ (loaded.cs.bankOf 1).remoteGo = true ∧ (loaded.cs.bankOf 1).kind = .plain ∧
      ¬((1 : Cue) = loaded.seq.currentCue ∧ (Cause.key = .follow ∨ loaded.withinGuard loaded.seq.goStamp = true)) ∧
      loaded.cs.followOf 1 ≠ some 0 ∧ loaded.cs.Legal ∧
      ((⟨1, 1, some 0, 0, 2, .linear, .none⟩ : CueStep) ∈ loaded.cs.steps ∧ loaded.mode 1 ≠ .safe) ∧
      ((⟨1, 0, some (-100), 4, 0, .linear, .mute⟩ : CueStep) ∈ loaded.cs.steps ∧ loaded.mode 0 ≠ .safe) ∧
      ∀ st ∈ loaded.cs.steps, ¬(st.cue = 1 ∧ st.channel = 2) := by
  have h := loaded_store
  simp only [h, true_and]
  decide +kernel

/-- Cue 0, and a second GO and GOTO of the cue just taken; a cue to adopt. -/
theorem witness_GoAndGotoIgnoredOrAdopted :
    let s := after (.go 1 1 .key) loaded
    (s.sl.state = .running ∧ s.seq.currentCue = 1 ∧ s.withinGuard s.seq.goStamp = true) ∧
      joining.sl.state = .joining ∧ ¬((1 : Cue) = 0 ∨ (joining.cs.bankOf 1).remoteGo = false ∨
        (joining.cs.bankOf 1).kind = .parked) := by decide +kernel

theorem witness_GotoTaken :
    loaded.sl.state = .running ∧ (4095 : Cue) ≠ 0 ∧ (loaded.cs.bankOf 4095).remoteGo = true ∧
      (loaded.cs.bankOf 4095).kind ≠ .parked ∧
      ¬((4095 : Cue) = loaded.seq.currentCue ∧ loaded.withinGuard loaded.seq.goStamp = true) ∧ loaded.mode 0 ≠ .safe ∧
      (configured (fun k => { k with chan := k.chan.mapAt fun _ c => { c with mode := .safe } }) loaded).mode 0 = .safe := by
  decide +kernel

theorem witness_HoldAndResume : (1 : Station) ≠ 0 ∧ running.sl.state = .running ∧ joining.sl.state = .joining := by
  decide +kernel

/-- `loaded` with cue 1 current and cue 2 listed with it: both the GO and the BACK key find a cue. -/
def middle : State := { loaded with cs.headers := [⟨1, none⟩, ⟨2, none⟩, ⟨3, none⟩], seq.currentCue := 2 }

theorem middle_store : middle.cs.Legal :=
  { loaded_store with
    headerOrder := by decide +kernel
    headerCount := by decide +kernel
    headers := by decide +kernel }

theorem witness_SequencerKeys :
    middle.cs.Legal ∧ middle.sl.state = .running ∧ middle.pi.locked = false ∧
      middle.pi.keyDown.get 0 = false ∧ middle.pi.keyDown.get 1 = false ∧ middle.pi.keyDown.get 2 = false ∧
      middle.withinGuard middle.seq.keyStamp = false ∧ middle.seq.held = false ∧
      (middle.cs.next middle.seq.currentCue = some 3 ∧
        ¬((middle.cs.bankOf 3).localGo = false ∨ (middle.cs.bankOf 3).kind = .parked)) ∧
      (middle.cs.previous middle.seq.currentCue = some 1 ∧
        ¬((middle.cs.bankOf 1).localGo = false ∨ (middle.cs.bankOf 1).kind = .parked)) ∧
      (let s := { middle with seq.keyStamp := some 0 }; s.withinGuard s.seq.keyStamp = true) ∧
      (running.cs.next running.seq.currentCue = none ∧ running.cs.previous running.seq.currentCue = none) ∧
      (after (.hold 1) running).seq.held = true :=
  ⟨middle_store, by decide +kernel⟩

/-- An armed timer above 1, at 1 and at 0, with a next cue and without one; a stamp within the window and one at its end. -/
theorem witness_FollowTimer :
    (∀ r ∈ [2, 1, 0], ∃ s : State, s.cs.Legal ∧ s.seq.held = false ∧ s.seq.follow = some r ∧
      s.cs.next s.seq.currentCue = some 3 ∧ (s.cs.bankOf 3).localGo = true ∧ (s.cs.bankOf 3).kind ≠ .parked) ∧
    running.seq.follow = none ∧ running.cs.next running.seq.currentCue = none ∧
    (let s : State := { running with seq.frameCount := 5 };
      s.withinGuard (some 4294967295) = true ∧ s.config.guardWindow = 50 ∧ s.withinGuard (some (5 - 50)) = false) := by
  refine ⟨fun r _ => ⟨{ middle with seq.follow := some r }, middle_store, rfl, rfl, ?_⟩, by decide +kernel⟩
  exact (by decide +kernel : middle.cs.next middle.seq.currentCue = some 3 ∧ (middle.cs.bankOf 3).localGo = true ∧
    (middle.cs.bankOf 3).kind ≠ .parked)

/-- A station that is held and one that is not, with channel 1 on the last frame of a fade, a step of channel 2 with one frame of
delay left and one of channel 3 with two. -/
theorem witness_AdvanceMovesFades :
    (after (.hold 1) running).seq.held = true ∧
    let s : State :=
      { running with
        fe.chan := running.fe.chan.set 0 ⟨off, false, some ⟨1, off, 100, 1, 0, .linear⟩⟩
        fe.waiting := [⟨1, 1, 1, some 0, 0, .linear, .none, true⟩, ⟨2, 1, 2, none, 0, .linear, .mute, true⟩] }
    s.seq.held = false ∧ (after .advance s).fe.waiting.length = 1 ∧ ((after .advance s).tk.chan.get 1).state = .overridden := by
  decide +kernel

/-- A record at its duration and one short of it, and a due step with a priority mark between two others. -/
theorem witness_DueStepStartsAndFadeCompletes :
    1 ≤ 1 ∧ 0 < 1 ∧
      let p : PendingStep := ⟨1, 1, 0, some 0, 0, .linear, .none, true⟩
      let before : List PendingStep := [⟨0, 1, 0, none, 0, .linear, .mute, false⟩]
      let after : List PendingStep := [⟨2, 1, 2, none, 0, .linear, .mute, true⟩]
      p.channel = 1 ∧ p.remaining = 0 ∧ p.priority = true ∧ (∀ q ∈ before ++ after, q.channel ≠ 1) ∧
        ∀ q ∈ after, ¬(q.channel = 2 ∧ q.remaining = 0) := by decide +kernel

/-- An unlinked channel, a linked one, one whose re-arm mark is set, one whose line is active and one that takes no touch. -/
theorem witness_TouchLineBeginsATouch :
    (∀ s ∈ [running, linked, { running with pi.touch := running.pi.touch.set 23 ⟨false, false, true, .stopped⟩ }],
      (s.pi.touch.get 23).lineActive = false ∧ s.source 23 = .line ∧ s.sl.state = .running ∧ s.pi.locked = false ∧
        (s.pi.slot.get (channelSlot 23)).faulted = false ∧ (s.pi.touch.get 23).touched = false) ∧
    running.linkOf 23 = none ∧ linked.linkOf 23 = some 0 ∧ (touched.pi.touch.get 0).lineActive = true ∧
      joining.sl.state ≠ .running := by decide +kernel

/-- An unlinked touch, a linked one, two of one link, a disregarded one and one with a running quiet timer. -/
theorem witness_TouchEnds :
    ((touched.pi.touch.get 0).lineActive = true ∧ touched.source 0 = .line ∧ (touched.pi.touch.get 0).touched = true ∧
      (touched.tk.chan.get 0).mark = false ∧ touched.linkOf 0 = none ∧ (touched.tk.chan.get 0).state = .touched) ∧
    (let s := after (.touchLineActive 1) holding; (s.tk.link.get 0).touching = [0, 1] ∧ (s.pi.touch.get 0).lineActive = true) ∧
    ((holding.pi.touch.get 0).lineActive = true ∧ (holding.pi.touch.get 0).touched = true ∧
      (holding.tk.chan.get 0).mark = false ∧ holding.linkOf 0 = some 0 ∧ (holding.tk.link.get 0).touching = [0]) ∧
    ((⟨.overridden, off, none, true⟩ : TakeoverChannel).mark = true ∧
      (⟨true, false, false, .running 600⟩ : TouchState).quiet ≠ .stopped) ∧
    (running.pi.touch.get 0).quiet = .stopped ∧ (running.pi.touch.get 0).touched = false := by decide +kernel

/-- A glide one frame short of its duration, and one that stands at it. -/
theorem witness_ReturnGlides :
    let s : State → Nat → State := fun s e =>
      { s with tk.chan := s.tk.chan.set 0 ⟨.returning, off, some ⟨off, e, 50⟩, false⟩ }
    ((s running 49).tk.chan.get 0).glide = some ⟨off, 49, 50⟩ ∧ 50 ≤ 49 + 1 ∧ 48 + 1 < 50 ∧
      ((s running 50).tk.chan.get 0).glide = some ⟨off, 50, 50⟩ := by decide +kernel

/-- A higher stamp, an equal stamp of a lower toucher, and a toucher that is 0. -/
theorem witness_LinkTouchOrStateAccepted :
    (1 : Station) ≠ 0 ∧ (linked.tk.link.get 0).stamp < 1 ∧ (linked.heard 1).present 1 = true ∧
      linked.linkOf 0 = some 0 ∧ linked.mode 0 ≠ .safe ∧
      (let s := followed;
        (s.tk.link.get 0).stamp = 9 ∧ (s.tk.link.get 0).lastToucher = some 4 ∧ (1 : Station).val ≤ (4 : Station).val ∧
          (s.tk.link.get 0).held = true ∧ (s.tk.chan.get 0).state = .touched) ∧
      (holding.tk.link.get 0).holder = some holding.sl.station ∧
      ¬((false = true ∨ Instr.linkState 1 0 1 0 false 0 = .linkTouch 1 0 1 0 false 0) ∧
        (linked.heard 1).present 0 = true) := by decide +kernel

/-- A RELEASE with a higher stamp and one with the stamp of the TOUCH; an older stamp and an equal one of another toucher. -/
theorem witness_LinkReleaseAcceptedAndLinkRefused :
    (4 : Station) ≠ 0 ∧ (linked.tk.link.get 0).stamp < 1 ∧ linked.linkOf 0 = some 0 ∧
      ((running.tk.link.get 0).stamp < 1 ∧ ¬∃ c, running.linkOf c = some 0) ∧
      (let s := followed;
        (s.tk.link.get 0).stamp = 9 ∧ (s.tk.link.get 0).lastToucher = some 4 ∧ 8 < (s.tk.link.get 0).stamp ∧
          (s.tk.link.get 0).lastToucher ≠ some 5 ∧ ∀ q, (s.tk.link.get 0).lastToucher = some q → q.val < (5 : Station).val) ∧
      (4 : Station) ≠ 5 := by decide +kernel

/-- Slots 0, 29 and 24 as the scan reaches them, a slot it does not stand at, and the edges of the readings: 1983, 1984, 2112, 2113,
31, 32, 4063, 4064; a fault that begins during a touch, and one that ends on a panel that does not accept input. -/
theorem witness_ReadingsThatMoveNothing :
    (scanning 0).pi.scanSlot = 0 ∧ 1984 ≤ (1984 : Fin 4096).val ∧ (2112 : Fin 4096).val ≤ 2112 ∧ (1983 : Fin 4096).val < 1984 ∧
      2112 < (2113 : Fin 4096).val ∧ (scanning 29).pi.scanSlot = (0 : Fin 3).val + 29 ∧
      (scanning 24).pi.scanSlot = (23 : FaderSlot).val + 1 ∧ (scanning 24).pi.scanSlot ≠ (24 : FaderSlot).val + 1 ∧
      (31 : Int) < 32 ∧ (4063 : Int) < 4064 ∧
      (let s : State :=
        { touched with pi.scanSlot := 1, pi.slot := touched.pi.slot.set 0 ⟨some 2000, off, false, 2, false⟩ };
        s.pi.scanSlot = (0 : FaderSlot).val + 1 ∧ (s.pi.slot.get 0).faulted = false ∧
          s.config.faultCount ≤ (s.pi.slot.get 0).run + 1 ∧ (0 : Channel).val = (0 : FaderSlot).val ∧
          (s.pi.touch.get 0).touched = true ∧ ((2004 : Int) - 2000).natAbs ≤ s.config.deadband) ∧
      (let s : State := { joining with pi.scanSlot := 25, pi.slot := joining.pi.slot.set 24 ⟨some 2000, off, true, 2, false⟩ };
        s.pi.scanSlot = (24 : FaderSlot).val + 1 ∧ (s.pi.slot.get 24).faulted = true ∧ 24 ≤ (24 : FaderSlot).val ∧
          s.config.faultCount ≤ (s.pi.slot.get 24).run + 1 ∧ s.sl.state ≠ .running) := by decide +kernel

/-- Readings at both edges of the travel: of an unlinked LINE channel, of a MOTION channel that is SAFE and of one that is touched, of
the driving channel of a link, and one that ends a fault. -/
theorem witness_AcceptedReadingOfAChannel :
    let states : List State :=
      [scanning 1, { holding with pi.scanSlot := 1 },
        configured (fun k => { k with chan := k.chan.mapAt fun _ c => { c with source := .motion, mode := .safe } }) (scanning 1),
        configured (fun k => { k with chan := k.chan.mapAt fun _ c => { c with source := .motion } })
          { touched with pi.scanSlot := 1 },
        { running with pi.scanSlot := 1, pi.slot := running.pi.slot.set 0 ⟨some 2000, off, true, 2, false⟩ }]
    ∀ s ∈ states, s.pi.scanSlot = (0 : Channel).val + 1 ∧ s.sl.state = .running ∧ s.pi.locked = false ∧
      ((s.pi.slot.get (channelSlot 0)).faulted = false ∨ s.config.faultCount ≤ (s.pi.slot.get (channelSlot 0)).run + 1) ∧
      ∀ n : Nat, n = 32 ∨ n = 4063 → (max 0 (min ((n : Int) + s.pi.calOffset) 4095)).toNat = n ∧
        ((s.pi.slot.get (channelSlot 0)).accepted = none ∨ (s.pi.slot.get (channelSlot 0)).accepted = some 2000) := by
  refine fun s hs => ?_
  have h : s.pi.scanSlot = (0 : Channel).val + 1 ∧ s.sl.state = .running ∧ s.pi.locked = false ∧
      ((s.pi.slot.get (channelSlot 0)).faulted = false ∨ s.config.faultCount ≤ (s.pi.slot.get (channelSlot 0)).run + 1) ∧
      s.pi.calOffset = 0 ∧
      ((s.pi.slot.get (channelSlot 0)).accepted = none ∨ (s.pi.slot.get (channelSlot 0)).accepted = some 2000) := by
    revert s
    decide +kernel
  obtain ⟨h1, h2, h3, h4, h5, h6⟩ := h
  refine ⟨h1, h2, h3, h4, fun n hn => ⟨?_, h6⟩⟩
  rw [h5]
  omega

/-- A master owned here and bound to the slot, FRESH already, and one at its slot's first reading. -/
theorem witness_AcceptedReadingOfAMasterSlot :
    let s := configured (fun k => { k with master := k.master.set 0 ⟨some 3, some 3⟩ }) (scanning 28)
    let u : State :=
      { s with
        pi.slot := s.pi.slot.set (masterSlot 3) ⟨some 2000, -50, false, 0, false⟩
        sg.master := s.sg.master.set 0 ⟨-50, true, .stopped⟩ }
    s.pi.scanSlot = (3 : Fin 4).val + 25 ∧ s.sl.state = .running ∧ s.pi.locked = false ∧ s.pi.calOffset = 0 ∧
      (s.pi.slot.get (masterSlot 3)).faulted = false ∧ (s.pi.slot.get (masterSlot 3)).accepted = none ∧
      s.config.master.get 0 = ⟨some s.sl.station, some 3⟩ ∧ (u.pi.slot.get (masterSlot 3)).accepted = some 2000 ∧
      u.config.deadband < ((4063 : Int) - 2000).natAbs ∧ lawLevel u.config.law 4063 ≠ -50 := by
  decide +kernel

/-- The unlock sequence of the default configuration is STOP, STOP, GO: its first key, its last key and a wrong key. -/
theorem witness_KeysNotActedOn :
    let s : State := { running with pi.locked := true }
    (s.pi.keyDown.get stopKey = false ∧ s.sl.state = .running ∧ stopKey.val + 1 = s.config.unlockCodes.get 0 ∧
      s.config.unlockLength ≠ 1) ∧ goKey.val + 1 = s.config.unlockCodes.get 2 ∧ s.config.unlockLength = 2 + 1 ∧
      backKey.val + 1 ≠ s.config.unlockCodes.get 0 ∧ joining.sl.state = .joining ∧
      (after .goKeyPress running).pi.keyDown.get goKey = true := by decide +kernel

theorem witness_MuteAndGroupKeys :
    running.sl.state = .running ∧ running.pi.locked = false ∧ running.pi.keyDown.get (muteKey 23) = false ∧
      running.pi.keyDown.get (groupKey 7) = false ∧ running.config.keyMap.get 7 = some 7 ∧
      running.sl.station ≠ 0 ∧ running.busOff = false ∧ running.sl.queue = [] ∧
      (configured (fun k => { k with keyMap := Table.const 8 none }) running).config.keyMap.get 0 = none := by decide +kernel

theorem witness_PanelLockAndUnlockTimer :
    (1 : Station) ≠ 0 ∧ running.addressed 0 = true ∧ running.pi.locked = false ∧
      (after (.panelLock 1 0 true) running).pi.locked = true ∧ (after (.panelLock 1 0 true) joining).pi.locked = true ∧
      (∀ c, (running.pi.touch.get c).touched = false) ∧ (touched.pi.touch.get 0).touched = true ∧
      (after .stopKeyPress { running with pi.locked := true }).pi.unlockTimer ≠ .stopped ∧
      running.pi.unlockTimer = .stopped := by decide +kernel

theorem witness_GroupMessages :
    let s := configured (fun k => { k with master := k.master.set 7 ⟨some 31, none⟩ }) running
    (31 : Station) ≠ 0 ∧ (31 : Station) ≠ s.sl.station ∧ (s.config.master.get 7).owner = some 31 ∧
      (s.config.master.get 0).owner ≠ some 31 ∧ (s.sg.master.get 7).stale = .stopped ∧
      ((after (.groupLevel 31 7 0) s).sg.master.get 7).stale ≠ .stopped := by decide +kernel

theorem witness_PresenceTakenAndAnswered :
    ((1 : Station) ≠ 0 ∧ (1 : Station) ≠ running.sl.station ∧ running.sl.station ≠ 0 ∧ running.busOff = false ∧
      running.sl.queue = [] ∧ running.sl.state = .running) ∧
    joining.sl.state = .joining ∧ joining.seq.adoptionSource = none ∧
    ((List.finRange 32).filter fun l =>
        decide ((running.tk.link.get l).holder = some running.sl.station) ||
          decide ((running.tk.link.get l).lastToucher = some running.sl.station)) = [] := by decide +kernel

theorem witness_StatusRequestAnswered :
    (1 : Station) ≠ 0 ∧ fresh.addressed 3 = true ∧ fresh.OutputsAgree ∧ fresh.ActionsLegal ∧
      (∀ s : State, s = { fresh with sl.queue := [] } →
        s.addressed 3 = true ∧ s.OutputsAgree ∧ s.ActionsLegal ∧ s.sl.station ≠ 0 ∧ s.busOff = false ∧ s.sl.queue = []) ∧
      State.reset.sl.station = 0 ∧ State.reset.addressed 0 = true := by
  refine ⟨by decide, by decide +kernel, fresh_outputs, fresh_actions, ?_, by decide +kernel⟩
  rintro s rfl
  refine ⟨by decide +kernel, ?_, fresh_actions, by decide +kernel⟩
  exact
    { composed := fresh_outputs.composed, appliedNone := fresh_outputs.appliedNone
      appliedHold := fresh_outputs.appliedHold, appliedDuck := fresh_outputs.appliedDuck
      appliedMute := fresh_outputs.appliedMute, appliedGlide := fresh_outputs.appliedGlide
      conditions := fresh_outputs.conditions, effective := fresh_outputs.effective, taken := fresh_outputs.taken
      faultLine := fresh_outputs.faultLine, stateLed := fresh_outputs.stateLed, muteLed := fresh_outputs.muteLed
      goLed := fresh_outputs.goLed, stationLed := fresh_outputs.stationLed }

/-- A cue in motion below every other one, and none. -/
theorem witness_StatusAndPresenceContents :
    (let s := after (.go 1 1 .key) loaded;
      (s.fe.chan.get 0).slot.map FadeRecord.cue = some 1 ∧ s.lowestCue = 1) ∧ running.lowestCue = 0 := by decide +kernel

/-- A LEGAL queue with room, a full one whose entries have a higher kind than a GO and one whose entries have a lower kind than a
STATUS_REPLY, a keyed entry, a silent station and LINK_OFF. -/
theorem witness_MessageJoinsTheQueue :
    fresh.QueueLegal ∧ fresh.sl.queue.length < 16 ∧ State.reset.sl.station = 0 ∧
      { running with sl.txErrors := 256 }.busOff = true ∧
      (∃ x ∈ fresh.sl.queue, (Msg.presence true false 0 0 0).sameKey x.msg = true) ∧
      (∀ x ∈ fresh.sl.queue, ¬(Msg.hold.sameKey x.msg = true)) ∧
      (∀ m : Msg, m = .go 1 .key ∨ m = .statusReply 4 0 →
        ∃ s : State, s.QueueLegal ∧ s.sl.station ≠ 0 ∧ s.busOff = false ∧ 16 ≤ s.sl.queue.length ∧
          ∀ x ∈ s.sl.queue, ¬(m.sameKey x.msg = true)) := by
  refine ⟨fresh_queue, by decide +kernel, by decide +kernel, by decide +kernel, by decide +kernel, by decide +kernel, ?_⟩
  intro m hm
  refine ⟨{ running with sl.queue := List.replicate 16 ⟨.goto 1 0 .goto, 0, false, none⟩ }, ?_, ?_⟩
  · exact ⟨by decide +kernel, by decide +kernel, by decide +kernel, by decide +kernel, by decide +kernel, by decide +kernel,
      by decide +kernel, by decide +kernel⟩
  · rcases hm with rfl | rfl <;> decide +kernel

/-- An entry that waits at the head and one on the line behind another, at its fifteenth and sixteenth attempt. -/
theorem witness_OffersAndTheirEnds :
    running.sl.station ≠ 0 ∧ running.busOff = false ∧
      (let e : TxEntry := ⟨.hold, 15, false, some .hold⟩;
        e.sending.isSome = true ∧ 16 ≤ e.attempts + 1 ∧ (14 : Nat) + 1 < 16 ∧
          ∀ x ∈ [(⟨.go 1 .key, 0, false, none⟩ : TxEntry)] ++ [], x.sending = none) ∧
      (247 + 8 ≤ 255) ∧ ∀ x ∈ fresh.sl.queue, x.sending = none := by decide +kernel

/-- A station one error short of bus-off, and one at the 128th recessive run of a LINK_OFF. -/
theorem witness_LinkOffAndItsEnd :
    (∃ s : State, s.QueueLegal ∧ (∃ e ∈ s.sl.queue, e.sending.isSome = true) ∧ s.busOff = false ∧ 247 < s.sl.txErrors ∧
      ¬((128 ≤ s.sl.txErrors ∨ 128 ≤ s.sl.rxErrors) ∧ TxErrorKind.form = .noAcknowledgement)) ∧
    ∃ s : State, s.sl.recessive = 127 ∧ s.busOff = true ∧ s.sl.queue = [] ∧ s.sl.station ≠ 0 := by
  refine ⟨⟨{ running with
      sl.queue := [⟨.hold, 0, false, some .hold⟩], sl.txErrors := 248 }, ?_, by decide +kernel⟩,
    { running with sl.txErrors := 256, sl.recessive := 127 }, by decide +kernel⟩
  exact ⟨by decide +kernel, by decide +kernel, by decide +kernel, by decide +kernel, by decide +kernel, by decide +kernel,
    by decide +kernel, by decide +kernel⟩

theorem witness_LinkTimersExpire :
    running.sl.aloneTimer ≠ .stopped ∧ (after .aloneTimerExpiry running).sl.aloneTimer = .stopped ∧
      (running.sl.peer.get 31).silence = .stopped ∧
      (let s := after (.hold 31) running;
        (s.sl.peer.get 31).silence ≠ .stopped ∧ (s.sl.peer.get 31).state = .present) := by decide +kernel

theorem witness_ConfigurationMessages :
    (1 : Station) ≠ 0 ∧ running.addressed 3 = true ∧ running.addressed 0 = true ∧ running.sl.state = .running ∧
      joining.addressed 3 = true ∧ joining.sl.state = .joining ∧ joining.sl.assembly = none ∧
      (after (.configBegin 1 3) joining).sl.assembly = some ⟨joining.config, false⟩ ∧
      enterItem joining.config 10 0 64 = none ∧ (enterItem joining.config 10 0 63).isSome = true := by decide +kernel

theorem witness_ConfigurationItems :
    (2 : BitVec 16).toNat = 2 ∧ (2, Mode.safe) ∈ [(0, Mode.auto), (1, .latch), (2, .safe)] ∧
      2 < (3 : BitVec 16).toNat ∧ (32 : BitVec 16).toNat = (31 : LinkNo).val + 1 ∧ 32 < (33 : BitVec 16).toNat ∧
      (31 : BitVec 16).toNat = (31 : Station).val ∧ 27 < 28 ∧ 24 < 25 := by decide +kernel

/-- `fresh` with an assembly begun, whose window ends by a CONFIG_END or by the limit timer. -/
def assembling : State := after (.configBegin 1 3) fresh

theorem assembling_window : assembling.WindowLegal where
  joining := by decide +kernel
  running := by decide +kernel
  assembly := by decide +kernel
  still := by decide +kernel
  fades := by decide +kernel
  adopted := by decide +kernel

theorem witness_WindowEnds :
    (fresh.WindowLegal ∧ fresh.sl.state = .joining ∧ fresh.sl.windowTimer ≠ .stopped) ∧
      (assembling.WindowLegal ∧ assembling.sl.state = .joining ∧ assembling.sl.limitTimer ≠ .stopped ∧
        assembling.addressed 3 = true ∧ assembling.sl.assembly = some ⟨assembling.config, false⟩ ∧
        lawOrdered assembling.config.law = true) :=
  ⟨⟨fresh_window, by decide +kernel⟩, assembling_window, by decide +kernel⟩

/-- An assembly that changes the mode of channel 24 and the owner of GM8, without an adopted cue and with one. -/
theorem witness_AcceptanceApplied :
    let s := after (.configItem 1 3 7 8 4) (after (.configItem 1 3 1 24 2) assembling)
    s.addressed 3 = true ∧ s.sl.state = .joining ∧ s.seq.adoptedCue = 0 ∧
      (after (.go 1 4095 .key) s).seq.adoptedCue = 4095 ∧
      ∃ a, s.sl.assembly = some a ∧ a.rejected = false ∧ lawOrdered a.config.law = true ∧
        (a.config.chan.get 23).mode ≠ (s.config.chan.get 23).mode ∧ a.config.master.get 7 ≠ s.config.master.get 7 := by
  refine ⟨by decide +kernel, by decide +kernel, by decide +kernel, by decide +kernel, _,
    Option.eq_some_of_isSome (by decide +kernel), ?_⟩
  decide +kernel

theorem witness_OtherTimersExpire :
    running.sl.windowTimer = .stopped ∧ running.sl.limitTimer = .stopped ∧ State.reset.sl.station = 0 ∧
      (running.sl.station ≠ 0 ∧ running.busOff = false ∧ running.sl.queue = []) ∧ running.fi.burstTimer = .stopped ∧
      (after .goKeyPress running).fi.burstTimer ≠ .stopped ∧
      (let s : State := { running with gc.chan := running.gc.chan.set 0 ⟨off, off, .recovering, none, some ⟨off, 29, 30⟩⟩ };
        (s.gc.chan.get 0).glide = some ⟨off, 29, 30⟩ ∧ 30 ≤ 29 + 1 ∧ 29 < 30) := by decide +kernel

/-- Nothing in flight with channels queued; a LEVEL and a POLL in flight, with a previous transfer record. -/
theorem witness_Transfers :
    (running.gp.inFlight = none ∧ running.gp.queue ≠ []) ∧
      (after .levelTransfer running).gp.inFlight = some (.level 0 off 1) ∧
      (let s := after (.transferComplete 0) (after .levelTransfer running);
        s.gp.previous = some ⟨0, 1, off⟩) := by decide +kernel

theorem witness_FramesDecode :
    (1 : Station) ≠ 0 ∧ ((Msg.presence true true 4095 0xffff 0xff).frame 31).isSome = true := by decide +kernel

theorem witness_StoreAndConfigurationKept : fresh.cs.Legal ∧ fresh.ConfigLegal ∧ ∃ t, step fresh = .next t :=
  ⟨fresh_store, fresh_config, fresh_step.imp fun _ h => h.1⟩

theorem witness_FadesKept : fresh.cs.Legal ∧ fresh.ConfigLegal ∧ fresh.FadesLegal ∧ ∃ t, step fresh = .next t :=
  ⟨fresh_store, fresh_config, fresh_fades, fresh_step.imp fun _ h => h.1⟩

theorem witness_OutputsKept :
    fresh.ConfigLegal ∧ fresh.ActionsLegal ∧ fresh.OutputsAgree ∧ fresh.FlagsAgree ∧ ∃ t, step fresh = .next t :=
  ⟨fresh_config, fresh_actions, fresh_outputs, fresh_flags, fresh_step.imp fun _ h => h.1⟩

theorem witness_LevelsKept :
    fresh.cs.Legal ∧ fresh.ConfigLegal ∧ fresh.FadesLegal ∧ fresh.ActionsLegal ∧ fresh.LevelsLegal ∧
      ∃ t, step fresh = .next t :=
  ⟨fresh_store, fresh_config, fresh_fades, fresh_actions, fresh_levels, fresh_step.imp fun _ h => h.1⟩

theorem witness_PanelPeersAndWindowKept :
    fresh.ConfigLegal ∧ fresh.PanelLegal ∧ fresh.PeersLegal ∧ fresh.WindowLegal ∧ ∃ t, step fresh = .next t :=
  ⟨fresh_config, fresh_panel, fresh_peers, fresh_window, fresh_step.imp fun _ h => h.1⟩

theorem witness_LinksAndTakeoverKept :
    fresh.ConfigLegal ∧ fresh.PanelLegal ∧ fresh.PeersLegal ∧ fresh.WindowLegal ∧
      (∀ l, fresh.LinkLegal l ∧ fresh.TouchingLegal l) ∧ fresh.TakeoverLegal ∧ ∃ t, step fresh = .next t :=
  ⟨fresh_config, fresh_panel, fresh_peers, fresh_window, fun l => ⟨fresh_link l, fresh_touching l⟩, fresh_takeover,
    fresh_step.imp fun _ h => h.1⟩

theorem witness_QueuesAndRecordsKept :
    fresh.QueueLegal ∧ fresh.ErrorsLegal ∧ fresh.gp.queue.Nodup ∧ fresh.AssertionsAgree ∧ fresh.fi.Legal ∧
      ∃ t, step fresh = .next t :=
  ⟨fresh_queue, fresh_errors, by decide +kernel, fresh_assertions, fresh_faults, fresh_step.imp fun _ h => h.1⟩

theorem witness_WhatStands : ∃ t, exec .frameOffer fresh = .next t := by
  simp only [exec]
  exact ⟨_, rfl⟩

end Sys2Proof.Tests
end

/-! SUPPORT. Level arithmetic (chapter 1): progress, the four curves, interpolation and the fader law; it settles O8, O9 and
O10. -/

namespace Sys2Proof.Machine

/-! ## Progress and curves (R3, R4) -/

theorem progress_zero (d : Nat) : progress 0 d = 0 := by simp [progress]

theorem progress_self {d : Nat} (hd : 1 ≤ d) : progress d d = 4096 := Nat.mul_div_cancel_left 4096 hd

theorem progress_mono (d : Nat) {e e' : Nat} (h : e ≤ e') : progress e d ≤ progress e' d :=
  Nat.div_le_div_right (Nat.mul_le_mul_right 4096 h)

theorem progress_le {e d : Nat} (h : e ≤ d) : progress e d ≤ 4096 := Nat.div_le_of_le_mul (Nat.mul_le_mul_right 4096 h)

/-- Progress is complete at the full count alone (R3). -/
theorem eq_of_progress_eq_full {e d : Nat} (h : e ≤ d) (hp : progress e d = 4096) : e = d := by
  have hle : e * 4096 / d * d ≤ e * 4096 := Nat.div_mul_le_self (e * 4096) d
  rw [show e * 4096 / d = 4096 from hp] at hle
  omega

theorem shape_zero (k : Curve) : shape k 0 = 0 := by cases k <;> rfl

theorem shape_full (k : Curve) : shape k 4096 = 4096 := by cases k <;> rfl

/-- The numerator of the S curve rises up to the full progress: its difference factors with a factor of
12288(q+p) − 2(q²+qp+p²), which no progress makes negative. -/
theorem sCurve_numerator_mono {p q : Nat} (h : p ≤ q) (hq : q ≤ 4096) :
    p * p * (12288 - 2 * p) ≤ q * q * (12288 - 2 * q) := by
  zify [show 2 * p ≤ 12288 by omega, show 2 * q ≤ 12288 by omega]
  have hpq : (p : Int) ≤ q := by exact_mod_cast h
  have hq' : (q : Int) ≤ 4096 := by exact_mod_cast hq
  have hp0 : (0 : Int) ≤ p := by positivity
  have hfactor : (0 : Int) ≤ 12288 * (q + p) - 2 * (q * q + q * p + p * p) := by nlinarith
  nlinarith [mul_nonneg (sub_nonneg.mpr hpq) hfactor]

/-- No curve ever falls (R4). -/
theorem shape_mono (k : Curve) {p q : Nat} (h : p ≤ q) (hq : q ≤ 4096) : shape k p ≤ shape k q := by
  cases k with
  | linear => exact h
  | easeIn => exact Nat.div_le_div_right (Nat.mul_le_mul h h)
  | easeOut =>
    have hc : 4096 - q ≤ 4096 - p := Nat.sub_le_sub_left h 4096
    exact Nat.sub_le_sub_left (Nat.div_le_div_right (Nat.mul_le_mul hc hc)) 4096
  | sCurve => exact Nat.div_le_div_right (sCurve_numerator_mono h hq)

theorem shape_le (k : Curve) {p : Nat} (hp : p ≤ 4096) : shape k p ≤ 4096 :=
  (shape_mono k hp le_rfl).trans_eq (shape_full k)

/-- Settles O8, from the monotone quotient of progress and the shape of each curve. -/
theorem progressAndCurves : Obligations.ProgressAndCurves := by
  refine ⟨fun d hd => ⟨progress_zero d, progress_self hd, fun e he => ⟨rfl, progress_le he, eq_of_progress_eq_full he,
    fun e' h => progress_mono d h, fun h => by omega⟩⟩, fun p => ⟨rfl, rfl, rfl, rfl⟩, fun k => ⟨shape_zero k, shape_full k,
    fun p q h hq => ⟨shape_mono k h hq, shape_le k hq⟩⟩⟩

/-! ## Interpolation (R5, R7, R8) -/

/-- A rise truncated toward zero: `f` parts of `n` of a difference `x` lie between 0 and `x`. -/
theorem tdiv_part_nonneg {x : Int} {f n : Nat} (hx : 0 ≤ x) (hf : f ≤ n) (hn : 0 < n) :
    0 ≤ (x * f).tdiv n ∧ (x * f).tdiv n ≤ x := by
  have hn' : (0 : Int) < n := by exact_mod_cast hn
  have hxf : x * f ≤ x * n := mul_le_mul_of_nonneg_left (by exact_mod_cast hf) hx
  refine ⟨Int.tdiv_nonneg (by positivity) hn'.le, ?_⟩
  calc (x * f).tdiv n ≤ (x * n).tdiv n := Int.tdiv_le_tdiv hn' hxf
    _ = x := Int.mul_tdiv_cancel _ hn'.ne'

theorem tdiv_part_nonpos {x : Int} {f n : Nat} (hx : x ≤ 0) (hf : f ≤ n) (hn : 0 < n) :
    x ≤ (x * f).tdiv n ∧ (x * f).tdiv n ≤ 0 := by
  have h := tdiv_part_nonneg (x := -x) (by omega) hf hn
  rw [neg_mul, Int.neg_tdiv] at h
  omega

theorem interpolate_zero (a t : Level) : interpolate a t 0 = a := by simp [interpolate]

theorem interpolate_full (a t : Level) : interpolate a t 4096 = t := by
  have h : ((t - a) * 4096).tdiv 4096 = t - a := Int.mul_tdiv_cancel _ (by decide)
  simp only [interpolate, Nat.cast_ofNat, h]
  exact add_sub_cancel a t

/-- An interpolated level lies between its ends (R5, R7). -/
theorem interpolate_between (a t : Int) {s : Nat} (hs : s ≤ 4096) :
    min a t ≤ (interpolate a t s : Int) ∧ (interpolate a t s : Int) ≤ max a t := by
  change min a t ≤ a + ((t - a) * s).tdiv 4096 ∧ a + ((t - a) * s).tdiv 4096 ≤ max a t
  rcases le_total a t with h | h
  · have k : 0 ≤ ((t - a) * s).tdiv 4096 ∧ ((t - a) * s).tdiv 4096 ≤ t - a :=
      tdiv_part_nonneg (sub_nonneg.mpr h) hs (by decide)
    omega
  · have k : t - a ≤ ((t - a) * s).tdiv 4096 ∧ ((t - a) * s).tdiv 4096 ≤ 0 :=
      tdiv_part_nonpos (sub_nonpos.mpr h) hs (by decide)
    omega

theorem interpolate_rises {a t : Level} (h : a ≤ t) {s s' : Nat} (hs : s ≤ s') : interpolate a t s ≤ interpolate a t s' := by
  have hp : (t - a) * (s : Int) ≤ (t - a) * s' := mul_le_mul_of_nonneg_left (by exact_mod_cast hs) (sub_nonneg.mpr h)
  exact Int.add_le_add_left (Int.tdiv_le_tdiv (by decide) hp) a

theorem interpolate_falls {a t : Level} (h : t ≤ a) {s s' : Nat} (hs : s ≤ s') : interpolate a t s' ≤ interpolate a t s := by
  have hp : (t - a) * (s' : Int) ≤ (t - a) * s := mul_le_mul_of_nonpos_left (by exact_mod_cast hs) (sub_nonpos.mpr h)
  exact Int.add_le_add_left (Int.tdiv_le_tdiv (by decide) hp) a

/-- An interpolated level moves in the direction in which its target moves (R8). -/
theorem interpolate_target_mono (a : Level) {t t' : Level} (h : t ≤ t') (s : Nat) : interpolate a t s ≤ interpolate a t' s := by
  have hp : (t - a) * (s : Int) ≤ (t' - a) * s := mul_le_mul_of_nonneg_right (sub_le_sub_right h a) (by positivity)
  exact Int.add_le_add_left (Int.tdiv_le_tdiv (by decide) hp) a

theorem FadeRecord.level_between (r : FadeRecord) (h : r.elapsed ≤ r.duration) :
    min r.start r.target ≤ r.level ∧ r.level ≤ max r.start r.target :=
  interpolate_between _ _ (shape_le _ (progress_le h))

theorem Glide.level_ended {g : Glide} (h : g.duration ≤ g.elapsed) (t : Level) : g.level t = t := if_pos h

theorem Glide.level_running {g : Glide} (h : g.elapsed < g.duration) (t : Level) :
    g.level t = interpolate g.start t (progress g.elapsed g.duration) := if_neg (by omega)

theorem Glide.level_between (g : Glide) (t : Level) : min g.start t ≤ g.level t ∧ g.level t ≤ max g.start t := by
  rcases Nat.lt_or_ge g.elapsed g.duration with h | h
  · rw [Glide.level_running h]; exact interpolate_between _ _ (progress_le h.le)
  · rw [Glide.level_ended h]; exact ⟨min_le_right .., le_max_right ..⟩

theorem Glide.level_mono (g : Glide) {t t' : Level} (h : t ≤ t') : g.level t ≤ g.level t' := by
  rcases Nat.lt_or_ge g.elapsed g.duration with k | k
  · rw [Glide.level_running k, Glide.level_running k]; exact interpolate_target_mono _ h _
  · rwa [Glide.level_ended k, Glide.level_ended k]

/-- Settles O9, from interpolation: a truncated part of a difference lies between 0 and the difference and grows with the
part. -/
theorem fadesAndGlidesStayBetween : Obligations.FadesAndGlidesStayBetween := by
  refine ⟨fun a t d k hd => ?_, fun a t d e => ?_⟩
  · refine ⟨?_, ?_, fun e he => ⟨rfl, ?_⟩⟩
    · simp only [FadeRecord.level, progress_zero, shape_zero, interpolate_zero]
    · simp only [FadeRecord.level, progress_self hd, shape_full, interpolate_full]
    · obtain ⟨hlow, hhigh⟩ := FadeRecord.level_between ⟨0, a, t, d, e, k⟩ he
      have rises : ∀ e', e ≤ e' → e' ≤ d → shape k (progress e d) ≤ shape k (progress e' d) := fun e' h h' =>
        shape_mono k (progress_mono d h) (progress_le h')
      exact ⟨hlow, hhigh, fun e' h h' =>
        ⟨fun hat => interpolate_rises hat (rises e' h h'), fun hta => interpolate_falls hta (rises e' h h')⟩⟩
  · obtain ⟨hlow, hhigh⟩ := Glide.level_between ⟨a, e, d⟩ t
    exact ⟨fun h => Glide.level_ended h t, fun h => Glide.level_running h t, fun h => Glide.level_start a t d (by omega),
      hlow, hhigh, fun t' h => Glide.level_mono _ h⟩

/-! ## The fader law (R9 to R11) -/

theorem breakpoint_fin (law : Table 16 Level) (b : Fin 16) : breakpoint law b.val = law.get b := dif_pos b.isLt

theorem lawOrdered_iff_next (law : Table 16 Level) :
    lawOrdered law = true ↔ ∀ k < 15, breakpoint law k ≤ breakpoint law (k + 1) := by
  simp [lawOrdered]

/-- A law in order rises from any breakpoint to any later one (R11). -/
theorem breakpoint_mono {law : Table 16 Level} (ho : lawOrdered law = true) {i j : Nat} (h : i ≤ j) (hj : j ≤ 15) :
    breakpoint law i ≤ breakpoint law j := by
  induction j, h using Nat.le_induction with
  | base => exact le_rfl
  | succ j _ ih => exact (ih (by omega)).trans ((lawOrdered_iff_next law).mp ho j (by omega))

theorem lawOrdered_iff (law : Table 16 Level) :
    lawOrdered law = true ↔ ∀ i j : Fin 16, i.val ≤ j.val → law.get i ≤ law.get j := by
  constructor
  · intro ho i j h
    rw [← breakpoint_fin, ← breakpoint_fin]
    exact breakpoint_mono ho h (by omega)
  · intro h
    refine (lawOrdered_iff_next law).mpr fun k hk => ?_
    have hstep := h ⟨k, by omega⟩ ⟨k + 1, by omega⟩ (by simp)
    rwa [← breakpoint_fin, ← breakpoint_fin] at hstep

/-- The level at offset `f` of segment `k` (R9 steps 4 and 5). -/
def segmentLevel (law : Table 16 Level) (k f : Nat) : Level :=
  breakpoint law k + Int.tdiv ((breakpoint law (k + 1) - breakpoint law k) * f) 255

theorem lawLevel_eq (law : Table 16 Level) (c : Nat) : lawLevel law c = segmentLevel law (position c / 256) (position c % 256) :=
  rfl

theorem segmentLevel_zero (law : Table 16 Level) (k : Nat) : segmentLevel law k 0 = breakpoint law k := by
  simp [segmentLevel]

theorem segmentLevel_end (law : Table 16 Level) (k : Nat) : segmentLevel law k 255 = breakpoint law (k + 1) := by
  have h : ((breakpoint law (k + 1) - breakpoint law k) * 255).tdiv 255 = breakpoint law (k + 1) - breakpoint law k :=
    Int.mul_tdiv_cancel _ (by decide)
  simp only [segmentLevel, Nat.cast_ofNat, h]
  exact add_sub_cancel ..

section
variable {law : Table 16 Level} (ho : lawOrdered law = true)
include ho

/-- A segment of a law in order rises with the offset. -/
theorem segmentLevel_mono {k f f' : Nat} (hk : k < 15) (hf : f ≤ f') : segmentLevel law k f ≤ segmentLevel law k f' := by
  have hstep := (lawOrdered_iff_next law).mp ho k hk
  have hp : (breakpoint law (k + 1) - breakpoint law k) * (f : Int) ≤ (breakpoint law (k + 1) - breakpoint law k) * f' :=
    mul_le_mul_of_nonneg_left (by exact_mod_cast hf) (sub_nonneg.mpr hstep)
  exact Int.add_le_add_left (Int.tdiv_le_tdiv (by decide) hp) _

theorem segmentLevel_between {k f : Nat} (hk : k < 15) (hf : f ≤ 255) :
    breakpoint law k ≤ segmentLevel law k f ∧ segmentLevel law k f ≤ breakpoint law (k + 1) := by
  have hlow := segmentLevel_mono ho hk (Nat.zero_le f)
  have hhigh := segmentLevel_mono ho hk hf
  rw [segmentLevel_zero] at hlow
  rw [segmentLevel_end] at hhigh
  exact ⟨hlow, hhigh⟩

/-- A fader moved up never lowers the level (R9). -/
theorem lawLevel_mono {c c' : Nat} (h : c ≤ c') : lawLevel law c ≤ lawLevel law c' := by
  simp only [lawLevel_eq]
  have hq : position c ≤ position c' ∧ position c' ≤ 3839 := by simp only [position]; omega
  rcases Nat.lt_or_ge (position c / 256) (position c' / 256) with hk | hk
  · calc _ ≤ breakpoint law (position c / 256 + 1) := (segmentLevel_between ho (by omega) (by omega)).2
      _ ≤ breakpoint law (position c' / 256) := breakpoint_mono ho hk (by omega)
      _ ≤ _ := (segmentLevel_between ho (by omega) (by omega)).1
  · have e : position c / 256 = position c' / 256 := by omega
    rw [e]
    exact segmentLevel_mono ho (by omega) (by omega)

theorem lawLevel_between (c : Nat) : law.get 0 ≤ lawLevel law c ∧ lawLevel law c ≤ law.get 15 := by
  rw [lawLevel_eq, ← breakpoint_fin, ← breakpoint_fin]
  have hq : position c ≤ 3839 := by simp only [position]; omega
  obtain ⟨hlow, hhigh⟩ := segmentLevel_between (law := law) ho (k := position c / 256) (f := position c % 256)
    (by omega) (by omega)
  exact ⟨(breakpoint_mono ho (Nat.zero_le _) (by omega)).trans hlow, hhigh.trans (breakpoint_mono ho (by omega) le_rfl)⟩

theorem lawLevel_inScale (hs : ∀ b, InScale (law.get b)) (c : Nat) : InScale (lawLevel law c) :=
  ⟨(hs 0).1.trans (lawLevel_between ho c).1, (lawLevel_between ho c).2.trans (hs 15).2⟩

end

theorem lawLevel_at_start (law : Table 16 Level) {c k : Nat} (h : position c = 256 * k) : lawLevel law c = breakpoint law k := by
  rw [lawLevel_eq, h, Nat.mul_div_cancel_left k (by decide), Nat.mul_mod_right, segmentLevel_zero]

theorem lawLevel_at_end (law : Table 16 Level) {c k : Nat} (h : position c = 256 * k + 255) :
    lawLevel law c = breakpoint law (k + 1) := by
  rw [lawLevel_eq, h, show (256 * k + 255) / 256 = k by omega, show (256 * k + 255) % 256 = 255 by omega, segmentLevel_end]

theorem position_eq {c q : Nat} (h : (q : Int) = max 0 (min ((c : Int) - 128) 3839)) : position c = q := by
  simp only [position]; omega

/-- Settles O10, by the segment of the position: within one by its slope, across segments by the order of the breakpoints. -/
theorem faderLawRises : Obligations.FaderLawRises := by
  refine ⟨fun law => ⟨lawOrdered_iff law, breakpoint_fin law⟩, fun law hs ho => ⟨fun raw offset => ?_, fun c q h => ?_,
    fun c c' h => lawLevel_mono ho h, lawLevel_inScale ho hs, fun c h => ?_, fun c h => ?_, fun k => ⟨?_, ?_⟩⟩⟩
  · simp only [calibrate, clamp]; omega
  · rw [lawLevel_eq, position_eq h, segmentLevel]
  · rw [← breakpoint_fin]; exact lawLevel_at_start law (k := 0) (by simp only [position]; omega)
  · rw [← breakpoint_fin]; exact lawLevel_at_end law (k := 14) (by simp only [position]; omega)
  · exact lawLevel_at_start law (by simp only [position]; omega)
  · exact lawLevel_at_end law (by simp only [position]; omega)

end Sys2Proof.Machine

/-! SUPPORT. Composition (R12 to R14), the protective-action stage (R172 to R174) and the end of an event (R15, R162, R171 to R179);
it settles O11, O3 and O12. -/

namespace Sys2Proof.Machine

/-! ## Sum and saturation (R12, R13) -/

theorem levelSum_eq_none {x : Level} {l : List Level} : levelSum x l = none ↔ x = off ∨ off ∈ l := by
  simp [levelSum, or_iff_not_imp_left]

theorem levelSum_eq_some {x : Level} {l : List Level} {y : Int} :
    levelSum x l = some y ↔ (x ≠ off ∧ off ∉ l) ∧ x + l.sum = y := by
  simp [levelSum]

/-- A sum over the entries that a test picks is the sum of all, the others counted as 0. -/
theorem sum_filter_map {α : Type} (l : List α) (p : α → Bool) (f : α → Int) :
    ((l.filter p).map f).sum = (l.map fun a => if p a then f a else 0).sum := by
  induction l with
  | nil => rfl
  | cons a l ih => by_cases h : p a <;> simp [h, ih]

theorem mem_masterLevels {s : State} {c : Channel} {x : Level} :
    x ∈ s.masterLevels c ↔ ∃ m, s.inMaster c m = true ∧ (s.sg.master.get m).level = x := by
  simp [State.masterLevels, List.mem_finRange]

theorem masterLevels_sum (s : State) (c : Channel) :
    (s.masterLevels c).sum = ∑ m : MasterNo, if s.inMaster c m then (s.sg.master.get m).level else 0 := by
  rw [State.masterLevels, sum_filter_map, Fin.sum_univ_def]

/-- Eight terms that are each 0 or a level other than OFF sum to between −7192 and 800. -/
theorem sum_masters_between (f : MasterNo → Int) (h : ∀ m, -899 ≤ f m ∧ f m ≤ 100) : -7192 ≤ ∑ m, f m ∧ ∑ m, f m ≤ 800 := by
  rw [Fin.sum_univ_eight]
  have h0 := h 0; have h1 := h 1; have h2 := h 2; have h3 := h 3
  have h4 := h 4; have h5 := h 5; have h6 := h 6; have h7 := h 7
  omega

/-- A level of the scale other than OFF is at least −899. -/
theorem InScale.bounds_of_ne {x : Int} (h : InScale x) (hx : x ≠ off) : -899 ≤ x ∧ x ≤ 100 := by
  have hlow : -900 ≤ x := h.1
  have hne : x ≠ -900 := hx
  exact ⟨by omega, h.2⟩

theorem levelSum_bounds {s : State} {c : Channel} {x : Int} (hs : InScale (s.sourceLevel c))
    (hm : ∀ m, InScale (s.sg.master.get m).level) (h : levelSum (s.sourceLevel c) (s.masterLevels c) = some x) :
    -8091 ≤ x ∧ x ≤ 900 := by
  obtain ⟨⟨hsource, hmasters⟩, hx⟩ := levelSum_eq_some.mp h
  have hsum := sum_masters_between (fun m => if s.inMaster c m then (s.sg.master.get m).level else 0) fun m => by
    by_cases hin : s.inMaster c m = true
    · simp only [hin, if_true]
      exact (hm m).bounds_of_ne fun e => hmasters (mem_masterLevels.mpr ⟨m, hin, e⟩)
    · simp [hin]
  rw [← masterLevels_sum] at hsum
  obtain ⟨hlow, hhigh⟩ := hs.bounds_of_ne hsource
  exact hx ▸ ⟨by linarith, by linarith⟩

theorem saturate_none (ceiling : Level) : saturate ceiling none = off := rfl

theorem saturate_low (ceiling : Level) {x : Int} (h : x < -899) : saturate ceiling (some x) = off := if_pos h

theorem saturate_some (ceiling : Level) {x : Int} (h : -899 ≤ x) : saturate ceiling (some x) = min x ceiling :=
  if_neg (not_lt.mpr h)

/-- A saturated level is OFF or lies in −899..ceiling (R13). -/
theorem saturate_off_or (ceiling : Int) (h : -899 ≤ ceiling) (x : Option Int) :
    saturate ceiling x = off ∨ -899 ≤ saturate ceiling x ∧ saturate ceiling x ≤ ceiling := by
  cases x with
  | none => exact .inl rfl
  | some x =>
    rcases lt_or_ge x (-899) with hx | hx
    · exact .inl (saturate_low ceiling hx)
    · rw [saturate_some ceiling hx]
      exact .inr ⟨le_min hx h, min_le_right ..⟩

/-! ## The source level and the mutes (R14, R103) -/

section
variable {s : State} {c : Channel}

theorem sourceLevel_of_cue (h : (s.tk.chan.get c).state = .cue ∨ (s.tk.chan.get c).state = .overridden) :
    s.sourceLevel c = (s.fe.chan.get c).cueLevel := by
  rcases h with h | h <;> simp [State.sourceLevel, h]

theorem sourceLevel_of_manual (h : (s.tk.chan.get c).state = .touched ∨ (s.tk.chan.get c).state = .latched) :
    s.sourceLevel c = (s.tk.chan.get c).manual := by
  rcases h with h | h <;> simp [State.sourceLevel, h]

theorem sourceLevel_of_returning (h : (s.tk.chan.get c).state = .returning) :
    s.sourceLevel c =
      ((s.tk.chan.get c).glide.map fun g => g.level (s.fe.chan.get c).cueLevel).getD (s.fe.chan.get c).cueLevel := by
  simp [State.sourceLevel, h]

theorem sourceLevel_of_safeManual (h : (s.tk.chan.get c).state = .safeManual) : s.sourceLevel c = s.faderLevel c := by
  simp [State.sourceLevel, h]

theorem isMuted_iff :
    s.isMuted c = true ↔ (s.fe.chan.get c).cueMute = true ∨ s.pi.panelMute.get c = true ∨
      ∃ (g : GroupNo) (p : Station),
        (s.config.chan.get c).groups.getLsbD g.val = true ∧ (s.sg.asserters.get g).get p = true := by
  simp [State.isMuted, State.groupMuted, State.inGroup, State.muting, anyIndex_iff, or_assoc]

theorem composedLevel_muted (h : s.isMuted c = true) : s.composedLevel c = off := if_pos h

theorem composedLevel_open (h : ¬s.isMuted c = true) :
    s.composedLevel c = saturate (s.config.chan.get c).ceiling (levelSum (s.sourceLevel c) (s.masterLevels c)) := if_neg h

theorem composedLevel_off_or (h : -899 ≤ (s.config.chan.get c).ceiling) :
    s.composedLevel c = off ∨ -899 ≤ s.composedLevel c ∧ s.composedLevel c ≤ (s.config.chan.get c).ceiling := by
  by_cases hm : s.isMuted c = true
  · exact .inl (composedLevel_muted hm)
  · rw [composedLevel_open hm]; exact saturate_off_or _ h _

end

/-- Settles O11, from the lemmas of the source level, the sum, the saturation and the mutes, in this order. -/
theorem sumAndComposedLevel : Obligations.SumAndComposedLevel := by
  refine ⟨fun s c => ⟨sourceLevel_of_cue, sourceLevel_of_manual, fun h g hg => ?_, sourceLevel_of_safeManual⟩,
    fun s c => ⟨?_, fun x hx => ?_, fun hs hm x hx => levelSum_bounds hs hm hx⟩, fun s c => ?_⟩
  · rw [sourceLevel_of_returning h, hg]; rfl
  · rw [levelSum_eq_none, mem_masterLevels]; rfl
  · obtain ⟨-, rfl⟩ := levelSum_eq_some.mp hx
    rw [masterLevels_sum]; rfl
  · intro ceiling sum x muted
    have hmuted : s.isMuted c = true ↔ muted := isMuted_iff
    refine ⟨fun h => composedLevel_muted (hmuted.mpr h), fun h hn => ?_, fun h y hy => ?_, composedLevel_off_or⟩
    all_goals have hx : x = saturate ceiling sum := composedLevel_open (hmuted.not.mpr h)
    · rw [hx, hn, saturate_none]
    · rw [hx, hy]
      refine ⟨saturate_low ceiling, fun hc hl => ?_, fun hl hc => ?_⟩
      · rw [saturate_some ceiling hl]; exact min_eq_right (le_of_lt hc)
      · rw [saturate_some ceiling hl]; exact min_eq_left hc

/-! ## The action stage (R172 to R174) -/

namespace ComposerChannel

variable (g : ComposerChannel) (duck : Level)

theorem level_none (h : g.action = .none) : g.level duck = g.composed := by simp [level, h]
theorem level_hold (h : g.action = .hold) : g.level duck = g.held.getD g.applied := by simp [level, h]
theorem level_duck (h : g.action = .duck) : g.level duck = min g.composed duck := by simp [level, h, ducked]
theorem level_mute (h : g.action = .mute) : g.level duck = off := by simp [level, h]
theorem level_recovering (h : g.action = .recovering) :
    g.level duck = (g.glide.map fun r => r.level g.composed).getD g.composed := by simp [level, h]

/-- A recovery glide of a duration other than 0 starts at its start level (R175). -/
theorem hand_none_form (recovery : Nat) (h : recovery ≠ 0) :
    (g.hand .none recovery).form duck = ⟨g.composed, g.applied, .recovering, none, some ⟨g.applied, 0, recovery⟩⟩ := by
  simp [hand, form, level, h, Glide.level_start]

/-- The record of a channel after a newly handed action (R173). -/
theorem hand_form (a : Action) (recovery : Nat) :
    (g.hand a recovery).form duck =
      match a with
      | .hold => ⟨g.composed, g.applied, .hold, some g.applied, none⟩
      | .duck => ⟨g.composed, min g.composed duck, .duck, none, none⟩
      | .mute => ⟨g.composed, off, .mute, none, none⟩
      | .none =>
        if recovery = 0 then ⟨g.composed, g.composed, .none, none, none⟩
        else ⟨g.composed, g.applied, .recovering, none, some ⟨g.applied, 0, recovery⟩⟩ := by
  cases a with
  | hold => rfl
  | duck => rfl
  | mute => rfl
  | none =>
    by_cases h : recovery = 0
    · simp [hand, form, level, h]
    · simp only [if_neg h, hand_none_form g duck recovery h]

end ComposerChannel

theorem Action.rank_le_max_left (a b : Action) : a.rank ≤ (a.max b).rank := by
  unfold Action.max; split <;> omega

theorem Action.rank_le_max_right (a b : Action) : b.rank ≤ (a.max b).rank := by
  unfold Action.max; split <;> omega

theorem Action.max_eq_or (a b : Action) : a.max b = a ∨ a.max b = b := by
  unfold Action.max; split <;> simp

theorem mapped_eq_none_or (present : Bool) (a : Action) : mapped present a = .none ∨ present = true ∧ mapped present a = a := by
  cases present
  · exact .inl rfl
  · exact .inr ⟨rfl, rfl⟩

/-- The highest of the actions mapped from the conditions that are present (R172). -/
def highest : List (Bool × Action) → Action
  | [] => .none
  | x :: l => (mapped x.1 x.2).max (highest l)

theorem rank_le_highest {l : List (Bool × Action)} {x : Bool × Action} (hx : x ∈ l) (h : x.1 = true) :
    x.2.rank ≤ (highest l).rank := by
  induction l with
  | nil => cases hx
  | cons y l ih =>
    rcases List.mem_cons.mp hx with rfl | hx
    · have hm : mapped x.1 x.2 = x.2 := by simp [mapped, h]
      simpa only [highest, hm] using Action.rank_le_max_left x.2 (highest l)
    · exact (ih hx).trans (Action.rank_le_max_right ..)

theorem highest_eq_none_or (l : List (Bool × Action)) : highest l = .none ∨ ∃ x ∈ l, x.1 = true ∧ x.2 = highest l := by
  induction l with
  | nil => exact .inl rfl
  | cons y l ih =>
    rcases Action.max_eq_or (mapped y.1 y.2) (highest l) with h | h
    · rcases mapped_eq_none_or y.1 y.2 with hn | ⟨hy, hm⟩
      · exact .inl (h.trans hn)
      · exact .inr ⟨y, by simp, hy, (h.trans hm).symm⟩
    · rcases ih with hn | ⟨x, hx, h1, h2⟩
      · exact .inl (h.trans hn)
      · exact .inr ⟨x, by simp [hx], h1, h2.trans h.symm⟩

theorem Action.max_none (a : Action) : a.max .none = a := by cases a <;> rfl

theorem Configuration.effective_eq_highest (k : Configuration) (cond : ChannelConditions) (linkOff : Bool) :
    k.effective cond linkOff =
      highest [(cond.faderFault, k.actions.get 0), (cond.groupStale, k.actions.get 1), (cond.mismatch, k.actions.get 2),
        (linkOff, k.actions.get 3)] := by
  simp only [highest, Action.max_none, Configuration.effective]

/-! ## The end of an event -/

section
variable (w s : State)

theorem settle_channel (c : Channel) : w.settle.gc.chan.get c = w.composeChannel c (w.gc.chan.get c) := by
  simp only [State.settle, State.drive_gc, State.takeConditions_gc, State.compose, Table.get_mapAt]

theorem settle_effective (c : Channel) : w.settle.fi.effective.get c = w.effectiveAction c := by
  simp only [State.settle, State.drive_fi_effective, State.takeConditions_fi_effective, State.compose, Table.get_ofFn]

theorem settle_cond (c : Channel) : w.settle.fi.cond.get c = w.channelConditions c := by
  simp only [State.settle, State.drive_fi_cond, State.takeConditions_fi_cond, State.compose, Table.get_ofFn]

/-- What `settle` forms, and that it changes nothing else. -/
theorem settle_eq :
    w.settle =
      { w with
        gc.chan := w.settle.gc.chan
        fi.cond := w.settle.fi.cond
        fi.effective := w.settle.fi.effective
        fi.taken := w.settle.fi.taken
        fi.flags := w.settle.fi.flags
        fi.faultLine := w.settle.fi.faultLine
        fi.stateLed := w.settle.fi.stateLed
        fi.muteLed := w.settle.fi.muteLed
        fi.goLed := w.settle.fi.goLed
        fi.stationLed := w.settle.fi.stationLed } := by
  simp only [State.settle, State.compose, State.takeConditions, State.drive]

theorem commit_channel (c : Channel) : (w.commit s).gc.chan.get c = w.composeChannel c (w.gc.chan.get c) := by
  rw [State.commit_gc, settle_channel]

theorem commit_effective (c : Channel) : (w.commit s).fi.effective.get c = w.effectiveAction c := by
  rw [State.commit_fi, settle_effective]

theorem compose_condition (f : Flag) : w.compose.condition f = w.condition f := by
  cases f <;>
    simp [State.condition, State.busOff, State.groupStale, State.inMaster, State.config]

theorem settle_taken (b : Fin 12) : w.settle.fi.taken.get b = w.condition (flagAt b) := by
  simp only [State.settle, State.drive_fi_taken, State.takeConditions, Table.get_ofFn, compose_condition]

theorem settle_flags (b : Fin 12) :
    w.settle.fi.flags.get b = (w.fi.flags.get b || (w.condition (flagAt b) && !w.fi.taken.get b)) := by
  simp only [State.settle, State.drive_fi_flags, State.takeConditions, Table.get_ofFn, compose_condition,
    State.compose_fi_flags, State.compose_fi_taken]

theorem flagAt_bit (f : Flag) : flagAt f.bit = f := by cases f <;> rfl

/-- A flag at the end of an event: set before, or set by a condition that has become present (R176). -/
theorem commit_flag (f : Flag) :
    (w.commit s).flag f = (w.flag f || (w.condition f && !w.fi.taken.get f.bit)) := by
  rw [State.flag, State.commit_fi, settle_flags, flagAt_bit, State.flag]

end

/-! The FAULT line and the LEDs as `drive` leaves them are those of the state it leaves (R177, R179). -/

section
variable (u : State)

theorem drive_faultLine : u.drive.fi.faultLine = u.drive.faultActive := rfl

theorem drive_stateLed (c : Channel) : u.drive.fi.stateLed.get c = u.drive.statePattern c := Table.get_ofFn u.statePattern c

theorem drive_muteLed (c : Channel) : u.drive.fi.muteLed.get c = u.drive.mutePattern c := Table.get_ofFn u.mutePattern c

theorem drive_goLed : u.drive.fi.goLed = u.drive.goPattern := rfl

theorem drive_stationLed : u.drive.fi.stationLed = u.drive.stationPattern := rfl

/-- The update queue bears on no indicator. -/
theorem OutputsAgree.indicators_queue (q : List Channel) (c : Channel) :
    let t : State := { u with gp.queue := q }
    t.faultActive = u.faultActive ∧ t.statePattern c = u.statePattern c ∧ t.mutePattern c = u.mutePattern c ∧
      t.goPattern = u.goPattern ∧ t.stationPattern = u.stationPattern :=
  ⟨rfl, rfl, rfl, rfl, rfl⟩
end

namespace ComposerChannel

/-- A formed record's applied level is the one that its action state gives (R174). -/
theorem form_applied (g : ComposerChannel) (duck : Level) : (g.form duck).applied = (g.form duck).level duck := by
  obtain ⟨_, _, action, held, _⟩ := g
  cases action with
  | hold => cases held <;> rfl
  | _ => rfl

theorem hand_composed (g : ComposerChannel) (a : Action) (recovery : Nat) : (g.hand a recovery).composed = g.composed := by
  cases a with
  | none => unfold hand; dsimp only; split <;> rfl
  | _ => rfl

end ComposerChannel

/-- The record of a channel at the end of an event is a formed one on the composed level (R15, R174). -/
theorem composeChannel_formed (w : State) (c : Channel) (g : ComposerChannel) :
    ∃ g' : ComposerChannel, w.composeChannel c g = g'.form w.config.duck ∧ g'.composed = w.composedLevel c := by
  unfold State.composeChannel
  dsimp only
  split
  · exact ⟨_, rfl, rfl⟩
  · exact ⟨_, rfl, ComposerChannel.hand_composed ..⟩

theorem commit_composed (w s : State) (c : Channel) : ((w.commit s).gc.chan.get c).composed = w.composedLevel c := by
  obtain ⟨g, h, hg⟩ := composeChannel_formed w c (w.gc.chan.get c)
  rw [commit_channel, h, ← hg]; rfl

theorem commit_applied (w s : State) (c : Channel) :
    ((w.commit s).gc.chan.get c).applied = ((w.commit s).gc.chan.get c).level w.config.duck := by
  obtain ⟨g, h, -⟩ := composeChannel_formed w c (w.gc.chan.get c)
  rw [commit_channel, h, g.form_applied]

theorem commit_outputsAgree (w s : State) : (w.commit s).OutputsAgree := by
  have indicators := fun c => OutputsAgree.indicators_queue w.settle (w.commit s).gp.queue c
  rw [← State.commit_eq] at indicators
  obtain ⟨hfault, -, -, hgo, hstation⟩ := indicators 0
  constructor
  case composed => intro c; rw [commit_composed, State.commit_composedLevel]
  case appliedNone => intro c h; rw [commit_applied, ComposerChannel.level_none _ _ h]
  case appliedHold => intro c h x hx; rw [commit_applied, ComposerChannel.level_hold _ _ h, hx]; rfl
  case appliedDuck => intro c h; rw [commit_applied, ComposerChannel.level_duck _ _ h, State.commit_config]
  case appliedMute => intro c h; rw [commit_applied, ComposerChannel.level_mute _ _ h]
  case appliedGlide => intro c h r hr; rw [commit_applied, ComposerChannel.level_recovering _ _ h, hr]; rfl
  case conditions => intro c; rw [State.commit_fi, settle_cond, State.commit_channelConditions]
  case effective => intro c; rw [commit_effective, ← State.commit_effectiveAction w s, State.effectiveAction]
  case taken => intro f; rw [State.commit_fi, settle_taken, flagAt_bit, State.commit_condition]
  case faultLine => rw [State.commit_fi, hfault]; exact drive_faultLine _
  case stateLed =>
    intro c
    obtain ⟨-, hstate, -⟩ := indicators c
    rw [State.commit_fi, hstate]; exact drive_stateLed _ c
  case muteLed =>
    intro c
    obtain ⟨-, -, hmute, -⟩ := indicators c
    rw [State.commit_fi, hmute]; exact drive_muteLed _ c
  case goLed => rw [State.commit_fi, hgo]; exact drive_goLed _
  case stationLed => rw [State.commit_fi, hstation]; exact drive_stationLed _

/-! ## Marks (R162) -/

/-- The marks of a list of channels, none twice: those that are to be marked join the update queue in the order of the list. -/
theorem marks_queue (changed : Channel → Prop) [DecidablePred changed] (l : List Channel) (hl : l.Nodup) (t : State) :
    (l.foldl (fun t c => if changed c then t.mark c else t) t).gp.queue =
      t.gp.queue ++ l.filter fun c =>
        decide (changed c) && decide (c ∉ t.gp.queue) &&
          decide ((t.gp.chan.get c).lastSent ≠ some (t.gc.chan.get c).applied) := by
  induction l generalizing t with
  | nil => simp
  | cons a l ih =>
    obtain ⟨ha, hl⟩ := List.nodup_cons.mp hl
    rw [List.foldl_cons, ih hl]
    by_cases hm : changed a ∧ a ∉ t.gp.queue ∧ (t.gp.chan.get a).lastSent ≠ some (t.gc.chan.get a).applied
    · have hrest : ∀ c ∈ l, c ≠ a := fun c hc e => ha (e ▸ hc)
      rw [if_pos hm.1, State.mark, if_pos hm.2, List.filter_cons_of_pos (by simp [hm]), List.append_assoc,
        List.singleton_append]
      refine congrArg (fun r => t.gp.queue ++ a :: r) (List.filter_congr fun c hc => ?_)
      simp [hrest c hc]
    · have hsame : (if changed a then State.mark a t else t) = t := by
        split
        · next h => exact if_neg fun k => hm ⟨h, k⟩
        · rfl
      rw [hsame, List.filter_cons_of_neg (by simpa [and_assoc] using hm)]

theorem commit_queue (w s : State) :
    (w.commit s).gp.queue =
      w.gp.queue ++ (List.finRange 24).filter fun c =>
        decide (((w.commit s).gc.chan.get c).applied ≠ (s.gc.chan.get c).applied) && decide (c ∉ w.gp.queue) &&
          decide ((w.gp.chan.get c).lastSent ≠ some ((w.commit s).gc.chan.get c).applied) := by
  have h := marks_queue (fun c => (w.settle.gc.chan.get c).applied ≠ (s.gc.chan.get c).applied) (List.finRange 24)
    (List.nodup_finRange 24) w.settle
  simp only [State.settle_gp] at h
  rw [State.commit_gc, ← h, State.commit, State.markChanges, forEach]
  simp only [ne_eq, ite_not]

/-- Settles O3, with the composer's records formed channel by channel, the outputs, the flags and the update queue. -/
theorem endOfAnEvent : Obligations.EndOfAnEvent := by
  intro w s
  refine ⟨?_, commit_outputsAgree w s, commit_flag w s, commit_queue w s⟩
  rw [State.commit_gc, State.commit_fi]
  conv_lhs => rw [State.commit_eq, settle_eq]

/-- Settles O12, from the ranks of the actions, the level of each action state and the action stage at a commit. -/
theorem protectiveActions : Obligations.ProtectiveActions := by
  refine ⟨fun a n h => ?_, fun g duck => ⟨g.level_none duck, fun h x hx => ?_, g.level_duck duck, g.level_mute duck,
    fun h r hr => ?_⟩, fun k cond linkOff => ?_, fun w s c => ?_⟩
  · simp only [List.mem_cons, Prod.mk.injEq, List.not_mem_nil, or_false] at h
    rcases h with ⟨rfl, rfl⟩ | ⟨rfl, rfl⟩ | ⟨rfl, rfl⟩ | ⟨rfl, rfl⟩ <;> rfl
  · rw [g.level_hold duck h, hx]; rfl
  · rw [g.level_recovering duck h, hr]; rfl
  · intro kinds a
    have ha : a = highest kinds := Configuration.effective_eq_highest k cond linkOff
    rw [ha]
    exact ⟨fun x hx h => rank_le_highest hx h, highest_eq_none_or kinds⟩
  · intro duck recovery g x before a u
    have hu : u = w.composeChannel c g := commit_channel w s c
    have formed : ∀ e, a = e → e ≠ w.fi.effective.get c →
        u = ((({ g with composed := x } : ComposerChannel).form duck).hand e recovery).form duck := by
      rintro _ rfl h
      rw [hu]; exact if_neg h
    refine ⟨(commit_outputsAgree w s).composed c |>.trans (State.commit_composedLevel w s c), commit_effective w s c,
      fun h => ?_, fun h => ⟨fun e => ?_, fun e => ?_, fun e => ?_, fun e hr => ?_, fun e hr => ?_⟩⟩
    · rw [hu]; exact if_pos h
    all_goals rw [formed _ e (e ▸ h), ComposerChannel.hand_form]
    · rfl
    · rfl
    · rfl
    · exact if_pos hr
    · exact if_neg hr

end Sys2Proof.Machine

/-! SUPPORT. What the work of an event keeps: the relation `Moves` between the state an operation finds and the state it leaves.
It says of the store, the configuration, the composer's records and FI's actions that they stand, of the flags that none is
cleared, and of the levels of FE, PI, TK and SG that they stay in the scale (R1). One lemma an operation. -/

namespace Sys2Proof.Machine

/-! ## Levels in the scale (R1, R2) -/

theorem off_inScale : InScale off := ⟨le_rfl, by decide⟩

theorem clampLevel_inScale (x : Int) : InScale (clampLevel x) :=
  ⟨le_max_left .., max_le (by decide) (min_le_right ..)⟩

theorem messageLevel_inScale (v : BitVec 11) : InScale (messageLevel v) := clampLevel_inScale _

theorem InScale.between {a b x : Level} (ha : InScale a) (hb : InScale b) (h : min a b ≤ x ∧ x ≤ max a b) : InScale x :=
  ⟨(le_min ha.1 hb.1).trans h.1, h.2.trans (max_le ha.2 hb.2)⟩

/-- The levels of a takeover record. -/
def TakeoverChannel.LevelsInScale (ch : TakeoverChannel) : Prop := InScale ch.manual ∧ ∀ g ∈ ch.glide, InScale g.start

/-- The levels of a channel of FE. -/
def FadeChannel.LevelsInScale (ch : FadeChannel) : Prop :=
  InScale ch.cueLevel ∧ ∀ r ∈ ch.slot, InScale r.start ∧ InScale r.target

/-- The level of a step that waits. -/
def PendingStep.LevelsInScale (p : PendingStep) : Prop := ∀ x ∈ p.level, InScale x

/-- Every level of FE, PI, TK and SG is a level of the scale. -/
structure LevelsIn (fe : FadeEngine) (slot : Table 28 SlotState) (tk : TakeoverUnit) (master : Table 8 MasterRecord) : Prop where
  fade : ∀ c, (fe.chan.get c).LevelsInScale
  waiting : ∀ p ∈ fe.waiting, p.LevelsInScale
  fader : ∀ k, InScale (slot.get k).level
  takeover : ∀ c, (tk.chan.get c).LevelsInScale
  link : ∀ l, InScale (tk.link.get l).level
  master : ∀ m, InScale (master.get m).level

/-- The levels of the blocks of a state. -/
def State.BlocksInScale (s : State) : Prop := LevelsIn s.fe s.pi.slot s.tk s.sg.master

/-- What the levels that an operation forms rest on: the store and the configuration in range, and the levels in the scale. -/
structure State.Sound (s : State) : Prop where
  store : s.cs.Legal
  config : s.ConfigLegal
  levels : s.BlocksInScale

/-! ## The relation -/

/-- The part of the state that only the store's, the configuration's, the composer's and the port's own operations change. -/
def State.kernel (s : State) :
    CueStore × Configuration × Option Assembly × Table 24 ComposerChannel × Table 24 PortChannel × Table 24 Action × Table 12 Bool :=
  (s.cs, s.sl.config, s.sl.assembly, s.gc.chan, s.gp.chan, s.fi.effective, s.fi.taken)

/-- An operation that leaves the kernel as it is, clears no flag, and, under the assumption `H`, keeps the blocks' levels in the
scale. -/
structure State.Moves (H : Prop) (s t : State) : Prop where
  kernel : t.kernel = s.kernel
  flags : ∀ b, s.fi.flags.get b = true → t.fi.flags.get b = true
  levels : H → s.Sound → t.BlocksInScale

theorem State.configLegal_congr {s t : State} (hc : t.sl.config = s.sl.config) (ha : t.sl.assembly = s.sl.assembly)
    (h : s.ConfigLegal) : t.ConfigLegal := by
  have e : t.config = s.config := hc
  exact ⟨e ▸ h.inForce, e ▸ h.order, ha ▸ h.assembly⟩

namespace State.Moves

variable {H : Prop} {s t u : State}

theorem cs (h : s.Moves H t) : t.cs = s.cs := congrArg (·.1) h.kernel
theorem config (h : s.Moves H t) : t.sl.config = s.sl.config := congrArg (·.2.1) h.kernel
theorem assembly (h : s.Moves H t) : t.sl.assembly = s.sl.assembly := congrArg (·.2.2.1) h.kernel
theorem gc (h : s.Moves H t) : t.gc.chan = s.gc.chan := congrArg (·.2.2.2.1) h.kernel
theorem gp (h : s.Moves H t) : t.gp.chan = s.gp.chan := congrArg (·.2.2.2.2.1) h.kernel
theorem effective (h : s.Moves H t) : t.fi.effective = s.fi.effective := congrArg (·.2.2.2.2.2.1) h.kernel
theorem taken (h : s.Moves H t) : t.fi.taken = s.fi.taken := congrArg (·.2.2.2.2.2.2) h.kernel

theorem sound (h : s.Moves H t) (hH : H) (hs : s.Sound) : t.Sound where
  store := h.cs ▸ hs.store
  config := State.configLegal_congr h.config h.assembly hs.config
  levels := h.levels hH hs

theorem refl (s : State) : s.Moves H s := ⟨rfl, fun _ h => h, fun _ h => h.levels⟩

theorem trans (h : s.Moves H t) (k : t.Moves H u) : s.Moves H u where
  kernel := k.kernel.trans h.kernel
  flags b hb := k.flags b (h.flags b hb)
  levels hH hs := k.levels hH (h.sound hH hs)

/-- An operation that leaves the kernel and the flags as they are. -/
theorem of_sound (hk : t.kernel = s.kernel) (hf : t.fi.flags = s.fi.flags) (hl : H → s.Sound → t.BlocksInScale) :
    s.Moves H t :=
  ⟨hk, fun _ h => hf ▸ h, hl⟩

/-- An operation that leaves the kernel, the flags and the levels as they are. -/
theorem of_eq (hk : t.kernel = s.kernel) (hf : t.fi.flags = s.fi.flags) (hl : s.BlocksInScale → t.BlocksInScale) : s.Moves H t :=
  of_sound hk hf fun _ hs => hl hs.levels

/-- What an operation finds may be assumed of all that it does after. -/
theorem assume (h : s.Moves (H ∧ s.Sound) t) : s.Moves H t := ⟨h.kernel, h.flags, fun hH hs => h.levels ⟨hH, hs⟩ hs⟩

theorem ite {c : Prop} [Decidable c] (ht : s.Moves H t) (hu : s.Moves H u) : s.Moves H (if c then t else u) := by
  split
  · exact ht
  · exact hu

theorem forEach {n : Nat} (f : Fin n → State → State) (hf : ∀ i (s : State), s.Moves H (f i s)) (s : State) :
    s.Moves H (forEach n f s) :=
  forEach_keeps (fun t => s.Moves H t) f (fun i t h => h.trans (hf i t)) s (.refl s)

theorem foldl {α : Type} (f : State → α → State) (l : List α) (hf : ∀ a ∈ l, ∀ s : State, s.Moves H (f s a)) (s : State) :
    s.Moves H (l.foldl f s) := by
  induction l generalizing s with
  | nil => exact .refl s
  | cons a l ih => exact (hf a (by simp) s).trans (ih (fun b hb => hf b (by simp [hb])) _)

end State.Moves

section
variable {H : Prop} (s : State)

/-! ## Flags, counters, the transmit queue (R145 to R148, R176) -/

/-- An operation that touches flags, counters, timers and queues alone. -/
theorem moves_of_flags {t : State} (hk : t.kernel = s.kernel) (hf : ∀ b, s.fi.flags.get b = true → t.fi.flags.get b = true)
    (hfe : t.fe = s.fe) (hpi : t.pi.slot = s.pi.slot) (htk : t.tk = s.tk) (hsg : t.sg.master = s.sg.master) : s.Moves H t :=
  ⟨hk, hf, fun _ hs => by unfold State.BlocksInScale; rw [hfe, hpi, htk, hsg]; exact hs.levels⟩

theorem get_set_true {n : Nat} (t : Table n Bool) (i b : Fin n) (h : t.get b = true) : (t.set i true).get b = true := by
  rw [Table.get_set]; split
  · rfl
  · exact h

theorem moves_setFlag (f : Flag) : s.Moves H (s.setFlag f) :=
  moves_of_flags s rfl (fun b h => get_set_true _ _ b h) rfl rfl rfl rfl

theorem moves_countIgnored : s.Moves H s.countIgnored := .of_eq rfl rfl id

theorem moves_countDrop : s.Moves H s.countDrop := .of_eq rfl rfl id

theorem moves_refuseGo : s.Moves H s.refuseGo := (moves_setFlag s .goRefused).trans (.of_eq rfl rfl id)

theorem moves_refuseLoad (r : Reason) : s.Moves H (s.refuseLoad r) := by
  have h : s.Moves H { s.setFlag .loadRefused with
      fi.counters.loadsRefused := bump s.fi.counters.loadsRefused, fi.lastReason := some r } :=
    (moves_setFlag s .loadRefused).trans (.of_eq rfl rfl id)
  unfold State.refuseLoad
  dsimp only
  split
  · exact h.trans (moves_setFlag _ .tableFull)
  · exact h

theorem moves_enqueue (m : Msg) : s.Moves H (s.enqueue m) := by
  unfold State.enqueue
  split
  · exact .refl s
  split
  · exact moves_countDrop s
  dsimp only
  have h : s.Moves H { s with sl.queue := (joinQueue m s.sl.queue).1 } := .of_eq rfl rfl id
  split
  · exact (h.trans (moves_setFlag _ .txOverflow)).trans (moves_countDrop _)
  · exact h

theorem moves_queueLink (l : LinkNo) (a : LinkAction) : s.Moves H (s.queueLink l a) := moves_enqueue s _

theorem moves_queuePresence : s.Moves H s.queuePresence := moves_enqueue s _

theorem moves_queueLevel (m : MasterNo) : s.Moves H (s.queueLevel m) := by
  unfold State.queueLevel
  split
  · exact moves_enqueue s _
  · exact .refl s

theorem moves_queueLevels : s.Moves H s.queueLevels := .forEach _ (fun m t => moves_queueLevel t m) s

/-! ## Reception (R143, R144, R148, R151) -/

theorem moves_countReceived : s.Moves H s.countReceived := .of_eq rfl rfl id

theorem moves_beginClash : s.Moves H s.beginClash := by
  refine moves_of_flags s rfl (fun b h => ?_) rfl rfl rfl rfl
  show (if s.sl.clashCond then s.fi.flags else s.fi.flags.set Flag.stationClash.bit true).get b = true
  split
  · exact h
  · exact get_set_true _ _ b h

theorem moves_hearPeer (p : Station) : s.Moves H (s.hearPeer p) := by
  rw [State.hearPeer_eq]; exact .of_eq rfl rfl id

theorem moves_heard (p : Station) : s.Moves H (s.heard p) := by
  unfold State.heard State.hearSender
  split
  · exact (moves_countReceived s).trans (moves_beginClash _)
  · exact (moves_countReceived s).trans (moves_hearPeer _ p)

theorem moves_ignored (s0 : Bool) : s.Moves H (if s0 then s.countReceived.beginClash else s.countReceived).countIgnored := by
  refine .trans ?_ (moves_countIgnored _)
  split
  · exact (moves_countReceived s).trans (moves_beginClash _)
  · exact moves_countReceived s

theorem moves_receive (p : Station) (body : State → State) (hb : ∀ t : State, t.Moves H (body t)) :
    s.Moves H (s.receive p body) := by
  unfold State.receive
  split
  · simpa using moves_ignored s (decide (s.sl.station = 0))
  · exact (moves_heard s p).trans (hb _)

theorem moves_receiveAddressed (p target : Station) (body : State → State) (hb : ∀ t : State, t.Moves H (body t)) :
    s.Moves H (s.receiveAddressed p target body) := by
  refine moves_receive s p _ fun t => ?_
  split
  · exact hb t
  · exact .refl t

/-! ## Takeover and links (chapter 6) -/

/-- A change of TK that keeps its levels in the scale. -/
theorem moves_tk (tk : TakeoverUnit)
    (h : H → s.Sound → (∀ c, (tk.chan.get c).LevelsInScale) ∧ ∀ l, InScale (tk.link.get l).level) :
    s.Moves H { s with tk := tk } :=
  .of_sound rfl rfl fun hH hs =>
    { fade := hs.levels.fade, waiting := hs.levels.waiting, fader := hs.levels.fader, master := hs.levels.master
      takeover := (h hH hs).1, link := (h hH hs).2 }

theorem moves_mapTk (f : Channel → TakeoverChannel → TakeoverChannel)
    (h : H → s.Sound → ∀ c, (s.tk.chan.get c).LevelsInScale → (f c (s.tk.chan.get c)).LevelsInScale) :
    s.Moves H { s with tk.chan := s.tk.chan.mapAt f } :=
  moves_tk s _ fun hH hs =>
    ⟨fun c => by rw [Table.get_mapAt]; exact h hH hs c (hs.levels.takeover c), hs.levels.link⟩

theorem moves_modifyTk (c : Channel) (f : TakeoverChannel → TakeoverChannel)
    (h : H → s.Sound → (s.tk.chan.get c).LevelsInScale → (f (s.tk.chan.get c)).LevelsInScale) : s.Moves H (s.modifyTk c f) :=
  moves_tk s _ fun hH hs => by
    refine ⟨fun d => ?_, hs.levels.link⟩
    show ((s.tk.chan.modify c f).get d).LevelsInScale
    rw [Table.get_modify]
    split
    · next e => subst e; exact h hH hs (hs.levels.takeover c)
    · exact hs.levels.takeover d

theorem moves_modifyLink (l : LinkNo) (f : LinkRecord → LinkRecord)
    (h : H → s.Sound → InScale (s.tk.link.get l).level → InScale (f (s.tk.link.get l)).level) : s.Moves H (s.modifyLink l f) :=
  moves_tk s _ fun hH hs => by
    refine ⟨hs.levels.takeover, fun k => ?_⟩
    show InScale ((s.tk.link.modify l f).get k).level
    rw [Table.get_modify]
    split
    · next e => subst e; exact h hH hs (hs.levels.link l)
    · exact hs.levels.link k

end

namespace TakeoverChannel.LevelsInScale

variable {ch : TakeoverChannel} {x : Level}

theorem hold (hx : InScale x) : (ch.hold x).LevelsInScale := ⟨hx, by simp [TakeoverChannel.hold]⟩

theorem release (h : ch.LevelsInScale) (mode : Mode) (returnTime : Nat) : (ch.release mode returnTime).LevelsInScale := by
  cases mode with
  | auto =>
    unfold TakeoverChannel.release
    dsimp only
    split
    · exact ⟨h.1, by simp⟩
    · exact ⟨h.1, by simp [h.1]⟩
  | latch => exact ⟨h.1, by simp [TakeoverChannel.release]⟩
  | safe => exact h

theorem endGlide (h : ch.LevelsInScale) : ch.endGlide.LevelsInScale := by
  unfold TakeoverChannel.endGlide
  split
  · exact h
  · split
    · exact ⟨h.1, by simp⟩
    · exact h

theorem advanceGlide (h : ch.LevelsInScale) : ch.advanceGlide.LevelsInScale := by
  unfold TakeoverChannel.advanceGlide
  split
  · exact h
  · next g hg => exact endGlide ⟨h.1, by simpa using h.2 g hg⟩

theorem clearNotice (h : ch.LevelsInScale) : ch.clearNotice.LevelsInScale := by
  unfold TakeoverChannel.clearNotice
  split
  · exact h
  · exact h

end TakeoverChannel.LevelsInScale

section
variable {H : Prop} (s : State)

theorem moves_holdBegin (l : LinkNo) : s.Moves H (s.holdBegin l) :=
  moves_mapTk s _ fun _ hs c h => by
    split
    · exact .hold (hs.levels.link l)
    · exact h

theorem moves_levelChange (l : LinkNo) : s.Moves H (s.levelChange l) :=
  moves_mapTk s _ fun _ hs c h => by
    split
    · exact ⟨hs.levels.link l, h.2⟩
    · exact h

theorem moves_membersRelease (l : LinkNo) : s.Moves H (s.membersRelease l) :=
  moves_mapTk s _ fun _ hs c h => by
    split
    · exact .release (ch := { s.tk.chan.get c with manual := _ }) ⟨hs.levels.link l, h.2⟩ ..
    · exact h

theorem State.Sound.faderLevel {s : State} (hs : s.Sound) (c : Channel) : InScale (s.faderLevel c) := hs.levels.fader _

theorem moves_takeHold (l : LinkNo) (c : Channel) : s.Moves H (s.takeHold l c) :=
  ((moves_modifyLink s l _ fun _ hs _ => hs.faderLevel c).trans (moves_queueLink ..)).trans (moves_holdBegin ..)

theorem moves_driveLink (l : LinkNo) (c : Channel) : s.Moves H (s.driveLink l c) :=
  ((moves_modifyLink s l _ fun _ hs _ => hs.faderLevel c).trans (moves_queueLink ..)).trans (moves_levelChange ..)

theorem moves_giveUp (l : LinkNo) : s.Moves H (s.giveUp l) :=
  ((moves_modifyLink s l _ fun _ _ h => h).trans (moves_queueLink ..)).trans (moves_membersRelease ..)

theorem moves_leaveList (l : LinkNo) (c : Channel) : s.Moves H (s.leaveList l c) := by
  unfold State.leaveList
  dsimp only
  split
  · have h := moves_modifyLink (H := H) s l (fun r => { r with touching := (s.tk.link.get l).touching.erase c })
      fun _ _ h => h
    split
    · exact h.trans (moves_giveUp ..)
    · split
      · exact h.trans (moves_driveLink ..)
      · exact h
  · exact .refl s

theorem moves_touchBegin (c : Channel) : s.Moves H (s.touchBegin c) := by
  have h : s.Moves H (s.modifyTk c fun ch =>
      let ch1 := { ch with mark := false }
      match s.mode c, s.linkOf c with
      | .safe, _ => if ch.state = .overridden then { ch1 with state := .safeManual } else ch1
      | _, none => ch1.hold (s.faderLevel c)
      | _, some _ => ch1) :=
    moves_modifyTk s c _ fun _ hs h => by
      dsimp only
      split
      · split <;> exact h
      · exact .hold (hs.faderLevel c)
      · exact h
  unfold State.touchBegin
  dsimp only
  split
  · exact h
  · exact h.trans (moves_takeHold ..)

theorem moves_touchEnd (c : Channel) : s.Moves H (s.touchEnd c) := by
  unfold State.touchEnd
  split
  · exact moves_modifyTk s c _ fun _ _ h => h
  · split
    · exact moves_leaveList s ..
    · exact moves_modifyTk s c _ fun _ _ h => by
        split
        · exact h.release ..
        · exact h

theorem moves_faderChange (c : Channel) : s.Moves H (s.faderChange c) := by
  unfold State.faderChange
  split
  · exact moves_modifyTk s c _ fun _ hs h => by
      split
      · exact ⟨hs.faderLevel c, h.2⟩
      · exact h
  · split
    · exact moves_driveLink s ..
    · exact .refl s

theorem moves_notice (c : Channel) (priority : Bool) : s.Moves H (s.notice c priority) := by
  unfold State.notice
  split
  · have h := moves_modifyTk (H := H) s c
      (fun ch => { ch with state := .overridden, glide := none, mark := ch.mark || (s.pi.touch.get c).touched })
      fun _ _ h => ⟨h.1, by simp⟩
    dsimp only
    split
    · exact h
    · exact h.trans (moves_leaveList ..)
  · exact moves_modifyTk s c _ fun _ _ h => h.clearNotice

theorem moves_loseHold (l : LinkNo) : s.Moves H (s.loseHold l) := by
  unfold State.loseHold
  split
  · refine (moves_modifyLink s l (fun r => { r with touching := [] }) fun _ _ h => h).trans ?_
    exact moves_mapTk _ _ fun _ _ c h => by
      split
      · exact h
      · exact h
  · exact .refl s

theorem moves_acceptTouch (l : LinkNo) (t : Nat) (p : Option Station) (held : Bool) {level : Level} (hx : InScale level) :
    s.Moves H (s.acceptTouch l t p held level) := by
  have h := fun holder b => (moves_loseHold (H := H) s l).trans (moves_modifyLink (s.loseHold l) l
    (fun r => { r with stamp := t, lastToucher := p, level := level, holder := holder, held := b }) fun _ _ _ => hx)
  unfold State.acceptTouch
  dsimp only
  split
  · split
    · exact (h _ _).trans (moves_holdBegin ..)
    · exact (h _ _).trans (moves_levelChange ..)
  · split
    · exact (h _ _).trans (moves_membersRelease ..)
    · exact h _ _

theorem moves_acceptRelease (l : LinkNo) (t : Nat) (p : Option Station) {level : Level} (hx : InScale level) :
    s.Moves H (s.acceptRelease l t p level) := by
  have h := (moves_loseHold (H := H) s l).trans (moves_modifyLink (s.loseHold l) l
    (fun r => { r with stamp := t, lastToucher := p, level := level, holder := none, held := false }) fun _ _ _ => hx)
  unfold State.acceptRelease
  dsimp only
  split
  · exact h.trans (moves_membersRelease ..)
  · exact h

theorem moves_countForeign (l : LinkNo) : s.Moves H (s.countForeign l) := by
  unfold State.countForeign
  split
  · exact .refl s
  · exact moves_countIgnored s

theorem moves_releaseHeldBy (p : Station) : s.Moves H (s.releaseHeldBy p) := by
  refine .forEach _ (fun l t => ?_) s
  unfold State.releaseIfHeldBy
  split
  · exact (moves_modifyLink t l _ fun _ _ h => h).trans (moves_membersRelease ..)
  · exact .refl t

theorem moves_answerLinks : s.Moves H s.answerLinks := by
  refine .forEach _ (fun l t => ?_) s
  split
  · exact moves_queueLink ..
  · exact .refl t

theorem moves_announceLinks : s.Moves H s.announceLinks := by
  refine .forEach _ (fun l t => ?_) s
  split
  · exact moves_queueLink ..
  · exact .refl t

end

end Sys2Proof.Machine

/-! SUPPORT. `Moves` of the operations of FE, SEQ, SG, PI and SL: steps and fades, GO and GOTO, groups, readings and keys, presence and
line errors. -/

namespace Sys2Proof.Machine

/-! ## Fades and steps (chapter 4) -/

theorem State.Sound.sourceLevel {s : State} (hs : s.Sound) (c : Channel) : InScale (s.sourceLevel c) := by
  obtain ⟨hmanual, hglide⟩ := hs.levels.takeover c
  have hcue := (hs.levels.fade c).1
  cases h : (s.tk.chan.get c).state with
  | cue => rw [sourceLevel_of_cue (.inl h)]; exact hcue
  | overridden => rw [sourceLevel_of_cue (.inr h)]; exact hcue
  | touched => rw [sourceLevel_of_manual (.inl h)]; exact hmanual
  | latched => rw [sourceLevel_of_manual (.inr h)]; exact hmanual
  | safeManual => rw [sourceLevel_of_safeManual h]; exact hs.faderLevel c
  | returning =>
    rw [sourceLevel_of_returning h]
    cases hg : (s.tk.chan.get c).glide with
    | none => exact hcue
    | some g => exact (hglide g hg).between hcue (g.level_between _)

theorem State.Sound.startLevel {s : State} (hs : s.Sound) (c : Channel) (priority : Bool) : InScale (s.startLevel c priority) := by
  have hcue := (hs.levels.fade c).1
  have hsource := hs.sourceLevel c
  unfold State.startLevel
  dsimp only
  cases (s.tk.chan.get c).state with
  | cue | overridden => exact hcue
  | latched => exact hsource
  | touched | returning | safeManual =>
    cases priority with
    | true => exact hsource
    | false => exact hcue

namespace FadeChannel.LevelsInScale

variable {ch : FadeChannel}

theorem begin {start target : Level} (hstart : InScale start) (htarget : InScale target) (cue : Cue) (fade : Nat)
    (curve : Curve) : (ch.begin cue start target fade curve).LevelsInScale := by
  unfold FadeChannel.begin
  split
  · exact ⟨htarget, by simp⟩
  · exact ⟨hstart, by simp [hstart, htarget]⟩

theorem complete (h : ch.LevelsInScale) : ch.complete.LevelsInScale := by
  unfold FadeChannel.complete
  split
  · exact h
  · next r hr =>
    split
    · exact ⟨(h.2 r hr).2, by simp⟩
    · exact h

/-- A fade that advances is at a level between its ends, or at its target where it completes (R5, R73). -/
theorem advance (h : ch.LevelsInScale) : ch.advance.LevelsInScale := by
  unfold FadeChannel.advance
  split
  · exact h
  · next r hr =>
    obtain ⟨hstart, htarget⟩ := h.2 r hr
    dsimp only
    rcases Nat.lt_or_ge (r.elapsed + 1) r.duration with hrun | hend
    · have hlevel := hstart.between htarget (FadeRecord.level_between { r with elapsed := r.elapsed + 1 } hrun.le)
      refine complete (ch := ⟨_, ch.cueMute, some { r with elapsed := r.elapsed + 1 }⟩) ⟨hlevel, ?_⟩
      simp [hstart, htarget]
    · simp only [FadeChannel.complete, hend, if_true]
      exact ⟨htarget, by simp⟩

end FadeChannel.LevelsInScale

/-- The step that a lookup finds is one of the list (R35, R36). -/
theorem latest_mem {cs : CueStore} {c : Channel} {n : Cue} {p : CueStep → Bool} {st : CueStep} (h : cs.latest c n p = some st) :
    st ∈ cs.steps := by
  have key : ∀ (q : CueStep → Bool) (l : List CueStep) (best : Option CueStep),
      l.foldl (laterStep q) best = some st → st ∈ l ∨ best = some st := by
    intro q l
    induction l with
    | nil => exact fun _ h => .inr h
    | cons x l ih =>
      intro best h
      rcases ih _ h with hl | hb
      · exact .inl (List.mem_cons_of_mem _ hl)
      · have hx : x = st ∨ best = some st := by
          unfold laterStep at hb
          split at hb
          · split at hb
            · exact .inl (Option.some.inj hb)
            · split at hb
              · exact .inl (Option.some.inj hb)
              · exact .inr hb
          · exact .inr hb
        exact hx.imp (fun e => by simp [e]) id
  exact (key _ _ _ h).resolve_right (by simp)

theorem CueStore.Legal.trackedLevel {cs : CueStore} (h : cs.Legal) (c : Channel) (n : Cue) : InScale (cs.trackedLevel c n) := by
  unfold CueStore.trackedLevel
  cases hs : cs.latest c n fun st => st.level.isSome with
  | none => exact off_inScale
  | some st =>
    cases hx : st.level with
    | none => simpa [hx] using off_inScale
    | some x => simpa [hx] using (h.steps st (latest_mem hs)).level x hx

section
variable {H : Prop} (s : State)

/-- A change of FE that keeps its levels in the scale. -/
theorem moves_fe (fe : FadeEngine)
    (h : H → s.Sound → (∀ c, (fe.chan.get c).LevelsInScale) ∧ ∀ p ∈ fe.waiting, p.LevelsInScale) :
    s.Moves H { s with fe := fe } :=
  .of_sound rfl rfl fun hH hs =>
    { takeover := hs.levels.takeover, link := hs.levels.link, fader := hs.levels.fader, master := hs.levels.master
      fade := (h hH hs).1, waiting := (h hH hs).2 }

theorem moves_modifyFe (c : Channel) (f : FadeChannel → FadeChannel)
    (h : H → s.Sound → (s.fe.chan.get c).LevelsInScale → (f (s.fe.chan.get c)).LevelsInScale) : s.Moves H (s.modifyFe c f) :=
  moves_fe s _ fun hH hs => by
    refine ⟨fun d => ?_, hs.levels.waiting⟩
    show ((s.fe.chan.modify c f).get d).LevelsInScale
    rw [Table.get_modify]
    split
    · next e => subst e; exact h hH hs (hs.levels.fade c)
    · exact hs.levels.fade d

theorem moves_waiting (q : List PendingStep) (h : H → s.Sound → ∀ p ∈ q, p.LevelsInScale) :
    s.Moves H { s with fe.waiting := q } :=
  moves_fe s _ fun hH hs => ⟨hs.levels.fade, h hH hs⟩

/-- Entries that leave the pending list leave the others as they are. -/
theorem moves_filterWaiting (keep : PendingStep → Bool) : s.Moves H { s with fe.waiting := s.fe.waiting.filter keep } :=
  moves_waiting s _ fun _ hs p hp => hs.levels.waiting p (List.mem_of_mem_filter hp)

theorem moves_startFade (c : Channel) (cue : Cue) {target : Level} (fade : Nat) (curve : Curve) (priority : Bool)
    (ht : H → s.Sound → InScale target) : s.Moves H (s.startFade c cue target fade curve priority) :=
  (moves_modifyFe s c _ fun hH hs _ => .begin (hs.startLevel c priority) (ht hH hs) ..).trans (moves_notice ..)

theorem moves_startStep {p : PendingStep} (hp : H → p.LevelsInScale) : s.Moves H (s.startStep p) := by
  unfold State.startStep
  dsimp only
  split
  · exact moves_modifyFe s _ _ fun _ _ h => h
  · next x hx =>
    exact (moves_startFade s _ _ _ _ _ fun hH _ => hp hH x hx).trans (moves_modifyFe _ _ _ fun _ _ h => h)

theorem mem_placePending {p x : PendingStep} {q : List PendingStep} (h : x ∈ placePending p q) : x = p ∨ x ∈ q := by
  obtain ⟨a, b, rfl, -, -, e⟩ := placePending_split p q
  rw [e] at h
  simp only [List.mem_append, List.mem_cons] at h ⊢
  tauto

theorem moves_takeStep {p : PendingStep} (hp : H → p.LevelsInScale) : s.Moves H (s.takeStep p) := by
  unfold State.takeStep
  dsimp only
  split
  · exact (moves_filterWaiting s _).trans (moves_startStep _ hp)
  · refine moves_waiting s _ fun hH hs x hx => ?_
    rcases mem_placePending hx with rfl | hx
    · exact hp hH
    · exact hs.levels.waiting x (List.mem_of_mem_filter hx)

/-- The steps that start together, each with a level of the scale. -/
theorem moves_startSteps (l : List PendingStep) (hl : H → ∀ p ∈ l, p.LevelsInScale) : s.Moves H (l.foldl State.startStep s) :=
  .foldl _ l (fun p hp t => moves_startStep t fun hH => hl hH p hp) s

theorem moves_handSteps (n : Cue) : s.Moves H (s.handSteps n) := by
  rw [State.handSteps_eq]
  refine .assume (.foldl _ _ (fun p hp t => moves_takeStep t fun hH => ?_) s)
  obtain ⟨st, hst, rfl⟩ := List.mem_map.mp hp
  have hmem : st ∈ s.cs.steps := List.mem_of_mem_filter (List.mem_of_mem_filter hst)
  exact (hH.2.store.steps st hmem).level

theorem moves_advanceFades : s.Moves H s.advanceFades := by
  have hcounted : s.Sound → ∀ p ∈ countDown s.fe.waiting, p.LevelsInScale := fun hs p hp => by
    obtain ⟨q, hq, rfl⟩ := List.mem_map.mp hp
    exact hs.levels.waiting q hq
  have h : s.Moves (H ∧ s.Sound) { s with
      fe.chan := s.fe.chan.mapAt fun _ ch => ch.advance, fe.waiting := undueSteps (countDown s.fe.waiting) } :=
    moves_fe s _ fun hH hs => ⟨fun c => by rw [Table.get_mapAt]; exact (hs.levels.fade c).advance,
      fun p hp => hcounted hs p (List.mem_of_mem_filter hp)⟩
  exact .assume (h.trans (moves_startSteps _ _ fun hH p hp => hcounted hH.2 p (List.mem_of_mem_filter hp)))

theorem moves_gotoRequest (cue : Cue) (fade : Nat) : s.Moves H (s.gotoRequest cue fade) := by
  refine (moves_waiting s [] (by simp)).trans (.forEach _ (fun c t => ?_) _)
  unfold State.gotoChannel
  split
  · exact .refl t
  · exact (moves_startFade t c cue fade .linear false fun _ hs => hs.store.trackedLevel c cue).trans
      (moves_modifyFe _ _ _ fun _ _ h => h)

/-! ## GO, GOTO and the sequencer (chapter 3) -/

/-- A change of SEQ. -/
theorem moves_seq (q : Sequencer) : s.Moves H { s with seq := q } := .of_eq rfl rfl id

theorem moves_takeGo (n : Cue) (cause : Cause) (isLocal : Bool) : s.Moves H (s.takeGo n cause isLocal) := by
  unfold State.takeGo
  dsimp only
  have h := fun q : Sequencer => (moves_seq (H := H) s q).trans (moves_handSteps _ n)
  split
  · exact (h _).trans (moves_enqueue ..)
  · exact h _

theorem moves_expireFollow : s.Moves H s.expireFollow := by
  have h : s.Moves H { s with seq.follow := none } := moves_seq s _
  unfold State.expireFollow
  dsimp only
  split
  · exact h
  · split
    · exact h.trans (moves_takeGo ..)
    · exact h.trans (moves_refuseGo _)

theorem moves_followChain (fuel : Nat) : s.Moves H (s.followChain fuel) := by
  induction fuel generalizing s with
  | zero => exact .refl s
  | succ k ih =>
    unfold State.followChain
    split
    · exact (moves_expireFollow s).trans (ih _)
    · exact .refl s

theorem moves_runFollow : s.Moves H s.runFollow := moves_followChain s _

theorem moves_runGo (n : Cue) (cause : Cause) (isLocal : Bool) : s.Moves H (s.runGo n cause isLocal) :=
  (moves_takeGo s ..).trans (moves_runFollow _)

theorem moves_takeGoto (n : Cue) (fade : Nat) : s.Moves H (s.takeGoto n fade) :=
  (moves_seq s _).trans (moves_gotoRequest ..)

theorem moves_goKeyRequest : s.Moves H s.goKeyRequest := by
  have h : s.Moves H { s with seq.keyStamp := some s.seq.frameCount } := moves_seq s _
  unfold State.goKeyRequest
  dsimp only
  split
  · exact .refl s
  split
  · exact (h.trans (moves_seq _ _)).trans (moves_enqueue ..)
  split
  · exact h.trans (moves_refuseGo _)
  split
  · exact h.trans (moves_runGo ..)
  · exact h.trans (moves_refuseGo _)

theorem moves_backKeyRequest : s.Moves H s.backKeyRequest := by
  unfold State.backKeyRequest
  split
  · exact moves_refuseGo s
  split
  · exact (moves_takeGoto s ..).trans (moves_enqueue ..)
  · exact moves_refuseGo s

theorem moves_stopKeyRequest : s.Moves H s.stopKeyRequest := by
  unfold State.stopKeyRequest
  split
  · exact .refl s
  · exact (moves_seq s _).trans (moves_enqueue ..)

theorem moves_adoptPresence (p : Station) (cue : Cue) (held : Bool) : s.Moves H (s.adoptPresence p cue held) := by
  unfold State.adoptPresence
  exact .ite (moves_seq s _) (.refl s)

theorem moves_rejoin : s.Moves H s.rejoin := by
  unfold State.rejoin
  refine .trans (t := if s.seq.adoptedCue = 0 then s else s.takeGoto s.seq.adoptedCue s.config.gotoTime) ?_ (moves_seq _ _)
  split
  · exact .refl s
  · exact moves_takeGoto s ..

/-! ## Groups (chapter 7) -/

/-- A change of SG that keeps the masters' levels in the scale. -/
theorem moves_modifyMaster (m : MasterNo) (f : MasterRecord → MasterRecord)
    (h : H → s.Sound → InScale (s.sg.master.get m).level → InScale (f (s.sg.master.get m)).level) :
    s.Moves H (s.modifyMaster m f) :=
  .of_sound rfl rfl fun hH hs =>
    { fade := hs.levels.fade, waiting := hs.levels.waiting, fader := hs.levels.fader, takeover := hs.levels.takeover
      link := hs.levels.link
      master := fun k => by
        show InScale ((s.sg.master.modify m f).get k).level
        rw [Table.get_modify]
        split
        · next e => subst e; exact h hH hs (hs.levels.master m)
        · exact hs.levels.master k }

theorem moves_asserters (sets : Table 16 (Table 32 Bool)) : s.Moves H { s with sg.asserters := sets } := .of_eq rfl rfl id

theorem moves_setAsserter (g : GroupNo) (p : Station) (b : Bool) : s.Moves H (s.setAsserter g p b) := moves_asserters s _

theorem moves_replaceMask (p : Station) (mask : BitVec 16) : s.Moves H (s.replaceMask p mask) := moves_asserters s _

theorem moves_txQueue (q : List TxEntry) : s.Moves H { s with sl.queue := q } := .of_eq rfl rfl id

theorem moves_ownAssertion (g : GroupNo) (b : Bool) : s.Moves H (s.ownAssertion g b) :=
  ((moves_setAsserter s ..).trans (moves_enqueue ..)).trans (moves_txQueue _ _)

theorem moves_slotLevel (k : Fin 4) (first : Bool) : s.Moves H (s.slotLevel k first) := by
  refine .forEach _ (fun m t => ?_) s
  unfold State.takeSlotLevel
  dsimp only
  have h := moves_modifyMaster (H := H) t m
    (fun r => { r with level := (t.pi.slot.get (masterSlot k)).level, fresh := r.fresh || first })
    fun _ hs _ => hs.levels.fader _
  split
  · split
    · exact h.trans (moves_queueLevel ..)
    · exact h
  · exact .refl t

/-! ## Panel Input (chapter 5) -/

/-- A change of PI that keeps the faders' levels in the scale. -/
theorem moves_panel (pi : Panel) (h : H → s.Sound → ∀ k, InScale (pi.slot.get k).level) : s.Moves H { s with pi := pi } :=
  .of_sound rfl rfl fun hH hs =>
    { fade := hs.levels.fade, waiting := hs.levels.waiting, takeover := hs.levels.takeover, link := hs.levels.link
      master := hs.levels.master, fader := h hH hs }

theorem moves_modifyTouch (c : Channel) (f : TouchState → TouchState) : s.Moves H (s.modifyTouch c f) := .of_eq rfl rfl id

theorem moves_modifySlot (k : FaderSlot) (f : SlotState → SlotState)
    (h : H → s.Sound → InScale (s.pi.slot.get k).level → InScale (f (s.pi.slot.get k)).level) : s.Moves H (s.modifySlot k f) :=
  moves_panel s _ fun hH hs j => by
    show InScale ((s.pi.slot.modify k f).get j).level
    rw [Table.get_modify]
    split
    · next e => subst e; exact h hH hs (hs.levels.fader k)
    · exact hs.levels.fader j

theorem moves_beginTouch (c : Channel) : s.Moves H (s.beginTouch c) := (moves_modifyTouch s ..).trans (moves_touchBegin ..)

theorem moves_endTouch (c : Channel) : s.Moves H (State.endTouch c s) := by
  unfold State.endTouch
  split
  · exact (moves_modifyTouch s ..).trans (moves_touchEnd ..)
  · exact .refl s

theorem moves_beginAccepting : s.Moves H s.beginAccepting :=
  moves_panel s _ fun _ hs k => by rw [Table.get_mapAt]; exact hs.levels.fader k

theorem moves_lockPanel : s.Moves H s.lockPanel := by
  have h : s.Moves H { s with pi.locked := true, pi.matchPos := 0, pi.unlockTimer := .stopped } := .of_eq rfl rfl id
  unfold State.lockPanel
  dsimp only
  split
  · exact h.trans (.forEach _ (fun c t => moves_endTouch t c) _)
  · exact h

theorem moves_unlockPanel : s.Moves H s.unlockPanel := by
  have h : s.Moves H { s with pi.locked := false, pi.matchPos := 0, pi.unlockTimer := .stopped } := .of_eq rfl rfl id
  unfold State.unlockPanel
  dsimp only
  split
  · exact h.trans (moves_beginAccepting _)
  · exact h

theorem moves_motionTouch (c : Channel) (catchUp : Bool) : s.Moves H (s.motionTouch c catchUp) := by
  unfold State.motionTouch
  refine .ite ?_ (.refl s)
  have h : s.Moves H (if !(s.pi.touch.get c).touched && !catchUp then s.beginTouch c else s) :=
    .ite (moves_beginTouch s c) (.refl s)
  exact h.trans (.ite (moves_modifyTouch ..) (.refl _))

theorem moves_handReading (k : FaderSlot) (first changed catchUp : Bool) : s.Moves H (s.handReading k first changed catchUp) := by
  unfold State.handReading
  split
  · split
    · exact moves_slotLevel s ..
    · exact .refl s
  · refine .trans ?_ (moves_motionTouch ..)
    split
    · exact moves_faderChange s ..
    · exact .refl s
  · exact .refl s

theorem moves_acceptReading (k : FaderSlot) (c : Nat) : s.Moves H (s.acceptReading k c) :=
  (moves_modifySlot s k _ fun _ hs _ => lawLevel_inScale hs.config.order hs.config.inForce.law c).trans (moves_handReading ..)

theorem moves_readReference (raw : Nat) : s.Moves H (s.readReference raw) := by
  unfold State.readReference
  split
  · exact .of_eq rfl rfl id
  · exact .of_eq rfl rfl id

theorem moves_scanOn (n : Nat) : s.Moves H (s.scanOn n) := .of_eq rfl rfl id

theorem SlotState.count_level (k : SlotState) (rail : Bool) (limit : Nat) : (k.count rail limit).level = k.level := by
  unfold SlotState.count
  split
  · rfl
  · split <;> rfl

theorem moves_matchAt (pos : Nat) : s.Moves H (s.matchAt pos) := by
  unfold State.matchAt
  split
  · exact moves_unlockPanel s
  · exact .of_eq rfl rfl id

theorem moves_matchKey (key : Fin 35) : s.Moves H (s.matchKey key) := by
  unfold State.matchKey
  split
  · exact moves_matchAt s _
  split
  · exact moves_matchAt s _
  · exact .of_eq rfl rfl id

theorem moves_pressKey (key : Fin 35) (body : State → State) (hb : ∀ t : State, t.Moves H (body t)) :
    s.Moves H (s.pressKey key body) := by
  have h : s.Moves H { s with pi.keyDown := s.pi.keyDown.set key true } := .of_eq rfl rfl id
  unfold State.pressKey
  dsimp only
  split
  · exact h
  split
  · exact h.trans (moves_matchKey ..)
  · exact h.trans (hb _)

theorem moves_togglePanelMute (c : Channel) : s.Moves H (s.togglePanelMute c) := .of_eq rfl rfl id

theorem moves_toggleAssertion (k : Fin 8) : s.Moves H (s.toggleAssertion k) := by
  unfold State.toggleAssertion
  split
  · exact .refl s
  · next g _ =>
    have h : s.Moves H { s with pi.ownAssert := s.pi.ownAssert.set g (!s.pi.ownAssert.get g) } := .of_eq rfl rfl id
    exact h.trans (moves_ownAssertion ..)

/-! ## Joining and the Show Link (chapter 8) -/

theorem moves_endJoining : s.Moves H s.endJoining := by
  have h : s.Moves H { s with sl.state := .running, sl.windowTimer := .stopped, sl.limitTimer := .stopped } := .of_eq rfl rfl id
  have hr := h.trans (moves_rejoin _)
  unfold State.endJoining
  dsimp only
  refine .trans ?_ (moves_queuePresence _)
  split
  · exact hr
  · exact hr.trans (moves_beginAccepting _)

theorem moves_countDrops (n : Nat) : s.Moves H (State.countDrops n s) := by
  induction n generalizing s with
  | zero => exact .refl s
  | succ n ih => exact (moves_countDrop s).trans (ih _)

theorem moves_raiseTxErrors : s.Moves H s.raiseTxErrors := by
  unfold State.raiseTxErrors
  split
  · have h : s.Moves H { s with sl.txErrors := Config.busOffAt, sl.recessive := 0, sl.queue := [] } := .of_eq rfl rfl id
    exact h.trans (moves_countDrops ..)
  · exact .of_eq rfl rfl id

theorem moves_endLinkOff : s.Moves H s.endLinkOff := by
  have h : s.Moves H { s with sl.txErrors := 0, sl.rxErrors := 0, sl.recessive := 0 } := .of_eq rfl rfl id
  exact ((h.trans (moves_queuePresence _)).trans (moves_announceLinks _)).trans (moves_queueLevels _)

theorem moves_recordPresence (p : Station) (joining hold : Bool) (cue : Cue) :
    s.Moves H (s.recordPresence p joining hold cue) := .of_eq rfl rfl id

theorem moves_takePresence (p : Station) (joining hold : Bool) (cue : Cue) (mask : BitVec 16) :
    s.Moves H (s.takePresence p joining hold cue mask) := by
  have h := (moves_recordPresence (H := H) s p joining hold cue).trans (moves_replaceMask _ p mask)
  unfold State.takePresence
  dsimp only
  split
  · exact (((h.trans (moves_releaseHeldBy ..)).trans (moves_answerLinks _)).trans (moves_queueLevels _)).trans
      (moves_queuePresence _)
  split
  · exact h.trans (moves_adoptPresence ..)
  · exact h

theorem moves_losePeer (p : Station) : s.Moves H (s.losePeer p) := by
  unfold State.losePeer
  dsimp only
  refine .trans ?_ (moves_releaseHeldBy ..)
  split
  · exact .of_eq rfl rfl id
  · exact .of_eq rfl rfl id

/-- The five parts of an answer to a STATUS_REQUEST, queued. -/
theorem moves_queueStatus (parts : Fin 5 → BitVec 64) :
    s.Moves H (forEach 5 (fun part t => t.enqueue (.statusReply part (parts part))) s) :=
  .forEach _ (fun _ t => moves_enqueue t _) s

end

end Sys2Proof.Machine

/-! SUPPORT. The store's lists under loads and deletes (R20, R21, R25 to R31) and the configuration under an item (R156): both stay in
range. It settles O14. -/

namespace Sys2Proof.Machine

/-! ## A record placed in a list that ascends by its keys -/

section
variable {α : Type} (key : α → Nat)

/-- The record replaces the one of its key, or joins before the first of a greater key. -/
def placeByKey (a : α) : List α → List α
  | [] => [a]
  | x :: rest => if key a = key x then a :: rest else if key a < key x then a :: x :: rest else x :: placeByKey a rest

/-- A list in strictly ascending order of its keys. -/
def Ascends (q : List α) : Prop := q.Pairwise fun a b => key a < key b

variable {key}

theorem mem_placeByKey {a x : α} {q : List α} (hq : Ascends key q) :
    x ∈ placeByKey key a q ↔ x = a ∨ x ∈ q ∧ key x ≠ key a := by
  induction q with
  | nil => simp [placeByKey]
  | cons y q ih =>
    obtain ⟨hy, hq⟩ := List.pairwise_cons.mp hq
    unfold placeByKey
    split
    · next e =>
      have hne : ∀ z ∈ q, key z ≠ key a := fun z hz => by have := hy z hz; omega
      simp only [List.mem_cons]
      constructor
      · rintro (h | h)
        · exact .inl h
        · exact .inr ⟨.inr h, hne x h⟩
      · rintro (h | ⟨rfl | h, hk⟩)
        · exact .inl h
        · exact absurd e.symm hk
        · exact .inr h
    · split
      · next hlt =>
        have hne : ∀ z ∈ y :: q, key z ≠ key a := fun z hz => by
          rcases List.mem_cons.mp hz with rfl | hz
          · omega
          · have := hy z hz; omega
        simp only [List.mem_cons (a := x) (b := a)]
        exact or_congr_right ⟨fun h => ⟨h, hne x h⟩, And.left⟩
      · next hne _ =>
        simp only [List.mem_cons, ih hq]
        constructor
        · rintro (rfl | h | ⟨h, hk⟩)
          · exact .inr ⟨.inl rfl, Ne.symm hne⟩
          · exact .inl h
          · exact .inr ⟨.inr h, hk⟩
        · rintro (h | ⟨rfl | h, hk⟩)
          · exact .inr (.inl h)
          · exact .inl rfl
          · exact .inr (.inr ⟨h, hk⟩)

theorem ascends_placeByKey {a : α} {q : List α} (hq : Ascends key q) : Ascends key (placeByKey key a q) := by
  induction q with
  | nil => simp [Ascends, placeByKey]
  | cons y q ih =>
    obtain ⟨hy, hq'⟩ := List.pairwise_cons.mp hq
    unfold placeByKey
    split
    · next e => exact List.pairwise_cons.mpr ⟨fun z hz => e ▸ hy z hz, hq'⟩
    · split
      · next hlt =>
        refine List.pairwise_cons.mpr ⟨fun z hz => ?_, hq⟩
        rcases List.mem_cons.mp hz with rfl | hz
        · exact hlt
        · exact hlt.trans (hy z hz)
      · refine List.pairwise_cons.mpr ⟨fun z hz => ?_, ih hq'⟩
        rcases (mem_placeByKey hq').mp hz with rfl | ⟨hz, -⟩
        · omega
        · exact hy z hz

theorem length_placeByKey_held {a : α} {q : List α} (hq : Ascends key q) (h : ∃ x ∈ q, key x = key a) :
    (placeByKey key a q).length = q.length := by
  induction q with
  | nil => simp at h
  | cons y q ih =>
    obtain ⟨hy, hq⟩ := List.pairwise_cons.mp hq
    obtain ⟨x, hx, e⟩ := h
    unfold placeByKey
    split
    · rfl
    · next hne =>
      have hxq : x ∈ q := (List.mem_cons.mp hx).resolve_left fun h => hne (h ▸ e.symm)
      have hlt := hy x hxq
      rw [if_neg (by omega), List.length_cons, ih hq ⟨x, hxq, e⟩, List.length_cons]

theorem length_placeByKey_new {a : α} {q : List α} (h : ¬∃ x ∈ q, key x = key a) :
    (placeByKey key a q).length = q.length + 1 := by
  induction q with
  | nil => rfl
  | cons y q ih =>
    have hy : key a ≠ key y := fun e => h ⟨y, by simp, e.symm⟩
    unfold placeByKey
    rw [if_neg hy]
    split
    · rfl
    · rw [List.length_cons, ih fun ⟨x, hx, e⟩ => h ⟨x, by simp [hx], e⟩, List.length_cons]

end

/-! ## The two lists of the store -/

/-- The key of a step as one number, which orders steps by cue and then by channel (R17, R20). -/
def CueStep.key (st : CueStep) : Nat := st.cue.val * 24 + st.channel.val

/-- The key of a header (R18, R21). -/
def Header.key (h : Header) : Nat := h.cue.val

theorem CueStep.key_lt {a b : CueStep} :
    a.key < b.key ↔ a.cue.val < b.cue.val ∨ (a.cue = b.cue ∧ a.channel.val < b.channel.val) := by
  simp only [CueStep.key, Fin.ext_iff]; omega

theorem CueStep.key_eq {a b : CueStep} : a.key = b.key ↔ a.cue = b.cue ∧ a.channel = b.channel := by
  simp only [CueStep.key, Fin.ext_iff]; omega

theorem CueStep.before_iff (a b : CueStep) : a.before b = true ↔ a.key < b.key := by
  simp [CueStep.before, CueStep.key_lt]

theorem CueStep.sameKey_iff (a b : CueStep) : a.sameKey b = true ↔ a.key = b.key := by
  simp [CueStep.sameKey, CueStep.key_eq]

theorem placeStep_eq (st : CueStep) (q : List CueStep) : placeStep st q = placeByKey CueStep.key st q := by
  induction q with
  | nil => rfl
  | cons x q ih => simp only [placeStep, placeByKey, CueStep.sameKey_iff, CueStep.before_iff, ih]

theorem placeHeader_eq (h : Header) (q : List Header) : placeHeader h q = placeByKey Header.key h q := by
  induction q with
  | nil => rfl
  | cons x q ih => simp only [placeHeader, placeByKey, Header.key, Fin.ext_iff, ih] <;> rfl

theorem CueStore.Legal.steps_ascend {cs : CueStore} (h : cs.Legal) : Ascends CueStep.key cs.steps :=
  h.stepOrder.imp fun {a b} => (CueStep.before_iff a b).mp

theorem CueStore.Legal.headers_ascend {cs : CueStore} (h : cs.Legal) : Ascends Header.key cs.headers := h.headerOrder

theorem steps_any_sameKey (st : CueStep) (q : List CueStep) : q.any st.sameKey = true ↔ ∃ x ∈ q, x.key = st.key := by
  simp only [List.any_eq_true, CueStep.sameKey_iff, eq_comm (a := st.key)]

theorem headers_any_cue (h : Header) (q : List Header) :
    (q.any fun x => decide (x.cue = h.cue)) = true ↔ ∃ x ∈ q, x.key = h.key := by
  simp [Header.key, Fin.ext_iff]

/-- A step that has room: its key is held, or the list is short of its capacity (R25). -/
theorem loadStep_taken {s : State} {st : CueStep} (h : (∃ x ∈ s.cs.steps, x.key = st.key) ∨ s.cs.steps.length < 2048) :
    s.loadStep st = { s with cs.steps := placeByKey CueStep.key st s.cs.steps } := by
  rw [State.loadStep, if_pos, placeStep_eq]
  rw [Bool.or_eq_true, steps_any_sameKey, decide_eq_true_eq]
  exact h

theorem loadHeader_taken {s : State} {h : Header} (hroom : (∃ x ∈ s.cs.headers, x.key = h.key) ∨ s.cs.headers.length < 512) :
    s.loadHeader h = { s with cs.headers := placeByKey Header.key h s.cs.headers } := by
  rw [State.loadHeader, if_pos, placeHeader_eq]
  rw [Bool.or_eq_true, headers_any_cue, decide_eq_true_eq]
  exact hroom

theorem length_placeByKey_le {α : Type} {key : α → Nat} {a : α} {q : List α} {n : Nat} (hq : Ascends key q) (hn : q.length ≤ n)
    (h : (∃ x ∈ q, key x = key a) ∨ q.length < n) : (placeByKey key a q).length ≤ n := by
  by_cases held : ∃ x ∈ q, key x = key a
  · rwa [length_placeByKey_held hq held]
  · rw [length_placeByKey_new held]; exact h.resolve_left held

namespace CueStore.Legal

variable {cs : CueStore}

theorem placeStep (h : cs.Legal) {st : CueStep} (hst : st.Legal)
    (hroom : (∃ x ∈ cs.steps, x.key = st.key) ∨ cs.steps.length < Config.maxSteps) :
    CueStore.Legal { cs with steps := placeByKey CueStep.key st cs.steps } where
  stepOrder := (ascends_placeByKey h.steps_ascend).imp fun {a b} => (CueStep.before_iff a b).mpr
  stepCount := length_placeByKey_le h.steps_ascend h.stepCount hroom
  steps x hx := by
    rcases (mem_placeByKey h.steps_ascend).mp hx with rfl | ⟨hx, -⟩
    · exact hst
    · exact h.steps x hx
  headerOrder := h.headerOrder
  headerCount := h.headerCount
  headers := h.headers

theorem placeHeader (h : cs.Legal) {r : Header} (hr : r.cue ≠ 0 ∧ ∀ d ∈ r.follow, d ≤ 65535)
    (hroom : (∃ x ∈ cs.headers, x.key = r.key) ∨ cs.headers.length < Config.maxHeaders) :
    CueStore.Legal { cs with headers := placeByKey Header.key r cs.headers } where
  stepOrder := h.stepOrder
  stepCount := h.stepCount
  steps := h.steps
  headerOrder := ascends_placeByKey h.headers_ascend
  headerCount := length_placeByKey_le h.headers_ascend h.headerCount hroom
  headers x hx := by
    rcases (mem_placeByKey h.headers_ascend).mp hx with rfl | ⟨hx, -⟩
    · exact hr
    · exact h.headers x hx

/-- Records that leave the lists leave them in order, within capacity and in range (R26, R28, R30, R31). -/
theorem sublists (h : cs.Legal) {steps : List CueStep} {headers : List Header} (hs : steps.Sublist cs.steps)
    (hh : headers.Sublist cs.headers) (banks : Table 16 Bank) : CueStore.Legal ⟨steps, headers, banks⟩ where
  stepOrder := h.stepOrder.sublist hs
  stepCount := hs.length_le.trans h.stepCount
  steps x hx := h.steps x (hs.subset hx)
  headerOrder := h.headerOrder.sublist hh
  headerCount := hh.length_le.trans h.headerCount
  headers x hx := h.headers x (hh.subset hx)

end CueStore.Legal

theorem emptyStore_legal : emptyStore.Legal where
  stepOrder := .nil
  stepCount := Nat.zero_le _
  steps := by simp [emptyStore]
  headerOrder := .nil
  headerCount := Nat.zero_le _
  headers := by simp [emptyStore]

/-- The record that a STEP_LOAD of a valid cue carries is in range (R2, R17, R24). -/
theorem loadedStep_legal {cue : Cue} (hc : cue ≠ 0) (c : Channel) (level : BitVec 11) (fade : Fin 65536) (delay : Fin 2048)
    (curve : Curve) (a : MuteAction) : CueStep.Legal ⟨cue, c, stepTarget level, fade.val, delay.val, curve, a⟩ where
  cue := hc
  level x hx := by
    simp only [stepTarget] at hx
    split at hx
    · simp at hx
    · obtain rfl : clampLevel (rawLevel level) = x := by simpa using hx
      exact clampLevel_inScale _
  fade := by have := fade.isLt; simp only; omega
  delay := by have := delay.isLt; simp only; omega

theorem loadedHeader_legal {cue : Cue} (hc : cue ≠ 0) (present : Bool) (follow : Fin 65536) :
    (⟨cue, if present then some follow.val else none⟩ : Header).cue ≠ 0 ∧
      ∀ d ∈ (⟨cue, if present then some follow.val else none⟩ : Header).follow, d ≤ 65535 := by
  refine ⟨hc, fun d hd => ?_⟩
  have := follow.isLt
  cases present <;> simp at hd
  omega

/-! ## Loads that are taken -/

theorem channelOf_succ {channel : Fin 32} {c : Channel} (h : channel.val = c.val + 1) : channelOf channel = some c := by
  have hc := c.isLt
  rw [channelOf, oneBased, dif_pos ⟨by omega, by omega⟩]
  exact congrArg some (Fin.ext (by simp only; omega))

theorem checkKey_taken (s : State) {cue : Cue} {channel : Fin 32} {c : Channel} (hcue : cue ≠ 0)
    (hc : channel.val = c.val + 1) (body : Channel → State) : s.checkKey cue channel body = body c := by
  rw [State.checkKey, if_neg hcue, channelOf_succ hc]

theorem checkCue_taken (s : State) {cue : Cue} (hcue : cue ≠ 0) (body : State) : s.checkCue cue body = body := if_neg hcue

theorem clampLevel_eq (x : Int) : clampLevel x = max (-900) (min x 100) := rfl

theorem stepTarget_eq (level : BitVec 11) :
    stepTarget level = if level.toInt = -1024 then none else some (max (-900) (min level.toInt 100)) := rfl

/-- Settles O14, by the record placed by its key in the ordered list. -/
theorem loadsTaken : Obligations.LoadsTaken := by
  intro p target cue s hp ht hcue hs
  constructor
  · intro channel c level fade delay curve mute k a hc hk ha st held hroom
    have hkey : ∀ x : CueStep, x.key = st.key ↔ x.cue = cue ∧ x.channel = c := fun x => CueStep.key_eq
    have hheld : held ↔ ∃ x ∈ s.cs.steps, x.key = st.key := by simp only [hkey]; rfl
    have hst : (⟨cue, c, stepTarget level, fade.val, delay.val, curveOf curve, muteOf mute⟩ : CueStep) = st := by
      have hcurve : curveOf curve = k := by fin_cases curve <;> simp_all [curveOf]
      have hmute : muteOf mute = a := by fin_cases mute <;> simp_all [muteOf]
      rw [hcurve, hmute, stepTarget_eq]
    refine ⟨placeByKey CueStep.key st s.cs.steps, ?_, fun x => ?_, ?_, fun h => ?_, fun h => ?_⟩
    · show execStepLoad p target cue channel level fade delay curve mute s = _
      rw [execStepLoad, State.take_eq, State.receiveAddressed_taken hp ht, checkKey_taken _ hcue hc, hst, loadStep_taken]
      · simp only [State.heard_cs]
      · rw [State.heard_cs, ← hheld]; exact hroom
    · rw [mem_placeByKey hs.steps_ascend, ne_eq, hkey]
    · exact (ascends_placeByKey hs.steps_ascend).imp fun {a b} => CueStep.key_lt.mp
    · exact length_placeByKey_held hs.steps_ascend (hheld.mp h)
    · exact length_placeByKey_new (hheld.not.mp h)
  · intro present follow h held hroom
    have hkey : ∀ x : Header, x.key = h.key ↔ x.cue = cue := fun x => Fin.ext_iff.symm
    have hheld : held ↔ ∃ x ∈ s.cs.headers, x.key = h.key := by simp only [hkey]; rfl
    refine ⟨placeByKey Header.key h s.cs.headers, ?_, fun x => ?_, ascends_placeByKey hs.headers_ascend, fun k => ?_,
      fun k => ?_⟩
    · show execHeaderLoad p target cue present follow s = _
      rw [execHeaderLoad, State.take_eq, State.receiveAddressed_taken hp ht, checkCue_taken _ hcue, loadHeader_taken]
      · simp only [State.heard_cs]; rfl
      · rw [State.heard_cs]; exact hroom.imp_left hheld.mp
    · rw [mem_placeByKey hs.headers_ascend, ne_eq, hkey]
    · exact length_placeByKey_held hs.headers_ascend (hheld.mp k)
    · exact length_placeByKey_new (hheld.not.mp k)

end Sys2Proof.Machine

/-! SUPPORT. A configuration item that enters an assembly leaves it in range (R2, §8.7.1), and what each code does with its index and
value (R156); it settles O47. -/

namespace Sys2Proof.Machine

/-! ## Index and value ranges -/

theorem oneBased_succ {n : Nat} (i : Fin n) : oneBased n (i.val + 1) = some i := by
  rw [oneBased, dif_pos ⟨by omega, by omega⟩]
  exact congrArg some (Fin.ext (by simp))

theorem oneBased_outside {n i : Nat} (h : i = 0 ∨ n < i) : oneBased n i = none := dif_neg (by omega)

theorem optionItem_zero (n : Nat) {v : BitVec 16} (h : v.toNat = 0) : optionItem n v = some none := if_pos h

theorem optionItem_succ {n : Nat} {v : BitVec 16} (i : Fin n) (h : v.toNat = i.val + 1) : optionItem n v = some (some i) := by
  rw [optionItem, if_neg (by omega), h, oneBased_succ]; rfl

theorem optionItem_above {n : Nat} {v : BitVec 16} (h : n < v.toNat) : optionItem n v = none := by
  rw [optionItem, if_neg (by omega), oneBased_outside (.inr h)]; rfl

theorem ownerItem_of_lt {v : BitVec 16} (p : Station) (h : v.toNat = p.val) :
    ownerItem v = some (if p = 0 then none else some p) := by
  have hp := p.isLt
  rw [ownerItem, dif_pos (by omega)]
  simp only [h]; rfl

theorem ownerItem_above {v : BitVec 16} (h : 31 < v.toNat) : ownerItem v = none := dif_neg (by omega)

theorem rangeItem_zero (v : BitVec 16) (hi : Nat) : rangeItem v 0 hi = if v.toNat ≤ hi then some v.toNat else none := by
  simp [rangeItem]

section
variable (k : Configuration)

/-- A channel item of a channel's index enters that channel's record where its value is in range. -/
theorem enterChannel_succ {α : Type} (c : Channel) (value : Option α) (f : ChannelConfig → α → ChannelConfig) :
    enterChannel k (c.val + 1) value f = value.map fun a => { k with chan := k.chan.modify c fun x => f x a } := by
  rw [enterChannel, oneBased_succ]; cases value <;> rfl

theorem enterChannel_outside {α : Type} {index : Nat} (h : index = 0 ∨ 24 < index) (value : Option α)
    (f : ChannelConfig → α → ChannelConfig) : enterChannel k index value f = none := by
  rw [enterChannel, oneBased_outside h]; rfl

theorem enterMaster_succ {α : Type} (m : MasterNo) (value : Option α) (f : MasterConfig → α → MasterConfig) :
    enterMaster k (m.val + 1) value f = value.map fun a => { k with master := k.master.modify m fun x => f x a } := by
  rw [enterMaster, oneBased_succ]; cases value <;> rfl

theorem enterMaster_outside {α : Type} {index : Nat} (h : index = 0 ∨ 8 < index) (value : Option α)
    (f : MasterConfig → α → MasterConfig) : enterMaster k index value f = none := by
  rw [enterMaster, oneBased_outside h]; rfl

end

theorem enterStation_zero {α : Type} (value : Option α) (f : α → Configuration) : enterStation 0 value f = value.map f := rfl

theorem enterStation_index {α : Type} {index : Nat} (h : index ≠ 0) (value : Option α) (f : α → Configuration) :
    enterStation index value f = none := if_neg h

/-! ## An item leaves the configuration in range -/

section
variable {k t : Configuration}

theorem enterChannel_cases {α : Type} {index : Nat} {value : Option α} {f : ChannelConfig → α → ChannelConfig}
    (h : enterChannel k index value f = some t) :
    ∃ c a, value = some a ∧ t = { k with chan := k.chan.modify c fun x => f x a } := by
  unfold enterChannel at h
  cases hc : oneBased 24 index with
  | none => simp [hc] at h
  | some c =>
    cases value with
    | none => simp [hc] at h
    | some a => exact ⟨c, a, rfl, by simpa [hc] using h.symm⟩

theorem enterMaster_cases {α : Type} {index : Nat} {value : Option α} {f : MasterConfig → α → MasterConfig}
    (h : enterMaster k index value f = some t) :
    ∃ m a, value = some a ∧ t = { k with master := k.master.modify m fun x => f x a } := by
  unfold enterMaster at h
  cases hm : oneBased 8 index with
  | none => simp [hm] at h
  | some m =>
    cases value with
    | none => simp [hm] at h
    | some a => exact ⟨m, a, rfl, by simpa [hm] using h.symm⟩

theorem enterStation_cases {α : Type} {index : Nat} {value : Option α} {f : α → Configuration}
    (h : enterStation index value f = some t) : ∃ a, value = some a ∧ t = f a := by
  unfold enterStation at h
  split at h
  · obtain ⟨a, ha, rfl⟩ := Option.map_eq_some_iff.mp h
    exact ⟨a, ha, rfl⟩
  · cases h

theorem rangeItem_cases {v : BitVec 16} {lo hi a : Nat} (h : rangeItem v lo hi = some a) : lo ≤ a ∧ a ≤ hi := by
  unfold rangeItem at h
  split at h
  · cases h; assumption
  · cases h

theorem lawItem_cases {v : BitVec 16} {x : Level} (h : lawItem v = some x) : InScale x := by
  unfold lawItem at h
  split at h
  · cases h; assumption
  · cases h

theorem ownerItem_ne_zero {v : BitVec 16} {o : Option Station} (h : ownerItem v = some o) : o ≠ some 0 := by
  unfold ownerItem at h
  split at h
  · cases h
    unfold toucherOf
    split
    · simp
    · next hne => simpa using hne
  · cases h

theorem clampCeiling_bounds (x : Int) : Config.levelFloor ≤ clampCeiling x ∧ clampCeiling x ≤ Config.levelTop :=
  ⟨le_max_left .., max_le (by decide) (min_le_right ..)⟩

theorem clampDuck_bounds (x : Int) : Config.levelFloor ≤ clampDuck x ∧ clampDuck x ≤ 0 :=
  ⟨le_max_left .., max_le (by decide) (min_le_right ..)⟩

namespace Configuration.Legal

variable (h : k.Legal)
include h

/-- A channel record may change as long as its ceiling stays in range. -/
theorem modifyChan (c : Channel) (f : ChannelConfig → ChannelConfig)
    (hf : Config.levelFloor ≤ (f (k.chan.get c)).ceiling ∧ (f (k.chan.get c)).ceiling ≤ Config.levelTop) :
    Configuration.Legal { k with chan := k.chan.modify c f } where
  __ := h
  ceiling d := by
    rw [Table.get_modify]
    split
    · next e => subst e; exact hf
    · exact h.ceiling d

theorem modifyMaster (m : MasterNo) (f : MasterConfig → MasterConfig) (hf : (f (k.master.get m)).owner ≠ some 0) :
    Configuration.Legal { k with master := k.master.modify m f } where
  __ := h
  owner n := by
    rw [Table.get_modify]
    split
    · next e => subst e; exact hf
    · exact h.owner n

theorem setCode (i : Fin 6) {a : Nat} (ha : a ≤ 35) : Configuration.Legal { k with unlockCodes := k.unlockCodes.set i a } where
  __ := h
  unlockCodes j := by
    rw [Table.get_set]
    split
    · exact ha
    · exact h.unlockCodes j

theorem setLaw (b : Fin 16) {x : Level} (hx : InScale x) : Configuration.Legal { k with law := k.law.set b x } where
  __ := h
  law j := by
    rw [Table.get_set]
    split
    · exact hx
    · exact h.law j

end Configuration.Legal

end

/-- Every item that enters leaves the configuration in range (R2, R156). -/
theorem enterItem_legal {k t : Configuration} (h : k.Legal) {code index : Nat} {v : BitVec 16}
    (he : enterItem k code index v = some t) : t.Legal := by
  unfold enterItem at he
  split at he
  case h_1 | h_2 | h_4 | h_5 | h_6 =>
    obtain ⟨c, a, -, rfl⟩ := enterChannel_cases he
    exact h.modifyChan c _ (h.ceiling c)
  case h_3 =>
    obtain ⟨c, a, -, rfl⟩ := enterChannel_cases he
    exact h.modifyChan c _ (clampCeiling_bounds a)
  case h_7 =>
    obtain ⟨m, o, ho, rfl⟩ := enterMaster_cases he
    exact h.modifyMaster m _ (ownerItem_ne_zero ho)
  case h_8 =>
    obtain ⟨m, a, -, rfl⟩ := enterMaster_cases he
    exact h.modifyMaster m _ (h.owner m)
  case h_9 =>
    obtain ⟨i, -, hi⟩ := Option.bind_eq_some_iff.mp he
    obtain ⟨g, -, hg⟩ := Option.bind_eq_some_iff.mp hi
    cases hg
    exact { h with }
  case h_14 =>
    obtain ⟨a, ⟨⟩, rfl⟩ := enterStation_cases he
    exact { h with backTime := Nat.le_of_lt_succ v.isLt }
  case h_15 =>
    obtain ⟨a, ⟨⟩, rfl⟩ := enterStation_cases he
    exact { h with gotoTime := Nat.le_of_lt_succ v.isLt }
  case h_19 =>
    obtain ⟨a, -, rfl⟩ := enterStation_cases he
    exact { h with duck := clampDuck_bounds a }
  case h_21 =>
    obtain ⟨i, -, hi⟩ := Option.bind_eq_some_iff.mp he
    obtain ⟨a, -, ha⟩ := Option.bind_eq_some_iff.mp hi
    cases ha
    exact { h with }
  case h_22 =>
    split at he
    · obtain ⟨a, ha, rfl⟩ := Option.map_eq_some_iff.mp he
      exact { h with unlockLength := rangeItem_cases ha }
    · obtain ⟨i, -, hi⟩ := Option.bind_eq_some_iff.mp he
      obtain ⟨a, ha, ht⟩ := Option.bind_eq_some_iff.mp hi
      cases ht
      exact h.setCode i (rangeItem_cases ha).2
  case h_24 =>
    split at he
    · obtain ⟨x, hx, rfl⟩ := Option.map_eq_some_iff.mp he
      exact h.setLaw _ (lawItem_cases hx)
    · cases he
  case h_28 => cases he
  all_goals
    obtain ⟨a, ha, rfl⟩ := enterStation_cases he
    have hr := rangeItem_cases ha
  case h_10 => exact { h with deadband := hr.2 }
  case h_11 => exact { h with faultCount := hr }
  case h_12 => exact { h with quietTime := hr }
  case h_13 => exact { h with returnTime := hr.2 }
  case h_16 => exact { h with guardWindow := hr.2 }
  case h_17 => exact { h with readbackWindow := hr.2 }
  case h_18 => exact { h with readbackLimit := hr }
  case h_20 => exact { h with recoveryTime := hr.2 }
  case h_23 => exact { h with }
  case h_25 => exact { h with scan := ⟨hr.2, h.scan.2⟩ }
  case h_26 => exact { h with scan := ⟨h.scan.1, hr.2⟩ }
  case h_27 => exact { h with }

/-! ## What each code does with its index and value -/

section
variable (k : Configuration) (v : BitVec 16)

theorem map_rangeItem (lo hi : Nat) (f : Nat → Configuration) :
    (rangeItem v lo hi).map f = if lo ≤ v.toNat ∧ v.toNat ≤ hi then some (f v.toNat) else none := by
  unfold rangeItem; split <;> rfl

theorem map_rangeItem_zero (hi : Nat) (f : Nat → Configuration) :
    (rangeItem v 0 hi).map f = if v.toNat ≤ hi then some (f v.toNat) else none := by
  rw [rangeItem_zero]; split <;> rfl

theorem map_levelItem (f : Int → Configuration) :
    (levelItem v).map f = if -1024 ≤ v.toInt ∧ v.toInt ≤ 1023 then some (f v.toInt) else none := by
  unfold levelItem; split <;> rfl

theorem modeItem_code {n : Nat} {m : Mode} (h : (n, m) ∈ [(0, Mode.auto), (1, .latch), (2, .safe)]) (hv : v.toNat = n) :
    modeItem v = some m := by
  simp only [List.mem_cons, Prod.mk.injEq, List.not_mem_nil, or_false] at h
  rcases h with ⟨rfl, rfl⟩ | ⟨rfl, rfl⟩ | ⟨rfl, rfl⟩ <;> simp only [modeItem, hv]

theorem sourceItem_code {n : Nat} {m : TouchSource} (h : (n, m) ∈ [(0, TouchSource.line), (1, .motion)]) (hv : v.toNat = n) :
    sourceItem v = some m := by
  simp only [List.mem_cons, Prod.mk.injEq, List.not_mem_nil, or_false] at h
  rcases h with ⟨rfl, rfl⟩ | ⟨rfl, rfl⟩ <;> simp only [sourceItem, hv]

theorem actionItem_code {n : Nat} {a : Action} (h : (n, a) ∈ [(0, Action.none), (1, .hold), (2, .duck), (3, .mute)])
    (hv : v.toNat = n) : actionItem v = some a := by
  simp only [List.mem_cons, Prod.mk.injEq, List.not_mem_nil, or_false] at h
  rcases h with ⟨rfl, rfl⟩ | ⟨rfl, rfl⟩ | ⟨rfl, rfl⟩ | ⟨rfl, rfl⟩ <;> simp only [actionItem, hv]

theorem modeItem_above (h : 2 < v.toNat) : modeItem v = none := by
  unfold modeItem
  split
  case h_4 => rfl
  all_goals omega

theorem sourceItem_above (h : 1 < v.toNat) : sourceItem v = none := by
  unfold sourceItem
  split
  case h_3 => rfl
  all_goals omega

theorem actionItem_above (h : 3 < v.toNat) : actionItem v = none := by
  unfold actionItem
  split
  case h_5 => rfl
  all_goals omega

theorem enterItem_unknownCode {code : Nat} (index : Nat) (h : 27 < code ∨ code = 0) : enterItem k code index v = none := by
  unfold enterItem
  split
  case h_28 => rfl
  all_goals omega

theorem enterItem_channelIndex {code index : Nat} (hc : code ≤ 6) (hi : index = 0 ∨ 24 < index) :
    enterItem k code index v = none := by
  unfold enterItem
  split
  case h_1 | h_2 | h_3 | h_4 | h_5 | h_6 => exact enterChannel_outside k hi _ _
  case h_28 => rfl
  all_goals omega

theorem enterItem_keyIndex {index : Nat} (hi : index = 0 ∨ 8 < index) : enterItem k 9 index v = none := by
  show (oneBased 8 index).bind _ = none
  rw [oneBased_outside hi]; rfl

theorem enterItem_masterIndex {code index : Nat} (hc : code = 7 ∨ code = 8 ∨ code = 9) (hi : index = 0 ∨ 8 < index) :
    enterItem k code index v = none := by
  rcases hc with rfl | rfl | rfl
  · exact enterMaster_outside k hi _ _
  · exact enterMaster_outside k hi _ _
  · exact enterItem_keyIndex k v hi

theorem enterItem_stationIndex {code index : Nat} (h10 : 10 ≤ code) (hc : code ≤ 20 ∨ code = 23 ∨ 25 ≤ code) (hi : index ≠ 0) :
    enterItem k code index v = none := by
  unfold enterItem
  split
  case h_1 | h_2 | h_3 | h_4 | h_5 | h_6 | h_7 | h_8 | h_9 | h_21 | h_22 | h_24 => omega
  case h_28 => rfl
  all_goals exact enterStation_index hi _ _

theorem enterItem_actionIndex {index : Nat} (hi : index = 0 ∨ 4 < index) : enterItem k 21 index v = none := by
  show (oneBased 4 index).bind _ = none
  rw [oneBased_outside hi]; rfl

theorem enterItem_codeAt {index : Nat} (hi : index ≠ 0) :
    enterItem k 22 index v =
      (oneBased 6 index).bind fun i => (rangeItem v 0 35).bind fun a => some { k with unlockCodes := k.unlockCodes.set i a } :=
  if_neg hi

theorem enterItem_codeIndex {index : Nat} (hi : 6 < index) : enterItem k 22 index v = none := by
  rw [enterItem_codeAt k v (by omega), oneBased_outside (.inr hi)]; rfl

theorem enterItem_lawIndex {index : Nat} (hi : 15 < index) : enterItem k 24 index v = none := dif_neg (by omega)

theorem enterItem_key (i : Fin 8) :
    enterItem k 9 (i.val + 1) v = (optionItem 16 v).map fun g => { k with keyMap := k.keyMap.set i g } := by
  show (oneBased 8 (i.val + 1)).bind _ = _
  rw [oneBased_succ]; cases optionItem 16 v <;> rfl

theorem enterItem_action (i : Fin 4) :
    enterItem k 21 (i.val + 1) v = (actionItem v).map fun a => { k with actions := k.actions.set i a } := by
  show (oneBased 4 (i.val + 1)).bind _ = _
  rw [oneBased_succ]; cases actionItem v <;> rfl

theorem enterItem_code (i : Fin 6) :
    enterItem k 22 (i.val + 1) v = (rangeItem v 0 35).map fun a => { k with unlockCodes := k.unlockCodes.set i a } := by
  rw [enterItem_codeAt k v (by omega), oneBased_succ]; cases rangeItem v 0 35 <;> rfl

theorem enterItem_law (b : Fin 16) :
    enterItem k 24 b.val v =
      if -900 ≤ v.toInt ∧ v.toInt ≤ 100 then some { k with law := k.law.set b v.toInt } else none := by
  show (if h : b.val < 16 then (lawItem v).map fun a => { k with law := k.law.set ⟨b.val, h⟩ a } else none) = _
  rw [dif_pos b.isLt, lawItem]
  show Option.map _ (if -900 ≤ v.toInt ∧ v.toInt ≤ 100 then some v.toInt else none) = _
  split <;> rfl

theorem ofNat_eq_setWidth (n : Nat) : BitVec.ofNat n v.toNat = v.setWidth n := by
  apply BitVec.eq_of_toNat_eq; simp

/-- The items of a channel with a code for each value (1 and 2), and the number items (3 to 5). -/
theorem channelItem_succ (c : Channel) :
    enterItem k 1 (c.val + 1) v = (modeItem v).map (fun m => { k with chan := k.chan.modify c fun x => { x with mode := m } }) ∧
    enterItem k 2 (c.val + 1) v =
      (sourceItem v).map (fun m => { k with chan := k.chan.modify c fun x => { x with source := m } }) ∧
    enterItem k 3 (c.val + 1) v =
      (levelItem v).map (fun a => { k with chan := k.chan.modify c fun x => { x with ceiling := clampCeiling a } }) ∧
    enterItem k 4 (c.val + 1) v =
      (rangeItem v 0 255).map (fun a => { k with chan := k.chan.modify c fun x => { x with masters := BitVec.ofNat 8 a } }) ∧
    enterItem k 5 (c.val + 1) v = some { k with chan := k.chan.modify c fun x => { x with groups := v } } ∧
    enterItem k 6 (c.val + 1) v =
      (optionItem 32 v).map (fun l => { k with chan := k.chan.modify c fun x => { x with link := l } }) :=
  ⟨enterChannel_succ .., enterChannel_succ .., enterChannel_succ .., enterChannel_succ .., enterChannel_succ ..,
    enterChannel_succ ..⟩

theorem masterItem_succ (m : MasterNo) :
    enterItem k 7 (m.val + 1) v =
      (ownerItem v).map (fun o => { k with master := k.master.modify m fun x => { x with owner := o } }) ∧
    enterItem k 8 (m.val + 1) v =
      (optionItem 4 v).map (fun o => { k with master := k.master.modify m fun x => { x with slot := o } }) :=
  ⟨enterMaster_succ .., enterMaster_succ ..⟩

end

/-- Settles O47, by the code of the item: the table's rows one by one, each with the values it admits. -/
theorem configurationItems : Obligations.ConfigurationItems := by
  intro k v
  refine ⟨fun code index h => enterItem_unknownCode k v index h, fun code index hc hi => enterItem_channelIndex k v hc hi,
    fun code index hc hi => enterItem_masterIndex k v hc hi, fun code index h hc hi => enterItem_stationIndex k v h hc hi,
    fun index hi => enterItem_actionIndex k v hi, fun index hi => enterItem_codeIndex k v hi,
    fun index hi => enterItem_lawIndex k v hi, fun c => ?channels, fun m => ?masters, fun i => ?keys,
    map_rangeItem_zero v .., map_rangeItem v .., map_rangeItem v .., map_rangeItem_zero v .., rfl, rfl, map_rangeItem_zero v ..,
    map_rangeItem_zero v .., map_rangeItem v .., map_levelItem v _, map_rangeItem_zero v .., fun i => ?actions,
    map_rangeItem v .., fun i => ?codes, map_rangeItem_zero v .., enterItem_law k v, map_rangeItem_zero v ..,
    map_rangeItem_zero v .., ?mask⟩
  case channels =>
    obtain ⟨hmode, hsource, hceiling, hmasters, hgroups, hlink⟩ := channelItem_succ k v c
    rw [hmode, hsource, hceiling, hmasters, hlink]
    refine ⟨fun n m h hv => by rw [modeItem_code v h hv]; rfl, fun h => by rw [modeItem_above v h]; rfl,
      fun n m h hv => by rw [sourceItem_code v h hv]; rfl, fun h => by rw [sourceItem_above v h]; rfl, map_levelItem v _, ?_,
      hgroups, fun l hv => by rw [optionItem_succ l hv]; rfl, fun hv => by rw [optionItem_zero 32 hv]; rfl,
      fun hv => by rw [optionItem_above hv]; rfl⟩
    rw [map_rangeItem_zero, ofNat_eq_setWidth]
  case masters =>
    obtain ⟨howner, hslot⟩ := masterItem_succ k v m
    rw [howner, hslot]
    exact ⟨fun p hv => by rw [ownerItem_of_lt p hv]; rfl, fun hv => by rw [ownerItem_above hv]; rfl,
      fun hv => by rw [optionItem_zero 4 hv]; rfl, fun j hv => by rw [optionItem_succ j hv]; rfl,
      fun hv => by rw [optionItem_above hv]; rfl⟩
  case keys =>
    rw [enterItem_key]
    exact ⟨fun hv => by rw [optionItem_zero 16 hv]; rfl, fun g hv => by rw [optionItem_succ g hv]; rfl,
      fun hv => by rw [optionItem_above hv]; rfl⟩
  case actions =>
    rw [enterItem_action]
    exact ⟨fun n a h hv => by rw [actionItem_code v h hv]; rfl, fun h => by rw [actionItem_above v h]; rfl⟩
  case codes => rw [enterItem_code, map_rangeItem_zero]
  case mask =>
    rw [← ofNat_eq_setWidth]
    exact map_rangeItem_zero v ..

end Sys2Proof.Machine

/-! SUPPORT. What every command does, said once: it ends its event on a state that its work has kept sound, or it is a reset, or it
names no event. The three invariants of O53, O55 and O56 follow from that and from what the end of an event forms. -/

namespace Sys2Proof.Machine

/-! ## The action stage of a channel (R173, R175) -/

namespace ComposerChannel.Legal

variable {g : ComposerChannel} {e a : Action}

/-- Neither the composed nor the applied level bears on the action stage. -/
theorem levels (h : g.Legal e) (composed applied : Level) :
    ComposerChannel.Legal { g with composed := composed, applied := applied } e := ⟨h.action, h.held, h.glide, h.running⟩

theorem form (h : g.Legal e) (duck : Level) : (g.form duck).Legal e := h.levels ..

theorem hand (g : ComposerChannel) (a : Action) {recovery : Nat} (hr : recovery ≤ 1000) : (g.hand a recovery).Legal a := by
  cases a with
  | hold => exact ⟨rfl, by simp [ComposerChannel.hand], by simp [ComposerChannel.hand], by simp [ComposerChannel.hand]⟩
  | duck => exact ⟨rfl, by simp [ComposerChannel.hand], by simp [ComposerChannel.hand], by simp [ComposerChannel.hand]⟩
  | mute => exact ⟨rfl, by simp [ComposerChannel.hand], by simp [ComposerChannel.hand], by simp [ComposerChannel.hand]⟩
  | none =>
    by_cases h0 : recovery = 0
    · simp only [ComposerChannel.hand, if_pos h0]
      exact ⟨.inl rfl, by simp, by simp, by simp⟩
    · simp only [ComposerChannel.hand, if_neg h0]
      exact ⟨.inr rfl, by simp, by simp, by simpa using ⟨Nat.pos_of_ne_zero h0, hr⟩⟩

/-- A recovery glide runs under no action alone. -/
theorem none_of_glide (h : g.Legal e) {r : Glide} (hg : g.glide = some r) : e = .none ∧ g.action = .recovering ∧ g.held = none := by
  have hrec : g.action = .recovering := h.glide.mp (by simp [hg])
  have hheld : g.held = none := by
    cases hh : g.held with
    | none => rfl
    | some x => have := h.held.mp (by simp [hh]); simp [hrec] at this
  have ha := h.action
  cases e with
  | none => exact ⟨rfl, hrec, hheld⟩
  | _ => simp [hrec] at ha

/-- A recovery glide whose count rises by one, ended where it has run out (R175). -/
theorem advanceGlide (h : g.Legal e) : g.advanceGlide.Legal e := by
  unfold ComposerChannel.advanceGlide
  split
  · exact h
  · next r hr =>
    obtain ⟨rfl, hrec, hheld⟩ := h.none_of_glide hr
    unfold ComposerChannel.endGlide
    dsimp only
    split
    · exact ⟨.inl rfl, by simp [hheld], by simp, by simp⟩
    · next hrun =>
      refine ⟨.inr hrec, by simp [hheld, hrec], by simp [hrec], ?_⟩
      have hd := (h.running r hr).2
      simp only [Option.mem_def, Option.some.injEq, forall_eq']
      omega

theorem endGlide (h : g.Legal e) : g.endGlide.Legal e := by
  unfold ComposerChannel.endGlide
  split
  · exact h
  · next r hr =>
    obtain ⟨rfl, -, hheld⟩ := h.none_of_glide hr
    split
    · exact ⟨.inl rfl, by simp [hheld], by simp, by simp⟩
    · exact h

end ComposerChannel.Legal

theorem composeChannel_legal {w : State} (hw : w.config.Legal) {c : Channel} {g : ComposerChannel}
    (hg : g.Legal (w.fi.effective.get c)) : (w.composeChannel c g).Legal (w.effectiveAction c) := by
  unfold State.composeChannel
  dsimp only
  split
  · next h => rw [h]; exact (hg.levels ..).form _
  · exact (ComposerChannel.Legal.hand _ _ hw.recoveryTime).form _

theorem settle_actionsLegal {w : State} (hw : w.config.Legal) (ha : w.ActionsLegal) : w.settle.ActionsLegal := fun c => by
  rw [settle_channel, settle_effective]; exact composeChannel_legal hw (ha c)

theorem commit_actionsLegal {w : State} (s : State) (hw : w.config.Legal) (ha : w.ActionsLegal) :
    (w.commit s).ActionsLegal := fun c => by
  rw [commit_channel, commit_effective]; exact composeChannel_legal hw (ha c)

/-! ## The levels of a channel in GC (R13, R174) -/

/-- The levels that outlive the forming of a channel's levels: the held one and the start of a recovery glide. -/
structure ComposerChannel.KeptUnder (g : ComposerChannel) (ceiling : Level) : Prop where
  held : ∀ x ∈ g.held, InCeiling ceiling x
  recovery : ∀ r ∈ g.glide, InCeiling ceiling r.start

/-- Every level of a channel in GC lies under a ceiling. -/
structure ComposerChannel.LevelsUnder (g : ComposerChannel) (ceiling : Level) : Prop extends g.KeptUnder ceiling where
  composed : InCeiling ceiling g.composed
  applied : InCeiling ceiling g.applied

theorem InCeiling.between {ceiling a b x : Level} (ha : InCeiling ceiling a) (hb : InCeiling ceiling b)
    (h : min a b ≤ x ∧ x ≤ max a b) : InCeiling ceiling x :=
  ⟨(le_min ha.1 hb.1).trans h.1, h.2.trans (max_le ha.2 hb.2)⟩

/-- A ceiling and a duck level as a configuration in range has them. -/
structure InRange (ceiling duck : Level) : Prop where
  ceiling : Config.levelFloor ≤ ceiling ∧ ceiling ≤ Config.levelTop
  duck : Config.levelFloor ≤ duck

theorem Configuration.Legal.inRange {k : Configuration} (h : k.Legal) (c : Channel) : InRange (k.chan.get c).ceiling k.duck :=
  ⟨h.ceiling c, h.duck.1⟩

theorem off_le_floor : off ≤ Config.levelFloor := by decide

namespace InRange

variable {ceiling duck : Level} (h : InRange ceiling duck)
include h

theorem off : InCeiling ceiling Sys2Proof.off := ⟨le_rfl, off_le_floor.trans h.ceiling.1⟩

theorem inScale {x : Level} (hx : InCeiling ceiling x) : InScale x := ⟨hx.1, hx.2.trans h.ceiling.2⟩

theorem ducked {x : Level} (hx : InCeiling ceiling x) : InCeiling ceiling (min x duck) :=
  ⟨le_min hx.1 (off_le_floor.trans h.duck), (min_le_left ..).trans hx.2⟩

/-- The level that a channel's action state gives lies under the ceiling (R174). -/
theorem level {g : ComposerChannel} {e : Action} (hg : g.Legal e) (hk : g.KeptUnder ceiling) (hc : InCeiling ceiling g.composed) :
    InCeiling ceiling (g.level duck) := by
  cases ha : g.action with
  | none => rw [g.level_none duck ha]; exact hc
  | duck => rw [g.level_duck duck ha]; exact h.ducked hc
  | mute => rw [g.level_mute duck ha]; exact h.off
  | hold =>
    obtain ⟨x, hx⟩ := Option.isSome_iff_exists.mp (hg.held.mpr ha)
    rw [g.level_hold duck ha, hx]; exact hk.held x hx
  | recovering =>
    obtain ⟨r, hr⟩ := Option.isSome_iff_exists.mp (hg.glide.mpr ha)
    rw [g.level_recovering duck ha, hr]; exact (hk.recovery r hr).between hc (r.level_between _)

theorem form {g : ComposerChannel} {e : Action} (hg : g.Legal e) (hk : g.KeptUnder ceiling) (hc : InCeiling ceiling g.composed) :
    (g.form duck).LevelsUnder ceiling :=
  ⟨⟨hk.held, hk.recovery⟩, hc, h.level hg hk hc⟩

theorem hand {g : ComposerChannel} (hg : g.LevelsUnder ceiling) (a : Action) (recovery : Nat) :
    ((g.hand a recovery).form duck).LevelsUnder ceiling := by
  rw [g.hand_form duck]
  cases a with
  | hold => exact ⟨⟨by simpa using hg.applied, by simp⟩, hg.composed, hg.applied⟩
  | duck => exact ⟨⟨by simp, by simp⟩, hg.composed, h.ducked hg.composed⟩
  | mute => exact ⟨⟨by simp, by simp⟩, hg.composed, h.off⟩
  | none =>
    dsimp only
    split
    · exact ⟨⟨by simp, by simp⟩, hg.composed, hg.composed⟩
    · exact ⟨⟨by simp, by simpa using hg.applied⟩, hg.composed, hg.applied⟩

end InRange

theorem composedLevel_inCeiling {w : State} {c : Channel}
    (h : Config.levelFloor ≤ (w.config.chan.get c).ceiling) : InCeiling (w.config.chan.get c).ceiling (w.composedLevel c) := by
  rcases composedLevel_off_or h with e | ⟨hlow, hhigh⟩
  · rw [e]; exact ⟨le_rfl, off_le_floor.trans h⟩
  · exact ⟨off_le_floor.trans hlow, hhigh⟩

/-- The end of an event forms levels under the ceiling from a held level and a glide that lie under it. -/
theorem composeChannel_levels {w : State} (hw : w.config.Legal) {c : Channel} {g : ComposerChannel}
    (hg : g.Legal (w.fi.effective.get c)) (hk : g.KeptUnder (w.config.chan.get c).ceiling) :
    (w.composeChannel c g).LevelsUnder (w.config.chan.get c).ceiling := by
  have hr := hw.inRange c
  have hform := hr.form (g := { g with composed := w.composedLevel c }) (hg.levels ..) ⟨hk.held, hk.recovery⟩
    (composedLevel_inCeiling hr.ceiling.1)
  unfold State.composeChannel
  dsimp only
  split
  · exact hform
  · exact hr.hand hform ..

theorem State.LevelsLegal.blocks {s : State} (h : s.LevelsLegal) : s.BlocksInScale where
  fade c := ⟨h.cueLevel c, h.record c⟩
  waiting := h.waiting
  fader := h.fader
  takeover c := ⟨h.manual c, h.glide c⟩
  link := h.link
  master := h.master

theorem State.LevelsLegal.channel {s : State} (h : s.LevelsLegal) (c : Channel) :
    (s.gc.chan.get c).LevelsUnder (s.config.chan.get c).ceiling := ⟨⟨h.held c, h.recovery c⟩, h.composed c, h.applied c⟩

theorem levelsLegal_of {s : State} (hb : s.BlocksInScale)
    (hc : ∀ c, (s.gc.chan.get c).LevelsUnder (s.config.chan.get c).ceiling)
    (hp : ∀ c, ∀ x ∈ (s.gp.chan.get c).lastSent, InScale x) : s.LevelsLegal where
  cueLevel c := (hb.fade c).1
  record c := (hb.fade c).2
  waiting := hb.waiting
  fader := hb.fader
  manual c := (hb.takeover c).1
  glide c := (hb.takeover c).2
  link := hb.link
  master := hb.master
  composed c := (hc c).composed
  applied c := (hc c).applied
  held c := (hc c).held
  recovery c := (hc c).recovery
  lastSent := hp

section
variable {w : State} (hw : w.config.Legal) (ha : w.ActionsLegal) (hb : w.BlocksInScale)
  (hk : ∀ c, (w.gc.chan.get c).KeptUnder (w.config.chan.get c).ceiling) (hp : ∀ c, ∀ x ∈ (w.gp.chan.get c).lastSent, InScale x)
include hw ha hb hk hp

theorem settle_levelsLegal : w.settle.LevelsLegal := by
  have hconfig : w.settle.config = w.config := by simp only [State.config, State.settle_sl]
  refine levelsLegal_of ?_ (fun c => ?_) ?_
  · simpa only [State.BlocksInScale, State.settle_fe, State.settle_pi, State.settle_tk, State.settle_sg] using hb
  · rw [settle_channel, hconfig]; exact composeChannel_levels hw (ha c) (hk c)
  · simpa only [State.settle_gp] using hp

theorem commit_levelsLegal (s : State) : (w.commit s).LevelsLegal := by
  refine levelsLegal_of ?_ (fun c => ?_) ?_
  · simpa only [State.BlocksInScale, State.commit_fe, State.commit_pi, State.commit_tk, State.commit_sg] using hb
  · rw [commit_channel, State.commit_config]; exact composeChannel_levels hw (ha c) (hk c)
  · simpa only [State.commit_gp_chan] using hp

end

/-! ## What the work of an event keeps -/

/-- Every flag is set whose condition FI has taken as present (R176). -/
def State.FlagsHold (s : State) : Prop := ∀ f : Flag, s.fi.taken.get f.bit = true → s.flag f = true

/-- An operation that keeps the store, the configuration, the action stages, the flags and the levels sound. -/
structure State.Keeps (s t : State) : Prop where
  store : s.cs.Legal → t.cs.Legal
  config : s.ConfigLegal → t.ConfigLegal
  actions : s.ConfigLegal → s.ActionsLegal → t.ActionsLegal
  flags : s.FlagsHold → t.FlagsHold
  levels : s.cs.Legal → s.ConfigLegal → s.ActionsLegal → s.LevelsLegal → t.LevelsLegal

namespace State.Keeps

variable {s t u : State}

theorem trans (h : s.Keeps t) (k : t.Keeps u) : s.Keeps u where
  store hs := k.store (h.store hs)
  config hc := k.config (h.config hc)
  actions hc ha := k.actions (h.config hc) (h.actions hc ha)
  flags hf := k.flags (h.flags hf)
  levels hs hc ha hl := k.levels (h.store hs) (h.config hc) (h.actions hc ha) (h.levels hs hc ha hl)

theorem refl (s : State) : s.Keeps s := ⟨id, id, fun _ => id, id, fun _ _ _ => id⟩

theorem ite {c : Prop} [Decidable c] (ht : s.Keeps t) (hu : s.Keeps u) : s.Keeps (if c then t else u) := by
  split
  · exact ht
  · exact hu

end State.Keeps

theorem State.Moves.keeps {s t : State} (h : s.Moves True t) : s.Keeps t where
  store hs := h.cs ▸ hs
  config := State.configLegal_congr h.config h.assembly
  actions _ ha c := by rw [h.gc, h.effective]; exact ha c
  flags hf f ht := h.flags f.bit (hf f (h.taken ▸ ht))
  levels hs hc _ hl := by
    refine levelsLegal_of (h.levels trivial ⟨hs, hc, hl.blocks⟩) (fun c => ?_) (h.gp ▸ hl.lastSent)
    rw [h.gc, State.config, h.config]; exact hl.channel c

theorem settle_flagsHold {w : State} (h : w.FlagsHold) : w.settle.FlagsHold := fun f ht => by
  rw [settle_taken, flagAt_bit] at ht
  rw [State.flag, settle_flags, flagAt_bit, ht, Bool.true_and]
  cases htaken : w.fi.taken.get f.bit with
  | false => simp
  | true => simpa [State.flag] using h f htaken

end Sys2Proof.Machine

/-! SUPPORT. What every command does, said once: it ends its event on a state that its work has kept sound, or it completes a
transfer, or it is a reset, or it names no event. -/

namespace Sys2Proof.Machine

section
variable (s : State)

/-! ## Store edits (chapter 2) -/

theorem keeps_store {cs : CueStore} (h : s.cs.Legal → cs.Legal) : s.Keeps { s with cs := cs } where
  store := h
  config := State.configLegal_congr rfl rfl
  actions _ := id
  flags := id
  levels _ _ _ hl := levelsLegal_of hl.blocks hl.channel hl.lastSent

theorem keeps_loadStep {st : CueStep} (hst : st.Legal) : s.Keeps (s.loadStep st) := by
  by_cases h : (∃ x ∈ s.cs.steps, x.key = st.key) ∨ s.cs.steps.length < 2048
  · rw [loadStep_taken h]; exact keeps_store s fun hs => hs.placeStep hst h
  · have hrefuse : s.loadStep st = s.refuseLoad .tableFull := by
      refine if_neg fun k => h ?_
      rwa [Bool.or_eq_true, steps_any_sameKey, decide_eq_true_eq] at k
    rw [hrefuse]; exact (moves_refuseLoad s _).keeps

theorem keeps_loadHeader {r : Header} (hr : r.cue ≠ 0 ∧ ∀ d ∈ r.follow, d ≤ 65535) : s.Keeps (s.loadHeader r) := by
  by_cases h : (∃ x ∈ s.cs.headers, x.key = r.key) ∨ s.cs.headers.length < 512
  · rw [loadHeader_taken h]; exact keeps_store s fun hs => hs.placeHeader hr h
  · have hrefuse : s.loadHeader r = s.refuseLoad .tableFull := by
      refine if_neg fun k => h ?_
      rwa [Bool.or_eq_true, headers_any_cue, decide_eq_true_eq] at k
    rw [hrefuse]; exact (moves_refuseLoad s _).keeps

theorem keeps_sublists {steps : List CueStep} {headers : List Header} (hs : steps.Sublist s.cs.steps)
    (hh : headers.Sublist s.cs.headers) (banks : Table 16 Bank) : s.Keeps { s with cs := ⟨steps, headers, banks⟩ } :=
  keeps_store s fun h => h.sublists hs hh banks

theorem keeps_checkKey (cue : Cue) (channel : Fin 32) (body : Channel → State) (hb : cue ≠ 0 → ∀ c, s.Keeps (body c)) :
    s.Keeps (s.checkKey cue channel body) := by
  unfold State.checkKey
  split
  · exact (moves_refuseLoad s _).keeps
  · next hc =>
    split
    · exact (moves_refuseLoad s _).keeps
    · exact hb hc _

theorem keeps_checkCue (cue : Cue) (body : State) (hb : cue ≠ 0 → s.Keeps body) : s.Keeps (s.checkCue cue body) := by
  unfold State.checkCue
  split
  · exact (moves_refuseLoad s _).keeps
  · next hc => exact hb hc

/-! ## Actions and recovery glides (chapter 10) -/

/-- A channel of GC and the action FI holds for it, changed together. -/
theorem keeps_channel (c : Channel) (g : ComposerChannel) (a : Action)
    (hg : s.ConfigLegal → (s.gc.chan.get c).Legal (s.fi.effective.get c) → g.Legal a)
    (hl : s.ConfigLegal → (s.gc.chan.get c).LevelsUnder (s.config.chan.get c).ceiling →
      g.LevelsUnder (s.config.chan.get c).ceiling) :
    s.Keeps { s with gc.chan := s.gc.chan.set c g, fi.effective := s.fi.effective.set c a } where
  store := id
  config := State.configLegal_congr rfl rfl
  actions hc ha d := by
    show ((s.gc.chan.set c g).get d).Legal ((s.fi.effective.set c a).get d)
    rw [Table.get_set, Table.get_set]
    split
    · exact hg hc (ha c)
    · exact ha d
  flags := id
  levels _ hc _ hs := by
    refine levelsLegal_of hs.blocks (fun d => ?_) hs.lastSent
    show ((s.gc.chan.set c g).get d).LevelsUnder (s.config.chan.get d).ceiling
    rw [Table.get_set]
    split
    · next e => subst e; exact hl hc (hs.channel c)
    · exact hs.channel d

theorem keeps_handAction (c : Channel) : s.Keeps (State.handAction c s) := by
  unfold State.handAction
  refine .ite (.refl s) (keeps_channel s c _ _ (fun hc _ => ?_) fun hc hl => ?_)
  · exact (ComposerChannel.Legal.hand _ _ hc.inForce.recoveryTime).form _
  · exact (hc.inForce.inRange c).hand hl ..

/-- A change of every channel of GC that keeps its action stage and its levels. -/
theorem keeps_mapGc (f : ComposerChannel → ComposerChannel) (hf : ∀ g e, ComposerChannel.Legal g e → (f g).Legal e)
    (hl : ∀ g ceiling, ComposerChannel.LevelsUnder g ceiling → (f g).LevelsUnder ceiling) (chan : Table 24 ComposerChannel)
    (recoveryTimer : Timer) (hchan : ∀ c, chan.get c = s.gc.chan.get c ∨ chan.get c = f (s.gc.chan.get c)) :
    s.Keeps { s with gc := ⟨chan, recoveryTimer⟩ } where
  store := id
  config := State.configLegal_congr rfl rfl
  actions _ ha c := by
    show (chan.get c).Legal (s.fi.effective.get c)
    rcases hchan c with e | e
    · rw [e]; exact ha c
    · rw [e]; exact hf _ _ (ha c)
  flags := id
  levels _ _ _ hs := by
    refine levelsLegal_of hs.blocks (fun c => ?_) hs.lastSent
    show (chan.get c).LevelsUnder (s.config.chan.get c).ceiling
    rcases hchan c with e | e
    · rw [e]; exact hs.channel c
    · rw [e]; exact hl _ _ (hs.channel c)

namespace ComposerChannel.LevelsUnder

variable {g : ComposerChannel} {ceiling : Level}

theorem endGlide (h : g.LevelsUnder ceiling) : g.endGlide.LevelsUnder ceiling := by
  unfold ComposerChannel.endGlide
  split
  · exact h
  · split
    · exact ⟨⟨h.held, by simp⟩, h.composed, h.applied⟩
    · exact h

theorem advanceGlide (h : g.LevelsUnder ceiling) : g.advanceGlide.LevelsUnder ceiling := by
  unfold ComposerChannel.advanceGlide
  split
  · exact h
  · next r hr => exact endGlide ⟨⟨h.held, by simpa using h.recovery r hr⟩, h.composed, h.applied⟩

end ComposerChannel.LevelsUnder

/-! ## Fader readings (R84 to R87) -/

theorem keeps_countReading (k : FaderSlot) (rail : Bool) : s.Keeps (s.countReading k rail) := by
  have h : s.Moves True (s.modifySlot k fun x => x.count rail s.config.faultCount) :=
    moves_modifySlot s k _ fun _ _ h => by rw [SlotState.count_level]; exact h
  unfold State.countReading
  dsimp only
  split
  · exact h.keeps
  · refine .ite (h.trans (moves_endTouch ..)).keeps (.ite ?_ h.keeps)
    exact (h.trans (moves_modifyTouch ..)).keeps.trans (keeps_handAction ..)

theorem keeps_readFader (k : FaderSlot) (raw : Nat) : s.Keeps (s.readFader k raw) :=
  .ite ((keeps_countReading s ..).trans (moves_acceptReading ..).keeps) (keeps_countReading s ..)

/-! ## The configuration transfer (R156, R157) -/

theorem keeps_assembly (b : Option Assembly) (h : s.ConfigLegal → ∀ a ∈ b, a.config.Legal) :
    s.Keeps { s with sl.assembly := b } where
  store := id
  config hc := ⟨hc.inForce, hc.order, h hc⟩
  actions _ := id
  flags := id
  levels _ _ _ hl := levelsLegal_of hl.blocks hl.channel hl.lastSent

theorem keeps_openAssembly : s.Keeps s.openAssembly :=
  (keeps_assembly s (some ⟨s.config, false⟩) fun hc a ha => by cases ha; exact hc.inForce).trans
    (State.Moves.keeps (t := s.openAssembly) (.of_eq rfl rfl id))

theorem keeps_takeItem (code index : Nat) (value : BitVec 16) : s.Keeps (s.takeItem code index value) := by
  unfold State.takeItem
  split
  · exact (moves_refuseLoad s _).keeps
  · next a ha =>
    split
    · refine (moves_refuseLoad s .badItem).keeps.trans (keeps_assembly _ _ fun hc b hb => ?_)
      cases hb
      exact hc.assembly a (by rw [State.refuseLoad_sl]; exact ha)
    · next k hk =>
      refine keeps_assembly s _ fun hc b hb => ?_
      cases hb
      exact enterItem_legal (hc.assembly a ha) hk

theorem acceptTakeover_levels {u : State} (hu : ∀ l, InScale (u.tk.link.get l).level) (old : Configuration) (c : Channel)
    {ch : TakeoverChannel} (h : ch.LevelsInScale) : (u.acceptTakeover old c ch).LevelsInScale := by
  unfold State.acceptTakeover
  split
  · exact h
  · have hreset : TakeoverChannel.LevelsInScale { ch with state := resetTakeover (u.mode c), glide := none, manual := off } :=
      ⟨off_inScale, by simp⟩
    dsimp only
    split
    · exact hreset
    · split
      · exact .hold (hu _)
      · exact hreset

theorem acceptMaster_level {u : State} (old : Configuration) (m : MasterNo) {r : MasterRecord} (h : InScale r.level) :
    InScale (u.acceptMaster old m r).level := by
  unfold State.acceptMaster
  split
  · exact h
  · exact ⟨by decide, by decide⟩

theorem lowerToCeiling_legal (u : State) (c : Channel) {g : ComposerChannel} {e : Action} (h : g.Legal e) :
    (u.lowerToCeiling c g).Legal e where
  action := h.action
  held := by simpa [State.lowerToCeiling] using h.held
  glide := by simpa [State.lowerToCeiling] using h.glide
  running r hr := by
    obtain ⟨q, hq, rfl⟩ := Option.map_eq_some_iff.mp hr
    exact h.running q hq

/-- A held level and a glide's start are lowered to the new ceiling where they lie above it (R174). -/
theorem lowerToCeiling_under {u : State} {c : Channel} {ceiling duck : Level}
    (hr : InRange (u.config.chan.get c).ceiling duck) {g : ComposerChannel} (h : g.KeptUnder ceiling) :
    (u.lowerToCeiling c g).KeptUnder (u.config.chan.get c).ceiling := by
  have lowered : ∀ x, InCeiling ceiling x → InCeiling (u.config.chan.get c).ceiling (min x (u.config.chan.get c).ceiling) :=
    fun x hx => ⟨le_min hx.1 hr.off.2, min_le_right ..⟩
  constructor
  · intro x hx
    obtain ⟨y, hy, rfl⟩ := Option.map_eq_some_iff.mp hx
    exact lowered y (h.held y hy)
  · intro r hr'
    obtain ⟨q, hq, rfl⟩ := Option.map_eq_some_iff.mp hr'
    exact lowered _ (h.recovery q hq)

/-- What `settle` keeps, from a state that differs in its configuration, its takeover records, its masters and GC's held
levels and glides. -/
theorem keeps_settle {w : State} (hcs : w.cs = s.cs) (hfi : w.fi = s.fi) (hgp : w.gp = s.gp)
    (hconfig : s.ConfigLegal → w.ConfigLegal)
    (hactions : ∀ c e, (s.gc.chan.get c).Legal e → (w.gc.chan.get c).Legal e)
    (hblocks : s.BlocksInScale → w.BlocksInScale)
    (hunder : s.ConfigLegal → s.LevelsLegal → ∀ c, (w.gc.chan.get c).KeptUnder (w.config.chan.get c).ceiling) :
    s.Keeps w.settle where
  store hs := by rw [State.settle_cs, hcs]; exact hs
  config hc := State.configLegal_congr (by rw [State.settle_sl]) (by rw [State.settle_sl]) (hconfig hc)
  actions hc ha := settle_actionsLegal (hconfig hc).inForce fun c => by rw [hfi]; exact hactions c _ (ha c)
  flags hf := settle_flagsHold fun f => by rw [State.flag, hfi]; exact hf f
  levels _ hc ha hl :=
    settle_levelsLegal (hconfig hc).inForce (fun c => by rw [hfi]; exact hactions c _ (ha c)) (hblocks hl.blocks)
      (hunder hc hl) (by rw [hgp]; exact hl.lastSent)

theorem State.BlocksInScale.changed {s w : State} (hb : s.BlocksInScale) (hfe : w.fe = s.fe) (hpi : w.pi.slot = s.pi.slot)
    (hlink : w.tk.link = s.tk.link) (htakeover : ∀ c, (w.tk.chan.get c).LevelsInScale)
    (hmaster : ∀ m, InScale (w.sg.master.get m).level) : w.BlocksInScale where
  fade := hfe ▸ hb.fade
  waiting := hfe ▸ hb.waiting
  fader := hpi ▸ hb.fader
  takeover := htakeover
  link := hlink ▸ hb.link
  master := hmaster

theorem keeps_acceptConfig {k : Configuration} (hk : s.ConfigLegal → k.Legal) (ho : lawOrdered k.law = true) :
    s.Keeps (s.acceptConfig k) := by
  refine keeps_settle s rfl rfl rfl (fun hc => ⟨hk hc, ho, by simp⟩) (fun c e h => ?_) (fun hb => ?_) (fun hc hl c => ?_)
  · rw [Table.get_mapAt]; exact lowerToCeiling_legal _ c h
  · refine hb.changed rfl rfl rfl (fun c => ?_) fun m => ?_
    · rw [Table.get_mapAt]
      exact acceptTakeover_levels (u := { s with sl.config := k, sl.assembly := none }) hb.link _ c (hb.takeover c)
    · rw [Table.get_mapAt]; exact acceptMaster_level _ m (hb.master m)
  · rw [Table.get_mapAt]
    exact lowerToCeiling_under (u := { s with sl.config := k, sl.assembly := none }) ((hk hc).inRange c)
      (hl.channel c).toKeptUnder

theorem keeps_closeAssembly : s.Keeps s.closeAssembly := by
  have reject : s.Keeps { s.setFlag .configRejected with sl.assembly := none } :=
    (moves_setFlag s _).keeps.trans (keeps_assembly _ none (by simp))
  unfold State.closeAssembly
  split
  · exact .refl s
  · next a ha =>
    split
    · exact reject
    · next h =>
      simp only [Bool.or_eq_true, Bool.not_eq_true', not_or, Bool.not_eq_false] at h
      exact keeps_acceptConfig s (fun hc => hc.assembly a ha) h.2

/-! ## The gain port (chapter 9) -/

/-- A change of GP that leaves last-sent levels in the scale. -/
theorem keeps_port (gp : GainPort)
    (h : s.ConfigLegal → s.LevelsLegal → ∀ c, ∀ x ∈ (gp.chan.get c).lastSent, InScale x) : s.Keeps { s with gp := gp } where
  store := id
  config := State.configLegal_congr rfl rfl
  actions _ := id
  flags := id
  levels _ hc _ hl := levelsLegal_of hl.blocks hl.channel (h hc hl)

theorem keeps_beginLevel (c : Channel) (rest : List Channel) : s.Keeps (s.beginLevel c rest) :=
  keeps_port s _ fun hc hl d x hx => by
    simp only [State.setLastSent, Table.get_modify] at hx
    split at hx
    · obtain rfl : (s.gc.chan.get c).applied = x := by simpa using hx
      exact (hc.inForce.inRange c).inScale (hl.applied c)
    · exact hl.lastSent d x hx

theorem PortChannel.count_lastSent (p : PortChannel) (isMatch : Bool) (limit : Nat) :
    (p.count isMatch limit).lastSent = p.lastSent := by
  unfold PortChannel.count
  split
  · split <;> rfl
  · rfl

theorem keeps_readReport (gin : BitVec 32) : s.Keeps (s.readReport gin) := by
  unfold State.readReport
  split
  · exact .refl s
  · refine keeps_port s _ fun _ hl d x hx => ?_
    rw [Table.get_modify] at hx
    split at hx
    · rw [PortChannel.count_lastSent] at hx; exact hl.lastSent d x hx
    · exact hl.lastSent d x hx

/-! ## Reception -/

theorem keeps_receive (p : Station) (body : State → State) (hb : ∀ t : State, t.Keeps (body t)) :
    s.Keeps (s.receive p body) := by
  unfold State.receive
  split
  · exact .trans (.ite ((moves_countReceived s).trans (moves_beginClash _)).keeps (moves_countReceived s).keeps)
      (moves_countIgnored _).keeps
  · exact (moves_heard s p).keeps.trans (hb _)

theorem keeps_receiveAddressed (p target : Station) (body : State → State) (hb : ∀ t : State, t.Keeps (body t)) :
    s.Keeps (s.receiveAddressed p target body) :=
  keeps_receive s p _ fun t => .ite (hb t) (.refl t)

theorem keeps_takeConfig (p target : Station) (body : State → State) (hb : ∀ t : State, t.Keeps (body t)) :
    s.Keeps (s.takeConfig p target body) :=
  keeps_receiveAddressed s p target _ fun t => .ite (hb t) (.ite (.refl t) (moves_refuseLoad t _).keeps)

end

/-! ## The work of an event -/

/-- What the work of an event leaves to the end of the event: all that `Keeps` keeps, but that a flag may have been cleared whose
condition is absent, as the answer to a STATUS_REQUEST clears it (R177). -/
structure State.Works (s w : State) : Prop where
  store : s.cs.Legal → w.cs.Legal
  config : s.ConfigLegal → w.ConfigLegal
  actions : s.ConfigLegal → s.ActionsLegal → w.ActionsLegal
  flags : s.FlagsHold → ∀ f : Flag, w.fi.taken.get f.bit = true → w.condition f = true → w.flag f = true
  levels : s.cs.Legal → s.ConfigLegal → s.ActionsLegal → s.LevelsLegal → w.LevelsLegal

theorem State.Keeps.works {s w : State} (h : s.Keeps w) : s.Works w :=
  ⟨h.store, h.config, h.actions, fun hf f ht _ => h.flags hf f ht, h.levels⟩

theorem State.Keeps.trans_works {s t u : State} (h : s.Keeps t) (k : t.Works u) : s.Works u where
  store hs := k.store (h.store hs)
  config hc := k.config (h.config hc)
  actions hc ha := k.actions (h.config hc) (h.actions hc ha)
  flags hf := k.flags (h.flags hf)
  levels hs hc ha hl := k.levels (h.store hs) (h.config hc) (h.actions hc ha) (h.levels hs hc ha hl)

theorem State.Works.ite {s t u : State} {c : Prop} [Decidable c] (ht : s.Works t) (hu : s.Works u) :
    s.Works (if c then t else u) := by
  split
  · exact ht
  · exact hu

theorem clearSpent_flag (w : State) (f : Flag) : w.clearSpent.flag f = (w.flag f && w.condition f) := by
  rw [State.flag, State.clearSpent, Table.get_ofFn, flagAt_bit, State.flag]

theorem clearSpent_condition (w : State) (f : Flag) : w.clearSpent.condition f = w.condition f := by cases f <;> rfl

theorem State.Keeps.works_clearSpent {s w : State} (h : s.Keeps w) : s.Works w.clearSpent where
  store := h.store
  config hc := State.configLegal_congr (s := w) rfl rfl (h.config hc)
  actions := h.actions
  flags hf f ht hcond := by
    rw [clearSpent_condition] at hcond
    rw [clearSpent_flag, h.flags hf f ht, hcond]; rfl
  levels hs hc ha hl :=
    have k := h.levels hs hc ha hl
    levelsLegal_of k.blocks k.channel k.lastSent

/-- The answer to a STATUS_REQUEST, which a silent station does not give (R141, R158). -/
theorem works_answerStatus (s : State) : s.Works (if s.sl.station = 0 then s else s.answerStatus) :=
  .ite (State.Keeps.refl s).works (moves_queueStatus s _).keeps.works_clearSpent

theorem works_receiveAddressed (s : State) (p target : Station) (body : State → State) (hb : ∀ t : State, t.Works (body t)) :
    s.Works (s.receiveAddressed p target body) := by
  unfold State.receiveAddressed State.receive
  split
  · exact (State.Moves.trans (.ite ((moves_countReceived s).trans (moves_beginClash _)) (moves_countReceived s))
      (moves_countIgnored _)).keeps.works
  · exact (moves_heard s p).keeps.trans_works (.ite (hb _) (State.Keeps.refl _).works)

/-- How a command leaves the state `s` that it finds. -/
inductive State.EventEnds (s : State) : State → Prop
  | idle : s.EventEnds s
  | event (w : State) : s.Works w → s.EventEnds (w.commit s)
  | transfer (gin : BitVec 32) (t : Transfer) : s.EventEnds (((s.readReport gin).commit s).endTransfer t)
  | cold (stationStraps : Station) (rateStraps : Fin 4) : s.EventEnds (coldReset stationStraps rateStraps s)
  | warm : s.EventEnds (warmReset s)

section
variable {s t : State} {work : State → State} {enabled : Bool}

theorem ends_take (h : s.take work = .next t) (hw : s.Works (work s)) : s.EventEnds t := by
  obtain rfl : (work s).commit s = t := Host.Outcome.next.inj h
  exact .event _ hw

theorem ends_keeps (h : s.take work = .next t) (hw : s.Keeps (work s)) : s.EventEnds t := ends_take h hw.works

theorem ends_moves (h : s.take work = .next t) (hw : s.Moves True (work s)) : s.EventEnds t := ends_take h hw.keeps.works

theorem ends_keepsWhen (h : s.takeWhen enabled work = .next t) (hw : s.Keeps (work s)) : s.EventEnds t := by
  cases enabled with
  | true => exact ends_keeps h hw
  | false =>
    obtain rfl : s = t := Host.Outcome.next.inj h
    exact .idle

theorem ends_movesWhen (h : s.takeWhen enabled work = .next t) (hw : s.Moves True (work s)) : s.EventEnds t :=
  ends_keepsWhen h hw.keeps

end

end Sys2Proof.Machine

namespace Sys2Proof.Machine

/-- What any command does. -/
theorem exec_eventEnds (i : Instr) (s t : State) (h : exec i s = .next t) : s.EventEnds t := by
  cases i with
  | powerOn a b =>
    change execPowerOn a b s = .next t at h
    cases h; exact .cold a b
  | resetLine a b =>
    change execResetLine a b s = .next t at h
    cases h; exact .cold a b
  | restart p target =>
    change execRestart p target s = .next t at h
    unfold execRestart at h
    split at h
    · cases h; exact .warm
    · exact ends_moves h (moves_receiveAddressed s _ _ _ .refl)
  | go p n cause =>
    change execGo p n cause s = .next t at h
    refine ends_moves h (moves_receive s _ _ fun u => ?_)
    exact .ite (moves_countIgnored u) (.ite (moves_seq u _) (.ite (moves_countIgnored u) (moves_runGo u ..)))
  | goto p n fade reason =>
    change execGoto p n fade reason s = .next t at h
    refine ends_moves h (moves_receive s _ _ fun u => ?_)
    exact .ite (moves_countIgnored u) (.ite (moves_seq u _) (.ite (moves_countIgnored u) (moves_takeGoto u ..)))
  | hold p =>
    change execHold p s = .next t at h
    exact ends_moves h (moves_receive s _ _ fun u => .ite (moves_seq u _) (moves_seq u _))
  | resume p =>
    change execResume p s = .next t at h
    exact ends_moves h (moves_receive s _ _ fun u => .ite (moves_seq u _) (moves_seq u _))
  | linkTouch p l stamp toucher held level =>
    change execLinkTouch p l stamp toucher held level s = .next t at h
    refine ends_moves h (moves_receive s _ _ fun u => .ite (moves_countIgnored u) ?_)
    exact (moves_countForeign u l).trans (.ite (moves_acceptTouch _ _ _ _ _ (messageLevel_inScale level)) (.refl _))
  | linkState p l stamp toucher held level =>
    change execLinkState p l stamp toucher held level s = .next t at h
    refine ends_moves h (moves_receive s _ _ fun u => ?_)
    exact (moves_countForeign u l).trans (.ite (moves_acceptTouch _ _ _ _ _ (messageLevel_inScale level)) (.refl _))
  | linkRelease p l stamp toucher held level =>
    change execLinkRelease p l stamp toucher held level s = .next t at h
    refine ends_moves h (moves_receive s _ _ fun u => .ite (moves_countIgnored u) ?_)
    exact (moves_countForeign u l).trans (.ite (moves_acceptRelease _ _ _ _ (messageLevel_inScale level)) (.refl _))
  | muteGroup p g asserted =>
    change execMuteGroup p g asserted s = .next t at h
    exact ends_moves h (moves_receive s _ _ fun u => .ite (moves_countIgnored u) (moves_setAsserter u ..))
  | groupLevel p m level =>
    change execGroupLevel p m level s = .next t at h
    refine ends_moves h (moves_receive s _ _ fun u => .ite ?_ (moves_countIgnored u))
    exact moves_modifyMaster u _ _ fun _ _ _ => messageLevel_inScale level
  | presence p joining held cue mask summary =>
    change execPresence p joining held cue mask summary s = .next t at h
    exact ends_moves h (moves_receive s _ _ fun u => .ite (moves_countIgnored u) (moves_takePresence u ..))
  | statusRequest p target =>
    change execStatusRequest p target s = .next t at h
    exact ends_take h (works_receiveAddressed s _ _ _ works_answerStatus)
  | statusReply p =>
    change execStatusReply p s = .next t at h
    exact ends_moves h (moves_receive s _ _ .refl)
  | panelLock p target lock =>
    change execPanelLock p target lock s = .next t at h
    refine ends_moves h (moves_receiveAddressed s _ _ _ fun u => ?_)
    have hu : u.Moves True { u with pi.lockTaken := true } := .of_eq rfl rfl id
    exact hu.trans (.ite (moves_lockPanel _) (.ite (moves_unlockPanel _) (.refl _)))
  | configBegin p target =>
    change execConfigBegin p target s = .next t at h
    exact ends_keeps h (keeps_takeConfig s _ _ _ keeps_openAssembly)
  | configItem p target code index value =>
    change execConfigItem p target code index value s = .next t at h
    exact ends_keeps h (keeps_takeConfig s _ _ _ fun u => keeps_takeItem u ..)
  | configEnd p target =>
    change execConfigEnd p target s = .next t at h
    exact ends_keeps h (keeps_takeConfig s _ _ _ fun u => (keeps_closeAssembly u).trans (moves_endJoining _).keeps)
  | stepLoad p target cue channel level fade delay curve mute =>
    change execStepLoad p target cue channel level fade delay curve mute s = .next t at h
    refine ends_keeps h (keeps_receiveAddressed s _ _ _ fun u => keeps_checkKey u _ _ _ fun hc c => ?_)
    exact keeps_loadStep u (loadedStep_legal hc c level fade delay _ _)
  | stepDelete p target cue channel =>
    change execStepDelete p target cue channel s = .next t at h
    refine ends_keeps h (keeps_receiveAddressed s _ _ _ fun u => keeps_checkKey u _ _ _ fun hc c => ?_)
    exact keeps_sublists u (List.filter_sublist ..) (.refl _) _
  | headerLoad p target cue present follow =>
    change execHeaderLoad p target cue present follow s = .next t at h
    refine ends_keeps h (keeps_receiveAddressed s _ _ _ fun u => keeps_checkCue u _ _ fun hc => ?_)
    exact keeps_loadHeader u (loadedHeader_legal hc present follow)
  | headerDelete p target cue =>
    change execHeaderDelete p target cue s = .next t at h
    refine ends_keeps h (keeps_receiveAddressed s _ _ _ fun u => keeps_checkCue u _ _ fun _ => ?_)
    exact keeps_sublists u (.refl _) (List.filter_sublist ..) _
  | bankSet p target bank remoteGo localGo kind =>
    change execBankSet p target bank remoteGo localGo kind s = .next t at h
    refine ends_keeps h (keeps_receiveAddressed s _ _ _ fun u => ?_)
    split
    · exact (moves_refuseLoad u _).keeps
    · exact keeps_sublists u (.refl _) (.refl _) _
  | cueErase p target cue =>
    change execCueErase p target cue s = .next t at h
    refine ends_keeps h (keeps_receiveAddressed s _ _ _ fun u => keeps_checkCue u _ _ fun _ => ?_)
    exact keeps_sublists u (List.filter_sublist ..) (List.filter_sublist ..) _
  | tableClear p target =>
    change execTableClear p target s = .next t at h
    refine ends_keeps h (keeps_receiveAddressed s _ _ _ fun u => ?_)
    exact keeps_sublists u (List.nil_sublist _) (List.nil_sublist _) _
  | ignoredFrame frame =>
    change execIgnoredFrame frame s = .next t at h
    refine ends_moves h ((moves_countReceived s).trans ?_)
    have hclash : ∀ p : Station, (s.countReceived).Moves True
        (if p = s.countReceived.sl.station then s.countReceived.beginClash else s.countReceived).countIgnored := fun p =>
      .trans (.ite (moves_beginClash _) (.refl _)) (moves_countIgnored _)
    cases frame with
    | senderZero => exact hclash 0
    | unknownKind p => exact hclash p
    | tooFewBytes p => exact hclash p
    | extended => exact .refl _
    | remote => exact .refl _
  | receiveError =>
    change execReceiveError s = .next t at h
    exact ends_moves h (.of_eq rfl rfl id)
  | recessiveRun =>
    change execRecessiveRun s = .next t at h
    exact ends_movesWhen h (.ite (moves_endLinkOff s) (.of_eq rfl rfl id))
  | linkOffEnd =>
    change execLinkOffEnd s = .next t at h
    exact ends_movesWhen h (moves_endLinkOff s)
  | frameOffer =>
    change execFrameOffer s = .next t at h
    exact ends_movesWhen h (moves_txQueue s _)
  | lostArbitration =>
    change execLostArbitration s = .next t at h
    exact ends_movesWhen h (moves_txQueue s _)
  | txError kind =>
    change execTxError kind s = .next t at h
    refine ends_movesWhen h ?_
    have hq : s.Moves True (if (s.sl.queue.filterMap TxEntry.fail).length < s.sl.queue.length then
        State.countDrop { s with sl.queue := s.sl.queue.filterMap TxEntry.fail }
        else { s with sl.queue := s.sl.queue.filterMap TxEntry.fail }) :=
      .ite ((moves_txQueue s _).trans (moves_countDrop _)) (moves_txQueue s _)
    exact .ite (hq.trans (moves_raiseTxErrors _)) hq
  | txSuccess =>
    change execTxSuccess s = .next t at h
    exact ends_movesWhen h (.of_eq rfl rfl id)
  | frameCount =>
    change execFrameCount s = .next t at h
    refine ends_moves h ?_
    have hs : ∀ q : Sequencer, s.Moves True { s with seq := q, fe.frameTimer := .running Config.frameMs } := fun q =>
      .of_eq rfl rfl fun hl => ⟨hl.fade, hl.waiting, hl.fader, hl.takeover, hl.link, hl.master⟩
    exact .ite (hs _) ((hs _).trans (moves_runFollow _))
  | followExpiry =>
    change execFollowExpiry s = .next t at h
    exact ends_movesWhen h (moves_runFollow s)
  | advance =>
    change execAdvance s = .next t at h
    exact ends_moves h (.ite (.refl s) (moves_advanceFades s))
  | fadeComplete c =>
    change execFadeComplete c s = .next t at h
    exact ends_movesWhen h (moves_modifyFe s c _ fun _ _ hc => hc.complete)
  | pendingStepStart c =>
    change execPendingStepStart c s = .next t at h
    refine ends_movesWhen h (.assume ((moves_filterWaiting s _).trans (moves_startSteps _ _ fun hH p hp => ?_)))
    exact hH.2.levels.waiting p (List.mem_of_mem_filter hp)
  | glideTimer =>
    change execGlideTimer s = .next t at h
    refine ends_moves h (moves_tk s _ fun _ hs => ⟨fun c => ?_, hs.levels.link⟩)
    rw [Table.get_mapAt]; exact (hs.levels.takeover c).advanceGlide
  | returnGlideEnd c =>
    change execReturnGlideEnd c s = .next t at h
    exact ends_movesWhen h (moves_modifyTk s c _ fun _ _ hc => hc.endGlide)
  | recoveryTimer =>
    change execRecoveryTimer s = .next t at h
    refine ends_keeps h (keeps_mapGc s _ (fun g e hg => hg.advanceGlide) (fun g x hg => hg.advanceGlide) _ _ fun c => .inr ?_)
    rw [Table.get_mapAt]
  | recoveryGlideEnd c =>
    change execRecoveryGlideEnd c s = .next t at h
    refine ends_keepsWhen h (keeps_mapGc s _ (fun g e hg => hg.endGlide) (fun g x hg => hg.endGlide) _ _ fun d => ?_)
    rw [Table.get_modify]
    split
    · next e => subst e; exact .inr rfl
    · exact .inl rfl
  | calibrationReading reading =>
    change execCalibrationReading reading s = .next t at h
    exact ends_movesWhen h ((moves_scanOn s _).trans (moves_readReference ..))
  | faderReading slot reading =>
    change execFaderReading slot reading s = .next t at h
    exact ends_keepsWhen h ((moves_scanOn s _).keeps.trans (keeps_readFader ..))
  | spareSlotReading slot =>
    change execSpareSlotReading slot s = .next t at h
    exact ends_movesWhen h (moves_scanOn s _)
  | touchLineActive c =>
    change execTouchLineActive c s = .next t at h
    exact ends_movesWhen h (.ite ((moves_modifyTouch s ..).trans (moves_beginTouch ..)) (moves_modifyTouch s ..))
  | touchLineInactive c =>
    change execTouchLineInactive c s = .next t at h
    exact ends_movesWhen h (.ite ((moves_modifyTouch s ..).trans (moves_endTouch ..)) (moves_modifyTouch s ..))
  | quietTimerExpiry c =>
    change execQuietTimerExpiry c s = .next t at h
    exact ends_movesWhen h ((moves_modifyTouch s ..).trans (moves_endTouch ..))
  | goKeyPress =>
    change execGoKeyPress s = .next t at h
    exact ends_movesWhen h (moves_pressKey s _ _ moves_goKeyRequest)
  | backKeyPress =>
    change execBackKeyPress s = .next t at h
    exact ends_movesWhen h (moves_pressKey s _ _ moves_backKeyRequest)
  | stopKeyPress =>
    change execStopKeyPress s = .next t at h
    exact ends_movesWhen h (moves_pressKey s _ _ moves_stopKeyRequest)
  | muteKeyPress c =>
    change execMuteKeyPress c s = .next t at h
    exact ends_movesWhen h (moves_pressKey s _ _ fun u => moves_togglePanelMute u c)
  | groupKeyPress k =>
    change execGroupKeyPress k s = .next t at h
    exact ends_movesWhen h (moves_pressKey s _ _ fun u => moves_toggleAssertion u k)
  | keyRelease key =>
    change execKeyRelease key s = .next t at h
    exact ends_moves h (.of_eq rfl rfl id)
  | unlockTimerExpiry =>
    change execUnlockTimerExpiry s = .next t at h
    exact ends_movesWhen h (.of_eq rfl rfl id)
  | staleTimerExpiry m =>
    change execStaleTimerExpiry m s = .next t at h
    exact ends_movesWhen h (moves_modifyMaster s m _ fun _ _ hm => hm)
  | groupRefreshExpiry =>
    change execGroupRefreshExpiry s = .next t at h
    have hs : s.Moves True { s with sg.refreshTimer := .running Config.groupRefreshMs } := .of_eq rfl rfl id
    exact ends_moves h (hs.trans (moves_queueLevels _))
  | gainRefreshExpiry =>
    change execGainRefreshExpiry s = .next t at h
    exact ends_moves h (.of_eq rfl rfl id)
  | presenceTimerExpiry =>
    change execPresenceTimerExpiry s = .next t at h
    have hs : s.Moves True { s with sl.presenceTimer := .running Config.presenceMs } := .of_eq rfl rfl id
    exact ends_moves h (hs.trans (moves_queuePresence _))
  | aloneTimerExpiry =>
    change execAloneTimerExpiry s = .next t at h
    exact ends_movesWhen h (.of_eq rfl rfl id)
  | clashTimerExpiry =>
    change execClashTimerExpiry s = .next t at h
    exact ends_movesWhen h (.of_eq rfl rfl id)
  | silenceTimerExpiry p =>
    change execSilenceTimerExpiry p s = .next t at h
    exact ends_movesWhen h (moves_losePeer s p)
  | windowTimerExpiry =>
    change execWindowTimerExpiry s = .next t at h
    exact ends_movesWhen h (moves_endJoining s)
  | limitTimerExpiry =>
    change execLimitTimerExpiry s = .next t at h
    have hs : s.Keeps { s.setFlag .configRejected with sl.assembly := none } :=
      (moves_setFlag s _).keeps.trans (keeps_assembly _ none (by simp))
    exact ends_keepsWhen h (hs.trans (moves_endJoining _).keeps)
  | indicatorTimerExpiry =>
    change execIndicatorTimerExpiry s = .next t at h
    exact ends_moves h (.of_eq rfl rfl id)
  | burstTimerExpiry =>
    change execBurstTimerExpiry s = .next t at h
    exact ends_movesWhen h (.of_eq rfl rfl id)
  | levelTransfer =>
    change execLevelTransfer s = .next t at h
    unfold execLevelTransfer at h
    split at h
    · exact ends_keeps h (keeps_beginLevel s ..)
    · cases h; exact .idle
  | transferComplete gin =>
    change execTransferComplete gin s = .next t at h
    unfold execTransferComplete at h
    split at h
    · cases h; exact .idle
    · cases h; exact .transfer ..
  | malformedLink p l =>
    change execMalformedLink p l s = .next t at h
    exact ends_moves h (moves_receive s _ _ moves_countIgnored)

end Sys2Proof.Machine

/-! SUPPORT. The invariants of the store and the configuration, of the outputs and of the levels, kept by every step; it settles O53, O55
and O56. -/

namespace Sys2Proof.Machine

/-! ## Traffic: what no invariant here reads -/

/-- The state with other queues, another transfer in flight, and other commands waiting. -/
def State.withTraffic (s : State) (queue : List TxEntry) (marks : List Channel) (inFlight : Option Transfer)
    (previous : Option SentRecord) (seq : BitVec 8) (pending : List Instr) : State :=
  { s with
    sl.queue := queue
    gp.queue := marks
    gp.inFlight := inFlight
    gp.previous := previous
    gp.seq := seq
    pending := pending }

section
variable {s : State} (queue : List TxEntry) (marks : List Channel) (inFlight : Option Transfer) (previous : Option SentRecord)
  (seq : BitVec 8) (pending : List Instr)

theorem withTraffic_pending (s : State) (rest : List Instr) :
    ({ s with pending := rest } : State) =
      s.withTraffic s.sl.queue s.gp.queue s.gp.inFlight s.gp.previous s.gp.seq rest := rfl

theorem State.ConfigLegal.withTraffic (h : s.ConfigLegal) :
    (s.withTraffic queue marks inFlight previous seq pending).ConfigLegal := State.configLegal_congr (s := s) rfl rfl h

theorem withTraffic_cs : (s.withTraffic queue marks inFlight previous seq pending).cs = s.cs := rfl

theorem State.LevelsLegal.withTraffic (h : s.LevelsLegal) :
    (s.withTraffic queue marks inFlight previous seq pending).LevelsLegal := levelsLegal_of h.blocks h.channel h.lastSent

theorem State.ActionsLegal.withTraffic (h : s.ActionsLegal) :
    (s.withTraffic queue marks inFlight previous seq pending).ActionsLegal := h

theorem withTraffic_condition (f : Flag) :
    (s.withTraffic queue marks inFlight previous seq pending).condition f = s.condition f := by cases f <;> rfl

theorem State.FlagsAgree.withTraffic (h : s.FlagsAgree) :
    (s.withTraffic queue marks inFlight previous seq pending).FlagsAgree := fun f hf => by
  rw [withTraffic_condition] at hf; exact h f hf

theorem State.OutputsAgree.withTraffic (h : s.OutputsAgree) :
    (s.withTraffic queue marks inFlight previous seq pending).OutputsAgree where
  composed := h.composed
  appliedNone := h.appliedNone
  appliedHold := h.appliedHold
  appliedDuck := h.appliedDuck
  appliedMute := h.appliedMute
  appliedGlide := h.appliedGlide
  conditions := h.conditions
  effective := h.effective
  taken f := by rw [withTraffic_condition]; exact h.taken f
  faultLine := h.faultLine
  stateLed := h.stateLed
  muteLed := h.muteLed
  goLed := h.goLed
  stationLed := h.stationLed

end

theorem outputsAgree_of_queue {s : State} {marks : List Channel} (h : State.OutputsAgree { s with gp.queue := marks }) :
    s.OutputsAgree := h.withTraffic s.sl.queue s.gp.queue s.gp.inFlight s.gp.previous s.gp.seq s.pending

theorem settle_outputsAgree (w : State) : w.settle.OutputsAgree :=
  outputsAgree_of_queue (State.commit_eq w w ▸ commit_outputsAgree w w)

/-! ## The ends of an event -/

theorem flagsHold_of_agree {s : State} (ho : s.OutputsAgree) (hf : s.FlagsAgree) : s.FlagsHold := fun f h =>
  hf f (ho.taken f ▸ h)

theorem flagsAgree_of_hold {s : State} (ho : s.OutputsAgree) (hf : s.FlagsHold) : s.FlagsAgree := fun f h =>
  hf f ((ho.taken f).trans h)

/-- Every flag whose condition is present is set at the end of an event (R176). -/
theorem commit_flagsAgree {w : State} (s : State)
    (h : ∀ f : Flag, w.fi.taken.get f.bit = true → w.condition f = true → w.flag f = true) : (w.commit s).FlagsAgree :=
  fun f hf => by
    rw [State.commit_condition] at hf
    rw [commit_flag, hf]
    cases ht : w.fi.taken.get f.bit with
    | false => simp
    | true => simp [h f ht hf]

theorem commit_configLegal {w : State} (s : State) (h : w.ConfigLegal) : (w.commit s).ConfigLegal :=
  State.configLegal_congr (by rw [State.commit_sl]) (by rw [State.commit_sl]) h

theorem endTransfer_traffic (s : State) (t : Transfer) :
    ∃ inFlight previous seq, s.endTransfer t = s.withTraffic s.sl.queue s.gp.queue inFlight previous seq s.pending := by
  cases t with
  | poll => exact ⟨_, _, _, rfl⟩
  | level c x n =>
    unfold State.endTransfer
    dsimp only
    split
    · exact ⟨_, _, _, rfl⟩
    · exact ⟨_, _, _, rfl⟩

/-- A message that joins an empty queue off the bus changes the queue alone. -/
theorem enqueue_empty {s : State} (hb : s.busOff = false) (hq : s.sl.queue = []) (m : Msg) :
    ∃ queue, s.enqueue m = s.withTraffic queue s.gp.queue s.gp.inFlight s.gp.previous s.gp.seq s.pending := by
  unfold State.enqueue
  split
  · exact ⟨s.sl.queue, rfl⟩
  · rw [if_neg (by simp [hb]), hq]
    exact ⟨_, rfl⟩

/-! ## Resets -/

/-- The blocks at their reset values, before FI takes the conditions (R160, R180). -/
def resetBlocks (station : Station) (rate : BitRate) (k : Configuration) (store : CueStore) (offset : Int)
    (pending : List Instr) : State :=
  { cs := store, seq := resetSequencer, fe := resetFades, pi := resetPanel k offset, tk := resetTakeoverUnit k
    sg := resetGroups, sl := resetShowLink station rate k, gc := resetComposer, gp := resetGainPort
    fi := resetFaultUnit, pending := pending }

/-- All that the statements on outputs and levels claim of a state. -/
structure State.Formed (s : State) : Prop where
  config : s.ConfigLegal
  actions : s.ActionsLegal
  outputs : s.OutputsAgree
  flags : s.FlagsAgree
  levels : s.LevelsLegal

theorem State.Formed.withTraffic {s : State} (h : s.Formed) (queue : List TxEntry) (marks : List Channel)
    (inFlight : Option Transfer) (previous : Option SentRecord) (seq : BitVec 8) (pending : List Instr) :
    (s.withTraffic queue marks inFlight previous seq pending).Formed where
  config := h.config.withTraffic ..
  actions := h.actions
  outputs := h.outputs.withTraffic ..
  flags := h.flags.withTraffic _ _ _ _ _ _
  levels := h.levels.withTraffic ..

section
variable (station : Station) (rate : BitRate) {k : Configuration} (store : CueStore) (offset : Int) (pending : List Instr)

theorem afterReset_eq :
    afterReset station rate k store offset pending = (resetBlocks station rate k store offset pending).settle.queuePresence := rfl

theorem resetBlocks_actionsLegal : (resetBlocks station rate k store offset pending).ActionsLegal := fun c => by
  simp only [resetBlocks, resetComposer, resetFaultUnit, Table.get_const]
  exact ⟨.inl rfl, by simp, by simp, by simp⟩

theorem resetBlocks_flagsHold : (resetBlocks station rate k store offset pending).FlagsHold := fun f h => by
  simp [resetBlocks, resetFaultUnit] at h

theorem resetBlocks_inScale : (resetBlocks station rate k store offset pending).BlocksInScale where
  fade c := by
    simp only [resetBlocks, resetFades, Table.get_const]
    exact ⟨off_inScale, by simp⟩
  waiting := by simp [resetBlocks, resetFades]
  fader c := by simpa [resetBlocks, resetPanel] using off_inScale
  takeover c := by
    simp only [resetBlocks, resetTakeoverUnit, Table.get_ofFn]
    exact ⟨off_inScale, by simp⟩
  link l := by simpa [resetBlocks, resetTakeoverUnit] using off_inScale
  master m := by
    simp only [resetBlocks, resetGroups, Table.get_const]
    exact ⟨by decide, by decide⟩

theorem resetBlocks_keptUnder (c : Channel) :
    ((resetBlocks station rate k store offset pending).gc.chan.get c).KeptUnder (k.chan.get c).ceiling := by
  simp only [resetBlocks, resetComposer, Table.get_const]
  exact ⟨by simp, by simp⟩

theorem resetBlocks_configLegal (hk : k.Legal) (ho : lawOrdered k.law = true) :
    (resetBlocks station rate k store offset pending).ConfigLegal := ⟨hk, ho, by simp [resetBlocks, resetShowLink]⟩

/-- What `settle` forms from blocks at their reset values. -/
theorem settle_formed {w : State} (hc : w.ConfigLegal) (ha : w.ActionsLegal) (hf : w.FlagsHold) (hl : w.settle.LevelsLegal) :
    w.settle.Formed where
  config := State.configLegal_congr (by rw [State.settle_sl]) (by rw [State.settle_sl]) hc
  actions := settle_actionsLegal hc.inForce ha
  outputs := settle_outputsAgree w
  flags := flagsAgree_of_hold (settle_outputsAgree w) (settle_flagsHold hf)
  levels := hl

theorem afterReset_formed (hk : k.Legal) (ho : lawOrdered k.law = true) :
    (afterReset station rate k store offset pending).Formed := by
  have hactions := resetBlocks_actionsLegal station rate (k := k) store offset pending
  have hlevels := settle_levelsLegal (w := resetBlocks station rate k store offset pending) hk hactions
    (resetBlocks_inScale ..) (fun c => resetBlocks_keptUnder station rate store offset pending c)
    (by simp [resetBlocks, resetGainPort])
  have hsettled := settle_formed (resetBlocks_configLegal station rate store offset pending hk ho) hactions
    (resetBlocks_flagsHold station rate store offset pending) hlevels
  obtain ⟨queue, hq⟩ := enqueue_empty (s := (resetBlocks station rate k store offset pending).settle)
    (by simp [State.busOff, resetBlocks, resetShowLink, Config.busOffAt]) (by simp [resetBlocks, resetShowLink])
    (State.presenceMsg _)
  rw [afterReset_eq, State.queuePresence, hq]
  exact hsettled.withTraffic ..

theorem afterReset_cs : (afterReset station rate k store offset pending).cs = store := by
  rw [afterReset_eq, State.queuePresence, State.enqueue_cs, State.settle_cs]; rfl

end

theorem defaultLaw_inScale (b : Fin 16) : InScale (defaultLaw.get b) := by
  unfold InScale; revert b; decide +kernel

theorem defaultConfiguration_legal : defaultConfiguration.Legal where
  ceiling c := by simp [defaultConfiguration, defaultChannel, Config.levelFloor, Config.levelTop]
  owner m := by simp [defaultConfiguration]
  deadband := by decide
  faultCount := by decide
  quietTime := by decide
  returnTime := by decide
  backTime := by decide
  gotoTime := by decide
  guardWindow := by decide
  readbackWindow := by decide
  readbackLimit := by decide
  duck := by decide
  recoveryTime := by decide
  unlockLength := by decide
  unlockCodes := by decide
  law := defaultLaw_inScale
  scan := by decide

theorem coldReset_formed (stationStraps : Station) (rateStraps : Fin 4) (s : State) :
    (coldReset stationStraps rateStraps s).Formed :=
  afterReset_formed _ _ _ _ _ defaultConfiguration_legal (by decide +kernel)

theorem warmReset_formed {s : State} (hc : s.ConfigLegal) : (warmReset s).Formed :=
  afterReset_formed _ _ _ _ _ hc.inForce hc.order

/-! ## What every command keeps -/

section
variable {s t : State} (h : s.EventEnds t)
include h

theorem eventEnds_store (hs : s.cs.Legal) (hc : s.ConfigLegal) : t.cs.Legal ∧ t.ConfigLegal := by
  cases h with
  | idle => exact ⟨hs, hc⟩
  | event w hw => exact ⟨by rw [State.commit_cs]; exact hw.store hs, commit_configLegal s (hw.config hc)⟩
  | transfer gin u =>
    have hr := keeps_readReport s gin
    obtain ⟨f, p, n, e⟩ := endTransfer_traffic ((s.readReport gin).commit s) u
    rw [e, withTraffic_cs, State.commit_cs]
    exact ⟨hr.store hs, (commit_configLegal s (hr.config hc)).withTraffic ..⟩
  | cold a b =>
    refine ⟨?_, (coldReset_formed a b s).config⟩
    rw [coldReset, afterReset_cs]; exact emptyStore_legal
  | warm =>
    refine ⟨?_, (warmReset_formed hc).config⟩
    rw [warmReset, afterReset_cs]; exact hs

theorem eventEnds_levels (hs : s.cs.Legal) (hc : s.ConfigLegal) (ha : s.ActionsLegal) (hl : s.LevelsLegal) : t.LevelsLegal := by
  have formed : ∀ w : State, s.Works w → (w.commit s).LevelsLegal := fun w hw =>
    have k := hw.levels hs hc ha hl
    commit_levelsLegal (hw.config hc).inForce (hw.actions hc ha) k.blocks (fun c => (k.channel c).toKeptUnder) k.lastSent s
  cases h with
  | idle => exact hl
  | event w hw => exact formed w hw
  | transfer gin u =>
    obtain ⟨f, p, n, e⟩ := endTransfer_traffic ((s.readReport gin).commit s) u
    rw [e]; exact (formed _ (keeps_readReport s gin).works).withTraffic ..
  | cold a b => exact (coldReset_formed a b s).levels
  | warm => exact (warmReset_formed hc).levels

theorem eventEnds_outputs (hc : s.ConfigLegal) (ha : s.ActionsLegal) (ho : s.OutputsAgree) (hf : s.FlagsAgree) :
    t.ActionsLegal ∧ t.OutputsAgree ∧ t.FlagsAgree := by
  have formed : ∀ w : State, s.Works w → (w.commit s).ActionsLegal ∧ (w.commit s).OutputsAgree ∧ (w.commit s).FlagsAgree :=
    fun w hw => ⟨commit_actionsLegal s (hw.config hc).inForce (hw.actions hc ha), commit_outputsAgree w s,
      commit_flagsAgree s (hw.flags (flagsHold_of_agree ho hf))⟩
  cases h with
  | idle => exact ⟨ha, ho, hf⟩
  | event w hw => exact formed w hw
  | transfer gin u =>
    obtain ⟨f, p, n, e⟩ := endTransfer_traffic ((s.readReport gin).commit s) u
    obtain ⟨ka, ko, kf⟩ := formed _ (keeps_readReport s gin).works
    rw [e]; exact ⟨ka.withTraffic _ _ _ _ _ _, ko.withTraffic .., kf.withTraffic _ _ _ _ _ _⟩
  | cold a b =>
    have k := coldReset_formed a b s
    exact ⟨k.actions, k.outputs, k.flags⟩
  | warm =>
    have k := warmReset_formed hc
    exact ⟨k.actions, k.outputs, k.flags⟩

end

/-- A step runs a command on the state with the queue's rest, or idles; either way it leaves the state as the end of an event does. -/
theorem step_eventEnds {s t : State} (h : step s = .next t) :
    ∃ rest, (s.withTraffic s.sl.queue s.gp.queue s.gp.inFlight s.gp.previous s.gp.seq rest).EventEnds t := by
  unfold step at h
  split at h
  · obtain rfl : s = t := Host.Outcome.next.inj h
    exact ⟨s.pending, .idle⟩
  · next i rest _ => exact ⟨rest, exec_eventEnds i _ t h⟩

/-- Settles O53: the front command keeps the store and the configuration, whatever waits behind it. -/
theorem storeAndConfigurationKept : Obligations.StoreAndConfigurationKept := by
  intro s t hs hc h
  obtain ⟨rest, h⟩ := step_eventEnds h
  obtain ⟨hstore, hconfig⟩ := eventEnds_store h hs (hc.withTraffic ..)
  exact ⟨hstore, hconfig, hstore.steps_ascend.imp fun {a b} => CueStep.key_lt.mp, hstore.headerOrder⟩

/-- Settles O55. -/
theorem outputsKept : Obligations.OutputsKept := by
  intro s t hc ha ho hf h
  obtain ⟨rest, h⟩ := step_eventEnds h
  exact eventEnds_outputs h (hc.withTraffic ..) ha (ho.withTraffic ..) (hf.withTraffic _ _ _ _ _ _)

/-- Settles O56; that the fades are short of their durations is not needed. -/
theorem levelsKept : Obligations.LevelsKept := by
  intro s t hs hc _ ha hl h
  obtain ⟨rest, h⟩ := step_eventEnds h
  exact eventEnds_levels h hs (hc.withTraffic ..) ha (hl.withTraffic ..)

end Sys2Proof.Machine

/-! SUPPORT. Messages of other stations: GROUP_LEVEL and MUTE_GROUP (R127, R133), and an accepted LINK TOUCH or STATE (R116, R118,
R119); it settles O38 and O30. -/

namespace Sys2Proof.Machine

/-! ## Groups (R127, R128, R133) -/

theorem messageLevel_eq (v : BitVec 11) : messageLevel v = max (-900) (min v.toInt 100) := rfl

theorem modifyMaster_eq (s : State) (m : MasterNo) (f : MasterRecord → MasterRecord) :
    s.modifyMaster m f = { s with sg.master := s.sg.master.modify m f } := rfl

/-- A GROUP_LEVEL of the master's owner, another station, is taken (R127). -/
theorem execGroupLevel_owner {s : State} {p : Station} {m : MasterNo} (hp : p ≠ 0) (hs : p ≠ s.sl.station)
    (ho : (s.config.master.get m).owner = some p) (level : BitVec 11) :
    execGroupLevel p m level s =
      .next ({ s.heard p with
        sg.master := s.sg.master.modify m fun _ => ⟨messageLevel level, true, .running 1500⟩ }.commit s) := by
  rw [execGroupLevel, State.take_eq, State.receive_from hp, State.heard_sl_station, State.heard_config, if_pos ⟨hs, ho⟩,
    modifyMaster_eq]
  simp only [State.heard_sg, Config.staleMs]

theorem execGroupLevel_other {s : State} {p : Station} {m : MasterNo} (hp : p ≠ 0)
    (ho : (s.config.master.get m).owner ≠ some p) (level : BitVec 11) :
    execGroupLevel p m level s = .next ((s.heard p).countIgnored.commit s) := by
  rw [execGroupLevel, State.take_eq, State.receive_from hp, State.heard_config, if_neg fun h => ho h.2]

theorem execStaleTimerExpiry_running {s : State} {m : MasterNo} (h : (s.sg.master.get m).stale ≠ .stopped) :
    execStaleTimerExpiry m s =
      .next ({ s with sg.master := s.sg.master.modify m fun r => { r with fresh := false, stale := .stopped } }.commit s) := by
  rw [execStaleTimerExpiry, State.takeWhen_enabled (by simpa using h), modifyMaster_eq]

theorem execStaleTimerExpiry_stopped {s : State} {m : MasterNo} (h : (s.sg.master.get m).stale = .stopped) :
    execStaleTimerExpiry m s = .next s := State.takeWhen_idle (by simp [h]) _

theorem execMuteGroup_peer {s : State} {p : Station} (hp : p ≠ 0) (hs : p ≠ s.sl.station) (g : GroupNo) (b : Bool) :
    execMuteGroup p g b s =
      .next ({ s.heard p with sg.asserters := s.sg.asserters.modify g fun t => t.set p b }.commit s) := by
  rw [execMuteGroup, State.take_eq, State.receive_from hp, State.heard_sl_station, if_neg hs, State.setAsserter]
  simp only [State.heard_sg]

/-- Settles O38, from the next state of each of the three commands, read at one master or one asserter set. -/
theorem groupMessages : Obligations.GroupMessages := by
  refine ⟨fun m s => ⟨fun p level hp hs => ⟨fun ho => ⟨_, execGroupLevel_owner hp hs ho level, fun k => ?_⟩,
    fun ho => execGroupLevel_other hp ho level⟩, fun h => ⟨_, execStaleTimerExpiry_running h, fun k => ?_⟩,
    execStaleTimerExpiry_stopped⟩, fun p g b s hp hs => ⟨_, execMuteGroup_peer hp hs g b, fun k q => ?_⟩⟩
  · rw [Table.get_modify, messageLevel_eq]; simp only [eq_comm (a := m)]
  · rw [Table.get_modify]
    by_cases h : k = m
    · rw [if_pos h.symm, if_pos h, h]
    · rw [if_neg (Ne.symm h), if_neg h]
  · rw [Table.get_modify]
    by_cases hk : k = g
    · subst hk
      rw [if_pos rfl, Table.get_set]
      simp [eq_comm (a := p)]
    · rw [if_neg (Ne.symm hk), if_neg fun h => hk h.1]

/-! ## The members of a link (R118) -/

section
variable (s : State) (l : LinkNo) (c : Channel)

theorem holdBegin_channel :
    (s.holdBegin l).tk.chan.get c =
      if s.follows l c then (s.tk.chan.get c).hold (s.tk.link.get l).level else s.tk.chan.get c := by
  simp only [State.holdBegin, Table.get_mapAt]

theorem levelChange_channel :
    (s.levelChange l).tk.chan.get c =
      if s.follows l c && (s.tk.chan.get c).state == .touched then
        { s.tk.chan.get c with manual := (s.tk.link.get l).level }
      else s.tk.chan.get c := by
  simp only [State.levelChange, Table.get_mapAt]

theorem membersRelease_channel :
    (s.membersRelease l).tk.chan.get c =
      if s.follows l c && (s.tk.chan.get c).state == .touched then
        (s.tk.chan.get c).releaseAt (s.tk.link.get l).level (s.mode c) s.config.returnTime
      else s.tk.chan.get c := by
  simp only [State.membersRelease, Table.get_mapAt]

theorem holdBegin_link : (s.holdBegin l).tk.link = s.tk.link := by simp only [State.holdBegin]

theorem levelChange_link : (s.levelChange l).tk.link = s.tk.link := by simp only [State.levelChange]

theorem membersRelease_link : (s.membersRelease l).tk.link = s.tk.link := by simp only [State.membersRelease]

/-! ## Losing the hold (R119) -/

/-- A channel's record after the hold of link `l` is lost, if it is held here: marked where it was on the touching list. -/
def State.lostMark (s : State) (l : LinkNo) (c : Channel) : TakeoverChannel :=
  { s.tk.chan.get c with
    mark := (s.tk.chan.get c).mark || (s.holdsLink l && decide (c ∈ (s.tk.link.get l).touching)) }

theorem loseHold_channel : (s.loseHold l).tk.chan.get c = s.lostMark l c := by
  unfold State.loseHold State.lostMark
  split
  · next h =>
    simp only [Table.get_mapAt, h, Bool.true_and]
    by_cases hc : c ∈ (s.tk.link.get l).touching <;> simp [hc]
  · next h => simp [h]

theorem loseHold_link (k : LinkNo) :
    (s.loseHold l).tk.link.get k =
      if l = k ∧ s.holdsLink l = true then { s.tk.link.get k with touching := [] } else s.tk.link.get k := by
  unfold State.loseHold
  split
  · next h => simp only [State.modifyLink, Table.get_modify, h, and_true]
  · next h => rw [if_neg fun k => h k.2]

theorem loseHold_only_tk : s.loseHold l = { s with tk := (s.loseHold l).tk } := by
  unfold State.loseHold
  split <;> rfl

end

/-! ## An accepted TOUCH or STATE (R116, R118) -/

section
variable (s : State) (l : LinkNo) (stamp : Nat) (p : Option Station) (held : Bool) (x : Level)

/-- The link record after an accepted TOUCH or STATE (R116, R119). -/
def State.touchedRecord (s : State) (l : LinkNo) (stamp : Nat) (p : Option Station) (held : Bool) (x : Level) : LinkRecord :=
  let r := s.tk.link.get l
  let holder := s.namedHolder p held
  ⟨stamp, holder, x, holder.isSome, p, if s.holdsLink l then [] else r.touching⟩

/-- Whether an accepted message that names a holder is a hold begin to the members, no level change (R118). -/
def State.holdBegins (s : State) (l : LinkNo) (stamp : Nat) (p : Option Station) : Bool :=
  let r := s.tk.link.get l
  !r.held || r.stamp != stamp || r.lastToucher != p || s.holdsLink l

/-- The state once the record has taken an accepted TOUCH or STATE, before the members follow. -/
def State.withTouchedRecord (s : State) (l : LinkNo) (stamp : Nat) (p : Option Station) (held : Bool) (x : Level) : State :=
  (s.loseHold l).modifyLink l fun r =>
    { r with
      stamp := stamp, lastToucher := p, level := x, holder := s.namedHolder p held
      held := (s.namedHolder p held).isSome }

theorem acceptTouch_eq :
    s.acceptTouch l stamp p held x =
      if (s.namedHolder p held).isSome then
        if s.holdBegins l stamp p then (s.withTouchedRecord l stamp p held x).holdBegin l
        else (s.withTouchedRecord l stamp p held x).levelChange l
      else if (s.tk.link.get l).held then (s.withTouchedRecord l stamp p held x).membersRelease l
      else s.withTouchedRecord l stamp p held x := rfl

theorem withTouchedRecord_link (k : LinkNo) :
    (s.withTouchedRecord l stamp p held x).tk.link.get k =
      if l = k then s.touchedRecord l stamp p held x else s.tk.link.get k := by
  simp only [State.withTouchedRecord, State.modifyLink, Table.get_modify, loseHold_link]
  by_cases hk : l = k
  · subst hk
    by_cases hh : s.holdsLink l = true <;> simp [State.touchedRecord, hh]
  · simp [hk]

theorem withTouchedRecord_channel (c : Channel) :
    (s.withTouchedRecord l stamp p held x).tk.chan.get c = s.lostMark l c := loseHold_channel s l c

theorem withTouchedRecord_only_tk :
    s.withTouchedRecord l stamp p held x = { s with tk := (s.withTouchedRecord l stamp p held x).tk } := by
  rw [State.withTouchedRecord, loseHold_only_tk]; rfl

theorem acceptTouch_only_tk : s.acceptTouch l stamp p held x = { s with tk := (s.acceptTouch l stamp p held x).tk } := by
  have h := withTouchedRecord_only_tk s l stamp p held x
  rw [acceptTouch_eq]
  generalize s.withTouchedRecord l stamp p held x = u at h
  split
  · split
    · rw [State.holdBegin, h]
    · rw [State.levelChange, h]
  · split
    · rw [State.membersRelease, h]
    · exact h

theorem acceptTouch_link (k : LinkNo) :
    (s.acceptTouch l stamp p held x).tk.link.get k =
      if l = k then s.touchedRecord l stamp p held x else s.tk.link.get k := by
  rw [← withTouchedRecord_link, acceptTouch_eq]
  split
  · split
    · rw [holdBegin_link]
    · rw [levelChange_link]
  · split
    · rw [membersRelease_link]
    · rfl

/-- A channel's record after an accepted TOUCH or STATE: a member that follows begins a hold, takes the level or is released
(R118). -/
theorem acceptTouch_channel (c : Channel) :
    (s.acceptTouch l stamp p held x).tk.chan.get c =
      if (s.namedHolder p held).isSome then
        if s.holdBegins l stamp p then if s.follows l c then (s.lostMark l c).hold x else s.lostMark l c
        else if s.follows l c && (s.tk.chan.get c).state == .touched then { s.lostMark l c with manual := x }
        else s.lostMark l c
      else if (s.tk.link.get l).held then
        if s.follows l c && (s.tk.chan.get c).state == .touched then
          (s.lostMark l c).releaseAt x (s.mode c) s.config.returnTime
        else s.lostMark l c
      else s.lostMark l c := by
  have hlevel : ((s.withTouchedRecord l stamp p held x).tk.link.get l).level = x := by
    rw [withTouchedRecord_link, if_pos rfl]; rfl
  have hchan := withTouchedRecord_channel s l stamp p held x c
  have hconfig : (s.withTouchedRecord l stamp p held x).config = s.config := by
    rw [withTouchedRecord_only_tk]; rfl
  have hstate : (s.lostMark l c).state = (s.tk.chan.get c).state := rfl
  rw [acceptTouch_eq]
  generalize s.withTouchedRecord l stamp p held x = u at hlevel hchan hconfig
  have hfollows : u.follows l c = s.follows l c := by simp only [State.follows, State.linkOf, State.mode, hconfig]
  have hmode : u.mode c = s.mode c := by simp only [State.mode, hconfig]
  split
  · split
    · rw [holdBegin_channel, hfollows, hchan, hlevel]
    · rw [levelChange_channel, hfollows, hchan, hlevel, hstate]
  · split
    · rw [membersRelease_channel, hfollows, hchan, hlevel, hstate, hmode, hconfig]
    · exact hchan

end

/-! What the cases of R118 are, one by one. -/

section
variable {s : State} {l : LinkNo} {stamp : Nat} {p : Option Station} {held : Bool} {x : Level} {c : Channel}

theorem releaseAt_mark (ch : TakeoverChannel) (x : Level) (mode : Mode) (returnTime : Nat) :
    (ch.releaseAt x mode returnTime).mark = ch.mark := by
  cases mode with
  | auto => unfold TakeoverChannel.releaseAt TakeoverChannel.release; dsimp only; split <;> rfl
  | _ => rfl

/-- The release of a member from level `x` (R106, R118): LATCH latches it, AUTO glides back or is in CUE at once. -/
theorem releaseAt_cases (ch : TakeoverChannel) (x : Level) (mode : Mode) (returnTime : Nat) :
    (ch.releaseAt x mode returnTime).manual = x ∧
      (mode = .latch → (ch.releaseAt x mode returnTime).state = .latched ∧ (ch.releaseAt x mode returnTime).glide = none) ∧
      (mode = .auto →
        if returnTime = 0 then
          (ch.releaseAt x mode returnTime).state = .cue ∧ (ch.releaseAt x mode returnTime).glide = none
        else
          (ch.releaseAt x mode returnTime).state = .returning ∧
            (ch.releaseAt x mode returnTime).glide = some ⟨x, 0, returnTime⟩) := by
  unfold TakeoverChannel.releaseAt TakeoverChannel.release
  cases mode with
  | auto => by_cases h : returnTime = 0 <;> simp [h]
  | latch => simp
  | safe => simp

theorem acceptTouch_mark : ((s.acceptTouch l stamp p held x).tk.chan.get c).mark = (s.lostMark l c).mark := by
  rw [acceptTouch_channel]
  split_ifs <;> simp only [releaseAt_mark, TakeoverChannel.hold]

theorem acceptTouch_bystander (hf : s.follows l c = false) :
    (s.acceptTouch l stamp p held x).tk.chan.get c = s.lostMark l c := by
  simp [acceptTouch_channel, hf]

theorem acceptTouch_begins (hf : s.follows l c = true) (hn : (s.namedHolder p held).isSome = true)
    (hb : s.holdBegins l stamp p = true) :
    (s.acceptTouch l stamp p held x).tk.chan.get c = (s.lostMark l c).hold x := by
  simp [acceptTouch_channel, hf, hn, hb]

theorem acceptTouch_moves (hf : s.follows l c = true) (hn : (s.namedHolder p held).isSome = true)
    (hb : s.holdBegins l stamp p = false) :
    (s.acceptTouch l stamp p held x).tk.chan.get c =
      if (s.tk.chan.get c).state = .touched then { s.lostMark l c with manual := x } else s.lostMark l c := by
  simp [acceptTouch_channel, hf, hn, hb]

theorem acceptTouch_releases (hf : s.follows l c = true) (hn : (s.namedHolder p held).isSome = false)
    (hh : (s.tk.link.get l).held = true) (ht : (s.tk.chan.get c).state = .touched) :
    (s.acceptTouch l stamp p held x).tk.chan.get c = (s.lostMark l c).releaseAt x (s.mode c) s.config.returnTime := by
  simp [acceptTouch_channel, hf, hn, hh, ht]

theorem acceptTouch_rests (hn : (s.namedHolder p held).isSome = false)
    (h : (s.tk.link.get l).held = false ∨ (s.tk.chan.get c).state ≠ .touched) :
    (s.acceptTouch l stamp p held x).tk.chan.get c = s.lostMark l c := by
  rcases h with h | h <;> simp [acceptTouch_channel, hn, h]

end

/-- A TOUCH or STATE is accepted on a greater stamp, or on an equal one by a toucher no higher than the last (R116). -/
theorem acceptsTouch_of {r : LinkRecord} {stamp : Nat} {toucher : Station}
    (h : r.stamp < stamp ∨ stamp = r.stamp ∧ toucher ≠ 0 ∧ ∃ q, r.lastToucher = some q ∧ toucher.val ≤ q.val) :
    r.acceptsTouch stamp (toucherOf toucher) = true := by
  rcases h with h | ⟨rfl, hz, q, hq, hle⟩
  · simp [LinkRecord.acceptsTouch, h]
  · simp [LinkRecord.acceptsTouch, toucherOf, hz, hq, hle]

/-- The holder that a message names: its toucher, where that is a PRESENT peer and the message says that the link is held. -/
theorem namedHolder_toucher (s : State) (toucher : Station) (held : Bool) :
    s.namedHolder (toucherOf toucher) held =
      if held = true ∧ toucher ≠ 0 ∧ toucher ≠ s.sl.station ∧ (s.sl.peer.get toucher).state = .present then some toucher
      else none := by
  by_cases hz : toucher = 0
  · simp [toucherOf, State.namedHolder, hz]
  · simp [toucherOf, State.namedHolder, State.present, hz]

theorem hasMember_iff (s : State) (l : LinkNo) : s.hasMember l = true ↔ ∃ c, s.linkOf c = some l := by
  simp [State.hasMember, anyIndex_iff]

/-- A LINK that is not malformed is counted where the link has no member here (R116). -/
theorem countForeign_remoteIgnored (s : State) (l : LinkNo) :
    (s.countForeign l).fi.counters.remoteIgnored =
      if (∃ c, s.linkOf c = some l) ∨ 63 ≤ s.fi.counters.remoteIgnored then s.fi.counters.remoteIgnored
      else s.fi.counters.remoteIgnored + 1 := by
  unfold State.countForeign
  by_cases hm : s.hasMember l = true
  · rw [if_pos hm, if_pos (.inl ((hasMember_iff s l).mp hm))]
  · rw [if_neg hm]
    show bump s.fi.counters.remoteIgnored = _
    rw [hasMember_iff] at hm
    unfold bump Config.counterTop
    by_cases h63 : s.fi.counters.remoteIgnored < 63
    · rw [if_pos h63, if_neg (by rintro (h | h) <;> [exact hm h; omega])]
    · rw [if_neg h63, if_pos (.inr (by omega))]

theorem countForeign_counters_only (s : State) (l : LinkNo) :
    s.countForeign l = { s with fi.counters := (s.countForeign l).fi.counters } := by
  unfold State.countForeign
  split <;> rfl

/-- The state in which an accepted LINK from `p` finds the record: the frame heard and counted. -/
def State.linkHeard (s : State) (p : Station) (l : LinkNo) : State := (s.heard p).countForeign l

/-- A TOUCH or STATE that is accepted (R116). -/
theorem exec_linkAccepted {p : Station} {l : LinkNo} {stamp : Fin 16777216} {toucher : Station} {held : Bool}
    {level : BitVec 11} {s : State} {i : Instr} (hp : p ≠ 0)
    (hi : (i = .linkTouch p l stamp toucher held level ∧ toucher = p) ∨ i = .linkState p l stamp toucher held level)
    (ha : (s.tk.link.get l).acceptsTouch stamp.val (toucherOf toucher) = true) :
    ∃ saysHeld : Bool, (saysHeld = true ↔ held = true ∨ i = .linkTouch p l stamp toucher held level) ∧
      exec i s =
        .next (((s.linkHeard p l).acceptTouch l stamp.val (toucherOf toucher) saysHeld (messageLevel level)).commit s) := by
  have hrecord : ((s.heard p).countForeign l).tk.link.get l = s.tk.link.get l := by
    rw [countForeign_counters_only]; simp only [State.heard_tk]
  rcases hi with ⟨rfl, rfl⟩ | rfl
  · refine ⟨true, by simp, ?_⟩
    show execLinkTouch toucher l stamp toucher held level s = _
    rw [execLinkTouch, State.take_eq, State.receive_from hp, if_neg (by simp)]
    dsimp only
    rw [hrecord, if_pos ha, State.linkHeard]
  · refine ⟨held, by simp, ?_⟩
    show execLinkState p l stamp toucher held level s = _
    rw [execLinkState, State.take_eq, State.receive_from hp]
    dsimp only
    rw [hrecord, if_pos ha, State.linkHeard]

/-! ## The state in which an accepted LINK finds the record -/

section
variable (s : State) (p : Station) (l : LinkNo)

theorem linkHeard_counters_only : s.linkHeard p l = { s.heard p with fi.counters := (s.linkHeard p l).fi.counters } :=
  countForeign_counters_only _ l

theorem linkHeard_tk : (s.linkHeard p l).tk = s.tk := by rw [linkHeard_counters_only]; exact State.heard_tk ..

theorem linkHeard_config : (s.linkHeard p l).config = s.config := by
  rw [linkHeard_counters_only]; exact State.heard_config ..

theorem linkHeard_sl : (s.linkHeard p l).sl = (s.heard p).sl := by rw [linkHeard_counters_only]

theorem linkHeard_follows (c : Channel) : (s.linkHeard p l).follows l c = true ↔ s.linkOf c = some l ∧ s.mode c ≠ .safe := by
  rw [State.follows_iff]; simp only [State.linkOf, State.mode, linkHeard_config]

theorem linkHeard_remoteIgnored :
    (s.linkHeard p l).fi.counters.remoteIgnored =
      if (∃ c, s.linkOf c = some l) ∨ 63 ≤ s.fi.counters.remoteIgnored then s.fi.counters.remoteIgnored
      else s.fi.counters.remoteIgnored + 1 := by
  rw [State.linkHeard, countForeign_remoteIgnored]
  simp only [State.linkOf, State.heard_config, State.heard_fi_counters] <;> rfl

theorem linkHeard_holdsLink : (s.linkHeard p l).holdsLink l = true ↔ (s.tk.link.get l).holder = some s.sl.station := by
  simp [State.holdsLink, linkHeard_tk, linkHeard_sl]

theorem linkHeard_lostMark (c : Channel) :
    (s.linkHeard p l).lostMark l c =
      { s.tk.chan.get c with
        mark := (s.tk.chan.get c).mark ||
          (decide ((s.tk.link.get l).holder = some s.sl.station) && decide (c ∈ (s.tk.link.get l).touching)) } := by
  have h : (s.linkHeard p l).holdsLink l = decide ((s.tk.link.get l).holder = some s.sl.station) := by
    rw [Bool.eq_iff_iff, linkHeard_holdsLink, decide_eq_true_eq]
  rw [State.lostMark, h, linkHeard_tk]

theorem linkHeard_holdBegins (stamp : Nat) (last : Option Station) :
    (s.linkHeard p l).holdBegins l stamp last = true ↔
      (s.tk.link.get l).held = false ∨ (s.tk.link.get l).stamp ≠ stamp ∨ (s.tk.link.get l).lastToucher ≠ last ∨
        (s.tk.link.get l).holder = some s.sl.station := by
  simp [State.holdBegins, linkHeard_tk, State.holdsLink, linkHeard_sl, or_assoc]

theorem linkHeard_touchedRecord (stamp : Nat) (last : Option Station) (held : Bool) (x : Level) {holder : Option Station}
    (h : (s.linkHeard p l).namedHolder last held = holder) :
    (s.linkHeard p l).touchedRecord l stamp last held x =
      ⟨stamp, holder, x, holder.isSome, last,
        if (s.tk.link.get l).holder = some s.sl.station then [] else (s.tk.link.get l).touching⟩ := by
  subst h
  simp only [State.touchedRecord, linkHeard_holdsLink, linkHeard_tk]

end

/-- Settles O30, by the state in which the message finds the record, then the record, and the cases of R118 at each channel. -/
theorem linkTouchOrStateAccepted : Obligations.LinkTouchOrStateAccepted := by
  intro p l stamp toucher held level s i hp hi r last x haccept names lost
  obtain ⟨saysHeld, hsays, hexec⟩ := exec_linkAccepted hp hi (acceptsTouch_of haccept)
  have hx : messageLevel level = x := rfl
  have hlast : toucherOf toucher = last := rfl
  rw [hx, hlast] at hexec
  have hholder : (s.linkHeard p l).namedHolder last saysHeld = if names then some toucher else none := by
    rw [← hlast, namedHolder_toucher, linkHeard_sl, State.heard_sl_station]
    exact if_congr (and_congr_left' hsays) rfl rfl
  have honly := acceptTouch_only_tk (s.linkHeard p l) l stamp.val last saysHeld x
  refine ⟨_, hexec, ?_, ?_, ?_, ?_, ?_, ?_, ?_, fun k hk => ?_, fun hn => ?_, fun hn => ?_, fun c => ?_⟩
  · rw [State.commit_cs, honly, linkHeard_counters_only]; exact State.heard_cs ..
  · rw [State.commit_seq, honly, linkHeard_counters_only]; exact State.heard_seq ..
  · rw [State.commit_fe, honly, linkHeard_counters_only]; exact State.heard_fe ..
  · rw [State.commit_pi, honly, linkHeard_counters_only]; exact State.heard_pi ..
  · rw [State.commit_sg, honly, linkHeard_counters_only]; exact State.heard_sg ..
  · rw [State.commit_sl, honly, linkHeard_counters_only]
  · rw [State.commit_fi_counters, honly]; exact linkHeard_remoteIgnored s p l
  · rw [State.commit_tk, acceptTouch_link, if_neg (Ne.symm hk), linkHeard_tk]
  · rw [State.commit_tk, acceptTouch_link, if_pos rfl,
      linkHeard_touchedRecord s p l stamp.val last saysHeld x (hholder.trans (if_pos hn))]; rfl
  · rw [State.commit_tk, acceptTouch_link, if_pos rfl,
      linkHeard_touchedRecord s p l stamp.val last saysHeld x (hholder.trans (if_neg hn))]; rfl
  · intro tk u follows begins
    have hu : u = ((s.linkHeard p l).acceptTouch l stamp.val last saysHeld x).tk.chan.get c := by
      show ((State.commit _ s).tk.chan.get c) = _
      rw [State.commit_tk]
    have hmark := linkHeard_lostMark s p l c
    have hfollows : (s.linkHeard p l).follows l c = true ↔ follows := linkHeard_follows s p l c
    have hbegins : (s.linkHeard p l).holdBegins l stamp.val last = true ↔ begins := linkHeard_holdBegins s p l stamp.val last
    have hnamed : ((s.linkHeard p l).namedHolder last saysHeld).isSome = true ↔ names := by
      rw [hholder]; by_cases h : names <;> simp [h]
    have hstate : ((s.linkHeard p l).tk.chan.get c).state = tk.state := by rw [linkHeard_tk]
    have hheld : ((s.linkHeard p l).tk.link.get l).held = r.held := by rw [linkHeard_tk]
    rw [hu]
    refine ⟨?_, fun hf => ?_, fun hf hn hb => ?_, fun hf hn hb => ?_, fun hf hn hr ht => ?_, fun hf hn hr => ?_⟩
    · rw [acceptTouch_mark, hmark]
    · rw [acceptTouch_bystander (Bool.eq_false_iff.mpr (hfollows.not.mpr hf)), hmark]
      exact ⟨rfl, rfl, rfl⟩
    · rw [acceptTouch_begins (hfollows.mpr hf) (hnamed.mpr hn) (hbegins.mpr hb)]
      exact ⟨rfl, rfl, rfl⟩
    · rw [acceptTouch_moves (hfollows.mpr hf) (hnamed.mpr hn) (Bool.eq_false_iff.mpr (hbegins.not.mpr hb)), hmark, hstate]
      by_cases ht : tk.state = .touched
      · rw [if_pos ht, if_pos ht]; exact ⟨rfl, rfl, rfl⟩
      · rw [if_neg ht, if_neg ht]; exact ⟨rfl, rfl, rfl⟩
    · rw [acceptTouch_releases (hfollows.mpr hf) (Bool.eq_false_iff.mpr (hnamed.not.mpr hn)) (hheld.trans hr) (hstate.trans ht),
        hmark, linkHeard_config, show (s.linkHeard p l).mode c = s.mode c by simp only [State.mode, linkHeard_config]]
      exact releaseAt_cases _ x _ _
    · rw [acceptTouch_rests (Bool.eq_false_iff.mpr (hnamed.not.mpr hn)) (by rw [hheld, hstate]; exact hr), hmark]
      exact ⟨rfl, rfl, rfl⟩

end Sys2Proof.Machine

/-! SUPPORT. The Cue Store: what each lookup finds (R34 to R36), the edits that are taken (R26 to R31) and the refusals (R23 to R30);
it settles O13, O15 and O16. -/

namespace Sys2Proof.Machine

/-! ## Next and previous cue (R34) -/

theorem lowerCue_some (b n : Cue) : lowerCue (some b) n = some (min b n) := by
  rcases lt_or_ge n b with h | h
  · rw [min_eq_right h.le]; exact if_pos h
  · rw [min_eq_left h]; exact if_neg (not_lt.mpr h)

theorem higherCue_some (b n : Cue) : higherCue (some b) n = some (max b n) := by
  rcases lt_or_ge b n with h | h
  · rw [max_eq_right h.le]; exact if_pos h
  · rw [max_eq_left h]; exact if_neg (not_lt.mpr h)

theorem foldl_lowerCue (l : List Cue) : l.foldl lowerCue none = l.min? := by
  have from_some : ∀ (l : List Cue) (b : Cue), l.foldl lowerCue (some b) = some (l.foldl min b) := by
    intro l
    induction l with
    | nil => exact fun _ => rfl
    | cons n l ih => intro b; rw [List.foldl_cons, lowerCue_some, ih, List.foldl_cons]
  cases l with
  | nil => rfl
  | cons n l => exact from_some l n

theorem foldl_higherCue (l : List Cue) : l.foldl higherCue none = l.max? := by
  have from_some : ∀ (l : List Cue) (b : Cue), l.foldl higherCue (some b) = some (l.foldl max b) := by
    intro l
    induction l with
    | nil => exact fun _ => rfl
    | cons n l ih => intro b; rw [List.foldl_cons, higherCue_some, ih, List.foldl_cons]
  cases l with
  | nil => rfl
  | cons n l => exact from_some l n

/-- The listed cues that satisfy `p`, among which a lookup takes the least or the greatest. -/
theorem mem_listedCues {cs : CueStore} {p : Cue → Bool} {n : Cue} :
    n ∈ (cs.headers.map Header.cue).filter p ↔ (∃ h ∈ cs.headers, h.cue = n) ∧ p n = true := by
  rw [List.mem_filter, List.mem_map]

theorem CueStore.next_eq_some {cs : CueStore} {c n : Cue} :
    cs.next c = some n ↔
      (∃ h ∈ cs.headers, h.cue = n) ∧ c.val < n.val ∧ ∀ h ∈ cs.headers, c.val < h.cue.val → n.val ≤ h.cue.val := by
  rw [CueStore.next, foldl_lowerCue, List.min?_eq_some_iff]
  simp only [mem_listedCues, decide_eq_true_eq, and_assoc, Fin.le_def]
  exact and_congr_right fun _ => and_congr_right fun _ =>
    ⟨fun k h hh hc => k h.cue ⟨⟨h, hh, rfl⟩, hc⟩, by rintro k _ ⟨⟨h, hh, rfl⟩, hc⟩; exact k h hh hc⟩

theorem CueStore.next_eq_none {cs : CueStore} {c : Cue} : cs.next c = none ↔ ∀ h ∈ cs.headers, h.cue.val ≤ c.val := by
  rw [CueStore.next, foldl_lowerCue, List.min?_eq_none_iff, List.filter_eq_nil_iff]
  simp only [List.mem_map, forall_exists_index, and_imp, forall_apply_eq_imp_iff₂, decide_eq_true_eq, not_lt]

theorem CueStore.previous_eq_some {cs : CueStore} {c n : Cue} :
    cs.previous c = some n ↔
      (∃ h ∈ cs.headers, h.cue = n) ∧ n.val < c.val ∧ ∀ h ∈ cs.headers, h.cue.val < c.val → h.cue.val ≤ n.val := by
  rw [CueStore.previous, foldl_higherCue, List.max?_eq_some_iff]
  simp only [mem_listedCues, decide_eq_true_eq, and_assoc, Fin.le_def]
  exact and_congr_right fun _ => and_congr_right fun _ =>
    ⟨fun k h hh hc => k h.cue ⟨⟨h, hh, rfl⟩, hc⟩, by rintro k _ ⟨⟨h, hh, rfl⟩, hc⟩; exact k h hh hc⟩

theorem CueStore.previous_eq_none {cs : CueStore} {c : Cue} : cs.previous c = none ↔ ∀ h ∈ cs.headers, c.val ≤ h.cue.val := by
  rw [CueStore.previous, foldl_higherCue, List.max?_eq_none_iff, List.filter_eq_nil_iff]
  simp only [List.mem_map, forall_exists_index, and_imp, forall_apply_eq_imp_iff₂, decide_eq_true_eq, not_lt]

/-! ## Records of one key (R17, R18) -/

theorem ascends_key_injective {α : Type} {key : α → Nat} {q : List α} (hq : Ascends key q) {a b : α} (ha : a ∈ q) (hb : b ∈ q)
    (h : key a = key b) : a = b := by
  induction q with
  | nil => simp at ha
  | cons x q ih =>
    obtain ⟨hx, hq⟩ := List.pairwise_cons.mp hq
    rcases List.mem_cons.mp ha with ea | ha <;> rcases List.mem_cons.mp hb with eb | hb
    · exact ea.trans eb.symm
    · exact absurd (ea ▸ h) (hx b hb).ne
    · exact absurd (eb ▸ h) (hx a ha).ne'
    · exact ih hq ha hb

/-- A cue has one header at most, which the lookup finds (R18). -/
theorem CueStore.Legal.header_eq {cs : CueStore} (hs : cs.Legal) {h : Header} (hh : h ∈ cs.headers) : cs.header h.cue = some h := by
  unfold CueStore.header
  cases hf : cs.headers.find? fun x => decide (x.cue = h.cue) with
  | none => exact absurd (List.find?_eq_none.mp hf h hh) (by simp)
  | some x =>
    have hx : x.cue = h.cue := of_decide_eq_true (List.find?_some hf :)
    rw [ascends_key_injective hs.headers_ascend (List.mem_of_find?_eq_some hf) hh (congrArg Fin.val hx)]

theorem CueStore.header_eq_none {cs : CueStore} {n : Cue} (h : ∀ x ∈ cs.headers, x.cue ≠ n) : cs.header n = none := by
  rw [CueStore.header, List.find?_eq_none]
  simpa using h

/-! ## The latest step of a channel (R35, R36) -/

/-- What a walk over the steps of a list has found: none that satisfies `q`, or one of the greatest cue among those that do. -/
def IsLatest (q : CueStep → Bool) (l : List CueStep) : Option CueStep → Prop
  | none => ∀ u ∈ l, q u = false
  | some st => st ∈ l ∧ q st = true ∧ ∀ u ∈ l, q u = true → u.cue.val ≤ st.cue.val

theorem IsLatest.laterStep {q : CueStep → Bool} {l : List CueStep} {best : Option CueStep} (h : IsLatest q l best) (x : CueStep) :
    IsLatest q (l ++ [x]) (laterStep q best x) := by
  unfold Machine.laterStep
  cases best with
  | none =>
    cases hx : q x with
    | false => simpa [IsLatest, or_imp, forall_and, hx] using h
    | true =>
      refine ⟨by simp, hx, fun u hu hq => ?_⟩
      rcases List.mem_append.mp hu with hu | hu
      · exact absurd hq (by simp [h u hu])
      · rw [List.mem_singleton.mp hu]
  | some b =>
    obtain ⟨hb, hqb, hmax⟩ := h
    have hold : b ∈ l ++ [x] := List.mem_append_left _ hb
    have bound : ∀ n, b.cue.val ≤ n → (q x = true → x.cue.val ≤ n) → ∀ u ∈ l ++ [x], q u = true → u.cue.val ≤ n := by
      intro n hn hx u hu hq
      rcases List.mem_append.mp hu with hu | hu
      · exact (hmax u hu hq).trans hn
      · rw [List.mem_singleton.mp hu] at hq ⊢; exact hx hq
    split
    · next hx =>
      dsimp only
      split
      · next hle => exact ⟨by simp, hx, bound _ hle fun _ => le_rfl⟩
      · next hlt => exact ⟨hold, hqb, bound _ le_rfl fun _ => (not_le.mp hlt).le⟩
    · next hx => exact ⟨hold, hqb, bound _ le_rfl fun h => absurd h hx⟩

theorem foldl_laterStep (q : CueStep → Bool) (l : List CueStep) : IsLatest q l (l.foldl (laterStep q) none) := by
  induction l using List.reverseRecOn with
  | nil => exact fun u hu => by simp at hu
  | append_singleton l x ih => rw [List.foldl_append]; exact ih.laterStep x

/-- The steps for channel `c` up to cue `n` that satisfy `p`. -/
theorem latest_isLatest (cs : CueStore) (c : Channel) (n : Cue) (p : CueStep → Bool) :
    IsLatest (fun st => decide (st.channel = c) && decide (st.cue.val ≤ n.val) && p st) cs.steps (cs.latest c n p) :=
  foldl_laterStep _ _

theorem latest_eq_none {cs : CueStore} {c : Channel} {n : Cue} {p : CueStep → Bool}
    (h : ∀ u ∈ cs.steps, u.channel = c → u.cue.val ≤ n.val → p u = false) : cs.latest c n p = none := by
  have k := latest_isLatest cs c n p
  cases hf : cs.latest c n p with
  | none => rfl
  | some st =>
    rw [hf] at k
    obtain ⟨hst, hq, -⟩ := k
    simp only [Bool.and_eq_true, decide_eq_true_eq] at hq
    exact absurd hq.2 (by simp [h st hst hq.1.1 hq.1.2])

/-- The step that no other of the channel outruns is the one found, as a channel has one step a cue (R17). -/
theorem CueStore.Legal.latest_eq {cs : CueStore} (hs : cs.Legal) {n : Cue} {p : CueStep → Bool} {st : CueStep}
    (hst : st ∈ cs.steps) (hn : st.cue.val ≤ n.val) (hp : p st = true)
    (hmax : ∀ u ∈ cs.steps, u.channel = st.channel → u.cue.val ≤ n.val → p u = true → u.cue.val ≤ st.cue.val) :
    cs.latest st.channel n p = some st := by
  have k := latest_isLatest cs st.channel n p
  cases hf : cs.latest st.channel n p with
  | none => rw [hf] at k; exact absurd (k st hst) (by simp [hn, hp])
  | some b =>
    rw [hf] at k
    obtain ⟨hb, hq, hle⟩ := k
    simp only [Bool.and_eq_true, decide_eq_true_eq] at hq
    obtain ⟨⟨hc, hbn⟩, hpb⟩ := hq
    have hcue : b.cue = st.cue := Fin.ext ((hmax b hb hc hbn hpb).antisymm (hle st hst (by simp [hn, hp])))
    rw [ascends_key_injective hs.steps_ascend hb hst (CueStep.key_eq.mpr ⟨hcue, hc⟩)]

/-- Settles O13, from the least and the greatest of a list, the one record of a key and the latest step of a channel. -/
theorem storeLookups : Obligations.StoreLookups := by
  refine ⟨fun cs n b hb => ?_, fun cs n hs => ⟨fun h hh hn => ?_, fun hn => ?_⟩,
    fun cs c => ⟨fun _ => CueStore.next_eq_some, CueStore.next_eq_none, fun _ => CueStore.previous_eq_some,
      CueStore.previous_eq_none⟩, fun cs c n hs => ⟨?_, fun hnone => ?_, ?_, fun hnone => ?_⟩⟩
  · exact congrArg cs.banks.get (Fin.ext hb.symm)
  · rw [CueStore.followOf, ← hn, hs.header_eq hh]; rfl
  · rw [CueStore.followOf, CueStore.header_eq_none hn]; rfl
  · rintro st hst rfl hn x hx hmax
    rw [CueStore.trackedLevel, hs.latest_eq hst hn (by simp [hx]) hmax, Option.bind_some, hx]; rfl
  · rw [CueStore.trackedLevel, latest_eq_none fun u hu hc hn => by simp [hnone u hu hc hn]]; rfl
  · rintro st hst rfl hn hm hmax
    rw [CueStore.trackedMute, hs.latest_eq hst hn (by simpa using hm) (by simpa using hmax)]
    exact beq_iff_eq
  · rw [CueStore.trackedMute, latest_eq_none fun u hu hc hn => by simp [hnone u hu hc hn]]

/-! ## Edits that are taken (R26 to R31) -/

/-- Settles O15: past its checks, each edit is the change of the lists or of the bank that its rule gives. -/
theorem storeEditsTaken : Obligations.StoreEditsTaken := by
  intro p target s hp ht
  have taken := fun body => State.receiveAddressed_taken hp ht body
  refine ⟨fun cue channel c hcue hc => ?_, fun cue hcue => ⟨?_, ?_⟩, ?_, fun bank remoteGo localGo code kind hk => ?_⟩
  · show execStepDelete p target cue channel s = _
    rw [execStepDelete, State.take_eq, taken, checkKey_taken _ hcue hc]
    simp only [State.heard_cs, Bool.decide_and, decide_not]
  · show execHeaderDelete p target cue s = _
    rw [execHeaderDelete, State.take_eq, taken, checkCue_taken _ hcue]
    simp only [State.heard_cs, decide_not, ne_eq]
  · show execCueErase p target cue s = _
    rw [execCueErase, State.take_eq, taken, checkCue_taken _ hcue]
    simp only [State.heard_cs, decide_not, ne_eq]
  · show execTableClear p target s = _
    rw [execTableClear, State.take_eq, taken]
  · have hkind : bankKindOf code = some kind := by
      simp only [List.mem_cons, Prod.mk.injEq, List.not_mem_nil, or_false] at hk
      rcases hk with ⟨rfl, rfl⟩ | ⟨rfl, rfl⟩ | ⟨rfl, rfl⟩ <;> rfl
    refine ⟨s.cs.banks.set bank ⟨remoteGo, localGo, kind⟩, ?_, fun b => ?_⟩
    · show execBankSet p target bank remoteGo localGo code s = _
      rw [execBankSet, State.take_eq, taken, hkind]
      simp only [State.heard_cs]
    · rw [Table.get_set]; simp only [eq_comm]

/-! ## Refusals (R23 to R30) -/

theorem setFlag_flag (s : State) (f g : Flag) : (s.setFlag f).flag g = (s.flag g || decide (g = f)) := by
  have hbit : f.bit = g.bit ↔ g = f := by cases f <;> cases g <;> simp [Flag.bit]
  rw [State.flag, State.setFlag, Table.get_set, State.flag]
  by_cases h : g = f
  · simp [h]
  · simp [h, hbit]

/-- The flags after a refusal (R23). -/
theorem refuseLoad_flag (s : State) (r : Reason) (f : Flag) :
    (s.refuseLoad r).flag f =
      (s.flag f || decide (f = .loadRefused) || (decide (f = .tableFull) && decide (r = .tableFull))) := by
  have counted : ∀ g : Flag, State.flag { s.setFlag .loadRefused with
      fi.counters.loadsRefused := bump s.fi.counters.loadsRefused, fi.lastReason := some r } g =
        (s.setFlag .loadRefused).flag g := fun _ => rfl
  unfold State.refuseLoad
  split
  · next h => rw [setFlag_flag, counted, setFlag_flag]; simp [h]
  · next h => rw [counted, setFlag_flag]; simp [h]

/-- A command of `p` that is refused for `r`: what its reception leaves, the flags, the counter and the reason apart (R23). -/
def Refuses (p : Station) (s : State) (i : Instr) (r : Reason) : Prop :=
  ∃ flags,
    exec i s =
      .next
        ({ s.heard p with
            fi.flags := flags
            fi.counters.loadsRefused :=
              if s.fi.counters.loadsRefused < 63 then s.fi.counters.loadsRefused + 1 else s.fi.counters.loadsRefused
            fi.lastReason := some r }.commit s) ∧
    ∀ f, flags.get (Flag.bit f) =
      ((s.heard p).flag f || decide (f = .loadRefused) || (decide (f = .tableFull) && decide (r = .tableFull)))

theorem refuses_of_exec {i : Instr} {s : State} {p : Station} {r : Reason}
    (h : exec i s = .next (((s.heard p).refuseLoad r).commit s)) : Refuses p s i r := by
  refine ⟨((s.heard p).refuseLoad r).fi.flags, ?_, refuseLoad_flag _ r⟩
  rw [h, State.refuseLoad_eq]
  simp only [State.heard_fi_counters]
  rfl

theorem channelOf_none {channel : Fin 32} (h : channel.val = 0 ∨ 25 ≤ channel.val) : channelOf channel = none := by
  rw [channelOf, oneBased, dif_neg (by omega)]

theorem checkKey_badCue (s : State) (channel : Fin 32) (body : Channel → State) :
    s.checkKey 0 channel body = s.refuseLoad .badCue := if_pos rfl

theorem checkKey_badChannel (s : State) {cue : Cue} {channel : Fin 32} (hcue : cue ≠ 0)
    (h : channel.val = 0 ∨ 25 ≤ channel.val) (body : Channel → State) :
    s.checkKey cue channel body = s.refuseLoad .badChannel := by
  rw [State.checkKey, if_neg hcue, channelOf_none h]

theorem checkCue_badCue (s : State) (body : State) : s.checkCue 0 body = s.refuseLoad .badCue := if_pos rfl

theorem loadStep_full {s : State} {st : CueStep} (hfull : 2048 ≤ s.cs.steps.length)
    (hnew : ∀ x ∈ s.cs.steps, x.key ≠ st.key) : s.loadStep st = s.refuseLoad .tableFull := by
  refine if_neg fun h => ?_
  rw [Bool.or_eq_true, steps_any_sameKey, decide_eq_true_eq] at h
  rcases h with ⟨x, hx, hk⟩ | h
  · exact hnew x hx hk
  · exact absurd h (not_lt.mpr hfull)

theorem loadHeader_full {s : State} {r : Header} (hfull : 512 ≤ s.cs.headers.length)
    (hnew : ∀ x ∈ s.cs.headers, x.cue ≠ r.cue) : s.loadHeader r = s.refuseLoad .tableFull := by
  refine if_neg fun h => ?_
  rw [Bool.or_eq_true, headers_any_cue, decide_eq_true_eq] at h
  rcases h with ⟨x, hx, hk⟩ | h
  · exact hnew x hx (Fin.ext hk)
  · exact absurd h (not_lt.mpr hfull)

theorem bankKindOf_none {code : Nat} (h : 3 ≤ code) : bankKindOf code = none := by
  obtain ⟨k, rfl⟩ := Nat.exists_eq_add_of_le' h
  rfl

/-- Settles O16: each message is refused at its first check that fails. -/
theorem storeRefusals : Obligations.StoreRefusals := by
  intro p target s hp ht
  have refused : ∀ {i : Instr} {r : Reason} (body : State → State),
      exec i s = .next ((s.receiveAddressed p target body).commit s) → body (s.heard p) = (s.heard p).refuseLoad r →
        Refuses p s i r := by
    intro i r body hi hbody
    rw [State.receiveAddressed_taken hp ht, hbody] at hi
    exact refuses_of_exec hi
  refine ⟨fun channel level fade delay curve mute => ?_, fun channel => ?_, fun present follow => ?_, ?_, ?_,
    fun cue channel level fade delay curve mute hcue hc => ⟨?_, ?_⟩,
    fun cue channel c level fade delay curve mute hcue hc hfull hnew => ?_,
    fun cue present follow hcue hfull hnew => ?_, fun bank remoteGo localGo code hcode => ?_⟩
  · exact refused _ rfl (checkKey_badCue ..)
  · exact refused _ rfl (checkKey_badCue ..)
  · exact refused _ rfl (checkCue_badCue ..)
  · exact refused _ rfl (checkCue_badCue ..)
  · exact refused _ rfl (checkCue_badCue ..)
  · exact refused _ rfl (checkKey_badChannel _ hcue hc _)
  · exact refused _ rfl (checkKey_badChannel _ hcue hc _)
  · refine refused _ rfl ((checkKey_taken _ hcue hc _).trans (loadStep_full ?_ fun x hx => ?_))
    · rw [State.heard_cs]; exact hfull
    · rw [State.heard_cs] at hx
      rw [ne_eq, CueStep.key_eq]; exact hnew x hx
  · refine refused _ rfl ((checkCue_taken _ hcue _).trans (loadHeader_full ?_ fun x hx => ?_))
    · rw [State.heard_cs]; exact hfull
    · rw [State.heard_cs] at hx; exact hnew x hx
  · refine refused _ rfl ?_
    dsimp only
    rw [bankKindOf_none hcode]

end Sys2Proof.Machine

/-! SUPPORT. What a reset leaves (R38, R61, R80, R101, R123, R140, R160, R170, R180): under any legal configuration every level is OFF
and the first PRESENCE alone is queued; under the default configuration the blocks already agree with their outputs, so that taking the
conditions changes nothing. It settles O5, O6 and O7. -/

namespace Sys2Proof.Machine

/-! ## A state that agrees with its outputs is settled (R15, R171, R174, R177, R179) -/

theorem bit_flagAt (b : Fin 12) : (flagAt b).bit = b := by revert b; decide

/-- The applied level of a channel is the one that its action state gives. -/
theorem State.OutputsAgree.applied {w : State} (ho : w.OutputsAgree) (ha : w.ActionsLegal) (c : Channel) :
    (w.gc.chan.get c).applied = (w.gc.chan.get c).level w.config.duck := by
  have hg := ha c
  cases h : (w.gc.chan.get c).action with
  | none => rw [ho.appliedNone c h, ComposerChannel.level_none _ _ h]
  | hold =>
    obtain ⟨x, hx⟩ := Option.isSome_iff_exists.mp (hg.held.mpr h)
    rw [ho.appliedHold c h x hx, ComposerChannel.level_hold _ _ h, hx]; rfl
  | duck => rw [ho.appliedDuck c h, ComposerChannel.level_duck _ _ h]
  | mute => rw [ho.appliedMute c h, ComposerChannel.level_mute _ _ h]
  | recovering =>
    obtain ⟨r, hr⟩ := Option.isSome_iff_exists.mp (hg.glide.mpr h)
    rw [ho.appliedGlide c h r hr, ComposerChannel.level_recovering _ _ h, hr]; rfl

theorem compose_of_agrees {w : State} (ho : w.OutputsAgree) (ha : w.ActionsLegal) : w.compose = w := by
  have hchan : w.gc.chan.mapAt w.composeChannel = w.gc.chan := Table.ext fun c => by
    rw [Table.get_mapAt, State.composeChannel, if_pos (show w.effectiveAction c = w.fi.effective.get c from (ho.effective c).symm),
      ← ho.composed c]
    show ({ w.gc.chan.get c with applied := (w.gc.chan.get c).level w.config.duck } : ComposerChannel) = w.gc.chan.get c
    rw [← ho.applied ha c]
  have hcond : Table.ofFn w.channelConditions = w.fi.cond := Table.ext fun c => by rw [Table.get_ofFn, ho.conditions c]
  have heffective : Table.ofFn w.effectiveAction = w.fi.effective := Table.ext fun c => by
    rw [Table.get_ofFn, ho.effective c]; rfl
  rw [State.compose, hchan, hcond, heffective]

theorem takeConditions_of_agrees {w : State} (ho : w.OutputsAgree) : w.takeConditions = w := by
  have htaken : ∀ b, w.fi.taken.get b = w.condition (flagAt b) := fun b => by rw [← ho.taken, bit_flagAt]
  have htable : (Table.ofFn fun b => w.condition (flagAt b)) = w.fi.taken := Table.ext fun b => by rw [Table.get_ofFn, htaken]
  have hflags : (Table.ofFn fun b => w.fi.flags.get b || (w.condition (flagAt b) && !w.fi.taken.get b)) = w.fi.flags :=
    Table.ext fun b => by rw [Table.get_ofFn, htaken]; simp
  rw [State.takeConditions, htable, hflags]

theorem drive_of_agrees {w : State} (ho : w.OutputsAgree) : w.drive = w := by
  have hstate : Table.ofFn w.statePattern = w.fi.stateLed := Table.ext fun c => by rw [Table.get_ofFn, ho.stateLed]
  have hmute : Table.ofFn w.mutePattern = w.fi.muteLed := Table.ext fun c => by rw [Table.get_ofFn, ho.muteLed]
  rw [State.drive, hstate, hmute, ← ho.faultLine, ← ho.goLed, ← ho.stationLed]

theorem settle_of_agrees {w : State} (ho : w.OutputsAgree) (ha : w.ActionsLegal) : w.settle = w := by
  rw [State.settle, compose_of_agrees ho ha, takeConditions_of_agrees ho, drive_of_agrees ho]

/-! ## The first PRESENCE (R141, R152) -/

theorem maskNat_false (n : Nat) : maskNat n (fun _ => false) = 0 := by
  have key : ∀ l : List (Fin n), l.foldl (fun acc i => acc + if false then 2 ^ i.val else 0) 0 = 0 := fun l => by
    induction l with
    | nil => rfl
    | cons i l ih => exact ih
  exact key _

/-- A message that joins an empty queue off the bus; a silent station discards it (R141, R145). -/
theorem enqueue_first {s : State} (hb : s.busOff = false) (hq : s.sl.queue = []) (m : Msg) :
    s.enqueue m = { s with sl.queue := if s.sl.station = 0 then [] else [⟨m, 0, false, none⟩] } := by
  unfold State.enqueue
  split
  · rw [← hq]
  · rw [if_neg (by simp [hb]), hq]; rfl

section
variable (station : Station) (rate : BitRate) (k : Configuration) (store : CueStore) (offset : Int) (pending : List Instr)

/-- The transmit queue after a reset: the first PRESENCE, none at a silent station. -/
def firstPresence (summary : BitVec 8) : List TxEntry :=
  if station = 0 then [] else [⟨.presence true false 0 0 summary, 0, false, none⟩]

theorem resetBlocks_presenceMsg :
    (resetBlocks station rate k store offset pending).settle.presenceMsg =
      .presence true false 0 0 (resetBlocks station rate k store offset pending).settle.faultSummary := by
  have hmask : (resetBlocks station rate k store offset pending).settle.ownMask = 0 := by
    simp only [State.ownMask, State.settle_pi, resetBlocks, resetPanel, Table.get_const, maskNat_false]
    rfl
  rw [State.presenceMsg, hmask, State.settle_seq, State.settle_sl]
  rfl

/-- After a reset: the blocks at their reset values, the conditions taken, and the first PRESENCE in the queue. -/
theorem afterReset_presence :
    afterReset station rate k store offset pending =
      { (resetBlocks station rate k store offset pending).settle with
        sl.queue := firstPresence station (resetBlocks station rate k store offset pending).settle.faultSummary } := by
  rw [afterReset_eq, State.queuePresence, enqueue_first, resetBlocks_presenceMsg]
  · simp only [State.settle_sl]
    rfl
  · rw [State.busOff, State.settle_sl]; rfl
  · rw [State.settle_sl]; rfl

/-! ## Levels after a reset (R15, R180) -/

/-- Every source is OFF, whether the channel follows its cue or its fader. -/
theorem resetBlocks_composedLevel (c : Channel) : (resetBlocks station rate k store offset pending).composedLevel c = off := by
  have hsource : (resetBlocks station rate k store offset pending).sourceLevel c = off := by
    simp only [State.sourceLevel, resetBlocks, resetTakeoverUnit, resetFades, Table.get_ofFn, Table.get_const, resetTakeover]
    by_cases h : (k.chan.get c).mode = .safe
    · simp [h, State.faderLevel, resetPanel]
    · simp [h]
  have hsum : ∀ masters, levelSum off masters = none := fun _ => if_pos (.inl rfl)
  rw [State.composedLevel, hsource, hsum]
  exact ite_self _

theorem resetBlocks_settled_off (hk : off ≤ k.duck) (c : Channel) :
    let g := (resetBlocks station rate k store offset pending).settle.gc.chan.get c
    g.composed = off ∧ g.applied = off := by
  intro g
  have hg : g = (resetBlocks station rate k store offset pending).composeChannel c ⟨off, off, .none, none, none⟩ := by
    refine (settle_channel _ c).trans (congrArg _ ?_)
    exact Table.get_const _ c
  rw [hg, State.composeChannel, resetBlocks_composedLevel]
  dsimp only
  split
  · exact ⟨rfl, rfl⟩
  · rw [ComposerChannel.hand_form]
    split
    · exact ⟨rfl, rfl⟩
    · exact ⟨rfl, min_eq_left hk⟩
    · exact ⟨rfl, rfl⟩
    · split
      · exact ⟨rfl, rfl⟩
      · exact ⟨rfl, rfl⟩

theorem resetBlocks_settled_flag (f : Flag) :
    (resetBlocks station rate k store offset pending).settle.flag f =
      (resetBlocks station rate k store offset pending).settle.condition f := by
  rw [← (settle_outputsAgree _).taken f, State.flag, settle_flags, settle_taken]
  simp [resetBlocks, resetFaultUnit]

end

/-! ## The resets as commands -/

theorem execRestart_taken {p target : Station} {s : State} (hp : p ≠ 0) (ht : s.addressed target = true) :
    execRestart p target s = .next (warmReset s) := if_pos ⟨hp, ht⟩

/-- Settles O6: RESTART leaves the reset values under the configuration in force, and FI takes the conditions that stand. -/
theorem restartValues : Obligations.RestartValues := by
  intro p target s hp ht hc
  have formed := warmReset_formed hc
  let blocks := resetBlocks s.sl.station s.sl.rate s.config s.cs s.pi.calOffset s.pending
  have hw : warmReset s = { blocks.settle with sl.queue := firstPresence s.sl.station blocks.settle.faultSummary } :=
    afterReset_presence s.sl.station s.sl.rate s.config s.cs s.pi.calOffset s.pending
  have hoff := resetBlocks_settled_off s.sl.station s.sl.rate s.config s.cs s.pi.calOffset s.pending
    ((show off ≤ Config.levelFloor by decide).trans hc.inForce.duck.1)
  have hflag := resetBlocks_settled_flag s.sl.station s.sl.rate s.config s.cs s.pi.calOffset s.pending
  have htk : (warmReset s).tk = resetTakeoverUnit s.config := (congrArg State.tk hw).trans blocks.settle_tk
  have hfi : (warmReset s).fi = blocks.settle.fi := by rw [hw]
  have hgc : (warmReset s).gc = blocks.settle.gc := by rw [hw]
  refine ⟨warmReset s, execRestart_taken hp ht, ?cs, ?seq, ?fe, ?pi, fun c => ?tk, ?link, ?glide, ?sg, ?gp, ?sl, fun c => ?levels,
    ?recovery, formed.outputs, formed.actions, fun f => ?flags, ?counters, ?reason, ?phase, ?indicator, ?burst, ?pending⟩
  case cs => exact (congrArg State.cs hw).trans blocks.settle_cs
  case seq => exact (congrArg State.seq hw).trans blocks.settle_seq
  case fe => exact (congrArg State.fe hw).trans blocks.settle_fe
  case pi => exact (congrArg State.pi hw).trans blocks.settle_pi
  case tk => rw [htk]; exact Table.get_ofFn _ c
  case link => rw [htk]; rfl
  case glide => rw [htk]; rfl
  case sg => exact (congrArg State.sg hw).trans blocks.settle_sg
  case gp => exact (congrArg State.gp hw).trans blocks.settle_gp
  case sl =>
    have hsummary : (warmReset s).faultSummary = blocks.settle.faultSummary := by rw [hw]; rfl
    rw [hsummary, hw]
    show ({ blocks.settle.sl with queue := firstPresence s.sl.station blocks.settle.faultSummary } : ShowLink) = _
    rw [blocks.settle_sl]
    rfl
  case levels => rw [hgc]; exact hoff c
  case recovery => rw [hgc]; exact blocks.settle_gc_recoveryTimer
  case flags => rw [hw]; exact (hflag f).trans (withTraffic_condition (s := blocks.settle) _ _ _ _ _ _ f).symm
  case counters => rw [hfi]; exact blocks.settle_fi_counters
  case reason => rw [hfi]; exact blocks.settle_fi_lastReason
  case phase => rw [hfi]; exact blocks.settle_fi_phase
  case indicator => rw [hfi]; exact blocks.settle_fi_indicatorTimer
  case burst => rw [hfi]; exact blocks.settle_fi_burstTimer
  case pending => exact (congrArg State.pending hw).trans blocks.settle_pending

/-! ## After a power-on or a RESET-line reset -/

/-- The blocks at their reset values under the default configuration. -/
def coldBlocks (station : Station) (rate : BitRate) (pending : List Instr) : State :=
  resetBlocks station rate defaultConfiguration emptyStore 0 pending

section
variable (station : Station) (rate : BitRate) (pending : List Instr)

theorem resetTakeoverUnit_default : resetTakeoverUnit defaultConfiguration = State.reset.tk := by
  have hchan : (resetTakeoverUnit defaultConfiguration).chan = State.reset.tk.chan := Table.ext fun c => by
    simp [resetTakeoverUnit, State.reset, defaultConfiguration, defaultChannel, resetTakeover]
  exact congrArg (fun t => (⟨t, State.reset.tk.link, .running 10⟩ : TakeoverUnit)) hchan

theorem coldBlocks_eq :
    coldBlocks station rate pending =
      { State.reset with sl.station := station, sl.rate := rate, pending := pending } := by
  rw [coldBlocks, resetBlocks, resetTakeoverUnit_default]
  rfl

/-- No condition is present after a cold reset: no fader is FAULTED and no master or group is mapped. -/
theorem coldBlocks_channelConditions (c : Channel) :
    (coldBlocks station rate pending).channelConditions c = ⟨false, false, false⟩ := by
  simp [State.channelConditions, State.groupStale, State.inMaster, State.config, coldBlocks, resetBlocks, resetPanel, resetGainPort,
    resetShowLink, defaultConfiguration, defaultChannel, anyIndex_false_iff]

theorem coldBlocks_condition (f : Flag) : (coldBlocks station rate pending).condition f = false := by
  have hstale : ∀ c, (coldBlocks station rate pending).groupStale c = false := fun c =>
    congrArg ChannelConditions.groupStale (coldBlocks_channelConditions station rate pending c)
  have hmismatch : ∀ c, ((coldBlocks station rate pending).gp.chan.get c).mismatch = false := fun c =>
    congrArg ChannelConditions.mismatch (coldBlocks_channelConditions station rate pending c)
  cases f with
  | anyFaderFault => simp [State.condition, anyIndex_false_iff, coldBlocks, resetBlocks, resetPanel]
  | anyGroupStale => simp [State.condition, anyIndex_false_iff, hstale]
  | anyReadbackMismatch => simp [State.condition, anyIndex_false_iff, hmismatch]
  | calFault | configRejected | tableFull | loadRefused | txOverflow | linkOff | linkAlone | stationClash | goRefused => rfl

theorem coldBlocks_faultActive : (coldBlocks station rate pending).faultActive = false := by
  simp [State.faultActive, anyIndex_false_iff, coldBlocks, resetBlocks, resetFaultUnit]

theorem coldBlocks_flag (f : Flag) : (coldBlocks station rate pending).flag f = false := by
  simp [State.flag, coldBlocks, resetBlocks, resetFaultUnit]

theorem coldBlocks_faultSummary : (coldBlocks station rate pending).faultSummary = 0 := by
  simp only [State.faultSummary, coldBlocks_faultActive, coldBlocks_flag]
  rfl

theorem coldBlocks_channel (c : Channel) : (coldBlocks station rate pending).gc.chan.get c = ⟨off, off, .none, none, none⟩ :=
  Table.get_const _ c

theorem coldBlocks_statePattern (c : Channel) : (coldBlocks station rate pending).statePattern c = .off := by
  rw [State.statePattern, coldBlocks_channelConditions, if_neg (by simp), coldBlocks_eq]
  simp [State.reset]

theorem coldBlocks_mutePattern (c : Channel) : (coldBlocks station rate pending).mutePattern c = .off := by
  have hgroup : (coldBlocks station rate pending).groupMuted c = false := by
    simp [State.groupMuted, anyIndex_false_iff, State.inGroup, State.config, coldBlocks_eq, State.reset, defaultConfiguration,
      defaultChannel]
  rw [State.mutePattern, coldBlocks_channel, hgroup, coldBlocks_eq]
  simp [State.reset]

theorem coldBlocks_outputsAgree : (coldBlocks station rate pending).OutputsAgree where
  composed c := by rw [coldBlocks_channel]; exact (resetBlocks_composedLevel station rate _ _ _ pending c).symm
  appliedNone c _ := by rw [coldBlocks_channel]
  appliedHold c h := by simp [coldBlocks_channel] at h
  appliedDuck c h := by simp [coldBlocks_channel] at h
  appliedMute c h := by simp [coldBlocks_channel] at h
  appliedGlide c h := by simp [coldBlocks_channel] at h
  conditions c := by rw [coldBlocks_channelConditions]; exact Table.get_const _ c
  effective c := by rw [coldBlocks_channelConditions]; exact Table.get_const _ c
  taken f := by rw [coldBlocks_condition]; exact Table.get_const _ _
  faultLine := (coldBlocks_faultActive station rate pending).symm
  stateLed c := by rw [coldBlocks_statePattern]; exact Table.get_const _ c
  muteLed c := by rw [coldBlocks_mutePattern]; exact Table.get_const _ c
  goLed := rfl
  stationLed := rfl

/-- Taking the conditions after a cold reset changes nothing; the first PRESENCE joins the queue. -/
theorem coldReset_eq (straps : Fin 4) (s : State) :
    coldReset station straps s =
      { State.reset with
        sl.station := station
        sl.rate := bitRateOf straps
        sl.queue := firstPresence station 0
        pending := s.pending } := by
  have hsettled : (coldBlocks station (bitRateOf straps) s.pending).settle = coldBlocks station (bitRateOf straps) s.pending :=
    settle_of_agrees (coldBlocks_outputsAgree ..) (resetBlocks_actionsLegal _ _ _ _ _)
  have h := afterReset_presence station (bitRateOf straps) defaultConfiguration emptyStore 0 s.pending
  change coldReset station straps s = { (coldBlocks station (bitRateOf straps) s.pending).settle with
    sl.queue := firstPresence station (coldBlocks station (bitRateOf straps) s.pending).settle.faultSummary } at h
  rw [h, hsettled, coldBlocks_faultSummary, coldBlocks_eq]

end

/-- Settles O5: power-on and the RESET line have one meaning, the cold reset at the straps. -/
theorem coldResetValues : Obligations.ColdResetValues := by
  intro n r rate s hr i hi
  have hrate : bitRateOf r = rate := by fin_cases r <;> simp_all [bitRateOf]
  have hcold : exec i s = .next (coldReset n r s) := by
    simp only [List.mem_cons, List.not_mem_nil, or_false] at hi
    rcases hi with rfl | rfl <;> rfl
  rw [hcold, coldReset_eq, hrate, firstPresence]

/-! ## The invariants at reset -/

theorem reset_eq_coldReset : State.reset = coldReset 0 0 State.reset := (coldReset_eq 0 0 State.reset).symm

theorem reset_formed : State.reset.Formed := reset_eq_coldReset ▸ coldReset_formed 0 0 State.reset

theorem reset_linkOf (c : Channel) : State.reset.linkOf c = none := by
  simp [State.linkOf, State.config, State.reset, defaultConfiguration, defaultChannel]

theorem reset_mode (c : Channel) : State.reset.mode c = .auto := by
  simp [State.mode, State.config, State.reset, defaultConfiguration, defaultChannel]

theorem reset_fade (c : Channel) : State.reset.fe.chan.get c = ⟨off, false, none⟩ := Table.get_const _ c

theorem reset_takeover (c : Channel) : State.reset.tk.chan.get c = ⟨.cue, off, none, false⟩ := Table.get_const _ c

theorem reset_link (l : LinkNo) : State.reset.tk.link.get l = ⟨0, none, off, false, none, []⟩ := Table.get_const _ l

theorem reset_touch (c : Channel) : State.reset.pi.touch.get c = ⟨false, false, false, .stopped⟩ := Table.get_const _ c

theorem reset_peer (p : Station) : State.reset.sl.peer.get p = ⟨.unknown, false, false, 0, .stopped⟩ := Table.get_const _ p

theorem reset_fadesLegal : State.reset.FadesLegal where
  chan c := by rw [reset_fade]; exact ⟨by simp, by simp, by simp, by simp⟩
  waiting := ⟨by simp [State.reset], by simp [State.reset], by simp [State.reset], by simp [State.reset]⟩

theorem reset_panelLegal : State.reset.PanelLegal where
  scan := by decide
  scanRange _ := by decide
  touchAccepts c h := by simp [reset_touch] at h
  touchFault c h := by simp [reset_touch] at h
  quiet c h := by simp [reset_touch] at h
  offset := by decide
  run k := by simp [State.reset]
  match_locked h := absurd h (by decide)
  match_timer := by decide
  match_length := by decide

theorem reset_linkLegal (l : LinkNo) : State.reset.LinkLegal l := by
  constructor <;> simp [reset_link]

theorem reset_touchingLegal (l : LinkNo) : State.reset.TouchingLegal l := by
  constructor <;> simp [reset_link, reset_linkOf]

theorem reset_takeoverLegal : State.reset.TakeoverLegal where
  chan c := by rw [reset_takeover, reset_mode]; constructor <;> simp
  following c l _ h := by simp [reset_takeover] at h
  mark c h := by simp [reset_takeover] at h

theorem reset_assertionsAgree : State.reset.AssertionsAgree := fun g => by simp [State.reset]

theorem reset_queueLegal : State.reset.QueueLegal := by
  constructor <;> simp [State.reset]

theorem reset_errorsLegal : State.reset.ErrorsLegal where
  tx := by decide
  rx := by decide
  recessive := by decide
  idle _ := rfl

theorem reset_peersLegal : State.reset.PeersLegal where
  unused p _ := by rw [reset_peer]
  silence p := by simp [reset_peer]
  alone := by
    have hcount : State.reset.presentCount = 0 := by
      simp [State.presentCount, State.present, reset_peer, countIndex]
    exact iff_of_true hcount (.inl (by decide))
  clash := by decide

theorem reset_windowLegal : State.reset.WindowLegal where
  joining _ := by decide
  running h := absurd h (by decide)
  assembly h := absurd h (by decide)
  still _ := by decide
  fades _ := ⟨rfl, fun c => by rw [reset_fade]; exact ⟨rfl, rfl⟩⟩
  adopted h := absurd h (by decide)

theorem reset_faultUnitLegal : State.reset.fi.Legal where
  loadsRefused := by decide
  goRefused := by decide
  remoteIgnored := by decide
  txDrops := by decide
  phase := by decide

/-- Settles O7: the invariants of the outputs and levels hold after every reset, the others at the reset values. -/
theorem resetMeetsTheInvariants : Obligations.ResetMeetsTheInvariants :=
  ⟨emptyStore_legal, reset_formed.config, reset_fadesLegal, reset_panelLegal, fun l => ⟨reset_linkLegal l, reset_touchingLegal l⟩,
    reset_takeoverLegal, reset_assertionsAgree, reset_queueLegal, reset_errorsLegal, reset_peersLegal, reset_windowLegal,
    reset_formed.actions, reset_formed.outputs, reset_formed.flags, reset_formed.levels, reset_faultUnitLegal,
    List.nodup_finRange 24⟩

end Sys2Proof.Machine

/-! SUPPORT. Messages by their sender and their target (R22, R143, R144): what each message command hands to its reception, and the
frames that go no further; it settles O18. -/

namespace Sys2Proof.Machine

/-- A RESTART that does not reach this station is received as any addressed message is (R22, R143, R159). -/
theorem execRestart_received {p target : Station} {s : State} (h : ¬(p ≠ 0 ∧ s.addressed target = true)) :
    execRestart p target s = .next ((s.receiveAddressed p target fun t => t).commit s) := if_neg h

/-- A message to a target is handed to the reception of addressed messages; a RESTART that reaches this station is the reset. -/
theorem exec_receivesAddressed {i : Instr} {p target : Station} {s : State} (hs : i.sender? = some p)
    (ht : i.target? = some target) (h : ¬(p ≠ 0 ∧ s.addressed target = true)) :
    ∃ body, exec i s = .next ((s.receiveAddressed p target body).commit s) := by
  cases i with
  | restart q u =>
    cases hs; cases ht
    exact ⟨_, execRestart_received h⟩
  | statusRequest | panelLock | configBegin | configItem | configEnd | stepLoad | stepDelete | headerLoad | headerDelete | bankSet
  | cueErase | tableClear =>
    cases hs; cases ht
    exact ⟨_, rfl⟩
  | _ => cases ht

/-- A message of sender 0 is handed to the reception, whatever else it carries. -/
theorem exec_receives_zero {i : Instr} (h : i.sender? = some 0) (s : State) (hi : ∀ f, i ≠ .ignoredFrame f) :
    ∃ body, exec i s = .next ((s.receive 0 body).commit s) := by
  cases ht : i.target? with
  | some target =>
    obtain ⟨body, e⟩ := exec_receivesAddressed (s := s) h ht fun k => k.1 rfl
    exact ⟨_, e⟩
  | none =>
    cases i with
    | ignoredFrame f => exact absurd rfl (hi f)
    | go | goto | hold | resume | linkTouch | linkState | linkRelease | malformedLink | muteGroup | groupLevel | presence
    | statusReply =>
      cases h
      exact ⟨_, rfl⟩
    | restart | statusRequest | panelLock | configBegin | configItem | configEnd | stepLoad | stepDelete | headerLoad
    | headerDelete | bankSet | cueErase | tableClear => cases ht
    | _ => cases h

theorem addressed_iff (s : State) (target : Station) : s.addressed target = true ↔ target = s.sl.station ∨ target = 0 := by
  simp [State.addressed]

/-- What an ignored frame of `p` does: the clash first if the number is this station's own (R143, R144). -/
theorem execIgnoredFrame_sender (p : Station) (s : State) :
    let w := (if p = s.sl.station then s.countReceived.beginClash else s.countReceived).countIgnored
    execIgnoredFrame (.unknownKind p) s = .next (w.commit s) ∧ execIgnoredFrame (.tooFewBytes p) s = .next (w.commit s) :=
  ⟨rfl, rfl⟩

theorem execIgnoredFrame_zero (s : State) :
    execIgnoredFrame .senderZero s =
      .next ((if s.sl.station = 0 then s.countReceived.beginClash else s.countReceived).countIgnored.commit s) := by
  simp only [eq_comm (a := s.sl.station)]
  rfl

theorem exec_sender_zero {i : Instr} (h : i.sender? = some 0) (s : State) :
    exec i s = .next ((if s.sl.station = 0 then s.countReceived.beginClash else s.countReceived).countIgnored.commit s) := by
  by_cases hi : ∃ f, i = .ignoredFrame f
  · obtain ⟨f, rfl⟩ := hi
    rw [← execIgnoredFrame_zero]
    cases f with
    | unknownKind p => cases h; rfl
    | tooFewBytes p => cases h; rfl
    | senderZero | extended | remote => cases h
  · obtain ⟨body, e⟩ := exec_receives_zero h s fun f e => hi ⟨f, e⟩
    rw [e, State.receive_zero]

/-- Settles O18, from the reception that each message command hands itself to. -/
theorem framesThatGoNoFurther : Obligations.FramesThatGoNoFurther := by
  refine ⟨fun s => ?_, fun i p target s hs ht hp h0 hown => ?_⟩
  · intro counted received clashing fromZero
    have hzero : (if s.sl.station = 0 then s.countReceived.beginClash else s.countReceived).countIgnored = counted fromZero := by
      by_cases h : s.sl.station = 0
      · simp only [fromZero, if_pos h]; rfl
      · simp only [fromZero, if_neg h]; rfl
    refine ⟨rfl, addressed_iff s, fun p hp => ?_, fun i hi => ?_, ?_, fun p hp => ?_, rfl, rfl⟩
    · obtain ⟨hkind, hbytes⟩ := execIgnoredFrame_sender p s
      rw [if_pos hp] at hkind hbytes
      exact ⟨hkind, hbytes⟩
    · rw [exec_sender_zero hi, hzero]
    · rw [← hzero]; exact execIgnoredFrame_zero s
    · obtain ⟨hkind, hbytes⟩ := execIgnoredFrame_sender p s
      rw [if_neg hp] at hkind hbytes
      exact ⟨hkind, hbytes⟩
  · have helse : s.addressed target = false := Bool.eq_false_iff.mpr fun h => ((addressed_iff s target).mp h).elim hown h0
    obtain ⟨body, e⟩ := exec_receivesAddressed (s := s) hs ht fun k => by simp [helse] at k
    rw [e, State.receiveAddressed_elsewhere hp helse]

end Sys2Proof.Machine

/-! SUPPORT. What stands through a command: the relation `Stands` between the state an operation finds and the state it leaves, for every
aspect of the state but those the operation may change. One lemma an operation; the commands and O60 follow in the next part. -/

namespace Sys2Proof.Machine

/-! ## The aspects of the state that stand or only rise -/

/-- The parts of the state that O60 speaks of, one for each clause; the stamps and the counters are apart. -/
inductive Aspect
  | store
  | config
  | straps
  | flags
  | stamps
  | counters
  | panelMutes
  | assertions
  | asserters
  | port
  | phase
deriving DecidableEq

/-- The stamp of a link record rises within its range (R112, R114, R116, R117). -/
def LinkRecord.Rises (r u : LinkRecord) : Prop := r.stamp ≤ Config.stampTop → r.stamp ≤ u.stamp ∧ u.stamp ≤ Config.stampTop

/-- No counter falls (R176). -/
structure Counters.Rise (c d : Counters) : Prop where
  loadsRefused : c.loadsRefused ≤ d.loadsRefused
  goRefused : c.goRefused ≤ d.goRefused
  remoteIgnored : c.remoteIgnored ≤ d.remoteIgnored
  txDrops : c.txDrops ≤ d.txDrops

/-- The port's records stand and the update queue grows at its end (R161 to R163). -/
structure GainPort.Grows (p q : GainPort) : Prop where
  chan : q.chan = p.chan
  inFlight : q.inFlight = p.inFlight
  previous : q.previous = p.previous
  seq : q.seq = p.seq
  queue : p.queue <+: q.queue

/-- An aspect stands from one state to another; flags, stamps, counters and the update queue may rise. -/
def Aspect.Stands (s t : State) : Aspect → Prop
  | .store => t.cs = s.cs
  | .config => t.sl.config = s.sl.config
  | .straps => t.sl.station = s.sl.station ∧ t.sl.rate = s.sl.rate
  | .flags => ∀ b, s.fi.flags.get b = true → t.fi.flags.get b = true
  | .stamps => ∀ l, (s.tk.link.get l).Rises (t.tk.link.get l)
  | .counters => s.fi.counters.Rise t.fi.counters
  | .panelMutes => t.pi.panelMute = s.pi.panelMute
  | .assertions => t.pi.ownAssert = s.pi.ownAssert
  | .asserters => t.sg.asserters = s.sg.asserters
  | .port => s.gp.Grows t.gp
  | .phase => t.fi.phase = s.fi.phase

/-- Every aspect stands but those of `E`. -/
structure State.Stands (E : List Aspect) (s t : State) : Prop where
  aspect : ∀ a, a ∉ E → a.Stands s t

theorem LinkRecord.Rises.of_stamp {r u : LinkRecord} (h : u.stamp = r.stamp) : r.Rises u :=
  fun hr => ⟨h.ge, h ▸ hr⟩

theorem LinkRecord.Rises.trans {r u v : LinkRecord} (h : r.Rises u) (k : u.Rises v) : r.Rises v := fun hr =>
  have hu := h hr
  have hv := k hu.2
  ⟨hu.1.trans hv.1, hv.2⟩

theorem Counters.Rise.refl (c : Counters) : c.Rise c := ⟨le_rfl, le_rfl, le_rfl, le_rfl⟩

theorem Counters.Rise.trans {c d e : Counters} (h : c.Rise d) (k : d.Rise e) : c.Rise e :=
  ⟨h.loadsRefused.trans k.loadsRefused, h.goRefused.trans k.goRefused, h.remoteIgnored.trans k.remoteIgnored,
    h.txDrops.trans k.txDrops⟩

theorem GainPort.Grows.of_queue {p : GainPort} {queue : List Channel} (h : p.queue <+: queue) :
    p.Grows { p with queue := queue } := ⟨rfl, rfl, rfl, rfl, h⟩

theorem GainPort.Grows.refl (p : GainPort) : p.Grows p := ⟨rfl, rfl, rfl, rfl, [], List.append_nil _⟩

theorem GainPort.Grows.trans {p q r : GainPort} (h : p.Grows q) (k : q.Grows r) : p.Grows r :=
  ⟨k.chan.trans h.chan, k.inFlight.trans h.inFlight, k.previous.trans h.previous, k.seq.trans h.seq, h.queue.trans k.queue⟩

theorem Aspect.stands_refl (s : State) (a : Aspect) : a.Stands s s := by
  cases a with
  | straps => exact ⟨rfl, rfl⟩
  | flags => exact fun _ h => h
  | stamps => exact fun _ => .of_stamp rfl
  | counters => exact .refl _
  | port => exact .refl _
  | store | config | panelMutes | assertions | asserters | phase => rfl

theorem Aspect.Stands.trans {s t u : State} {a : Aspect} (h : a.Stands s t) (k : a.Stands t u) : a.Stands s u := by
  cases a with
  | straps => exact ⟨Eq.trans k.1 h.1, Eq.trans k.2 h.2⟩
  | flags => exact fun b hb => k b (h b hb)
  | stamps => exact fun l => (h l).trans (k l)
  | counters => exact Counters.Rise.trans h k
  | port => exact GainPort.Grows.trans h k
  | store | config | panelMutes | assertions | asserters | phase => exact Eq.trans k h

namespace State.Stands

variable {E : List Aspect} {s t u : State}

theorem refl (s : State) : s.Stands E s := ⟨fun a _ => a.stands_refl s⟩

theorem trans (h : s.Stands E t) (k : t.Stands E u) : s.Stands E u :=
  ⟨fun a ha => (h.aspect a ha).trans (k.aspect a ha)⟩

theorem ite {c : Prop} [Decidable c] (ht : s.Stands E t) (hu : s.Stands E u) :
    s.Stands E (if c then t else u) := by
  split
  · exact ht
  · exact hu

/-- An operation behind a test, which may use what the test says. -/
theorem guarded {c : Prop} [Decidable c] (ht : c → s.Stands E t) : s.Stands E (if c then t else s) := by
  split
  · next h => exact ht h
  · exact .refl s

theorem forEach {n : Nat} (f : Fin n → State → State) (hf : ∀ i (s : State), s.Stands E (f i s)) (s : State) :
    s.Stands E (forEach n f s) :=
  forEach_keeps (fun t => s.Stands E t) f (fun i t h => h.trans (hf i t)) s (.refl s)

theorem foldl {α : Type} (f : State → α → State) (hf : ∀ (s : State) a, s.Stands E (f s a)) (l : List α) (s : State) :
    s.Stands E (l.foldl f s) := by
  induction l generalizing s with
  | nil => exact .refl s
  | cons a l ih => exact (hf s a).trans (ih _)

end State.Stands

section
variable {E : List Aspect} (s : State)

/-! ## A change of one block -/

theorem stands_cs (cs : CueStore) (h : .store ∉ E → cs = s.cs) : s.Stands E { s with cs := cs } := ⟨fun a ha => by
  have k := a.stands_refl s
  cases a with
  | store => exact h ha
  | _ => exact k⟩

theorem stands_pi (pi : Panel) (hmute : .panelMutes ∉ E → pi.panelMute = s.pi.panelMute)
    (hown : .assertions ∉ E → pi.ownAssert = s.pi.ownAssert) : s.Stands E { s with pi := pi } := ⟨fun a ha => by
  have k := a.stands_refl s
  cases a with
  | panelMutes => exact hmute ha
  | assertions => exact hown ha
  | _ => exact k⟩

theorem stands_tk (tk : TakeoverUnit) (h : ∀ l, (s.tk.link.get l).Rises (tk.link.get l)) :
    s.Stands E { s with tk := tk } :=
  ⟨fun a _ => by
    have k := a.stands_refl s
    cases a with
    | stamps => exact h
    | _ => exact k⟩

theorem stands_sg (sg : SharedGroups) (h : .asserters ∉ E → sg.asserters = s.sg.asserters) :
    s.Stands E { s with sg := sg } :=
  ⟨fun a ha => by
    have k := a.stands_refl s
    cases a with
    | asserters => exact h ha
    | _ => exact k⟩

theorem stands_sl (sl : ShowLink) (hstation : sl.station = s.sl.station) (hrate : sl.rate = s.sl.rate)
    (hconfig : sl.config = s.sl.config) : s.Stands E { s with sl := sl } := ⟨fun a _ => by
  have k := a.stands_refl s
  cases a with
  | straps => exact ⟨hstation, hrate⟩
  | config => exact hconfig
  | _ => exact k⟩

theorem stands_gp (gp : GainPort) (h : .port ∉ E → s.gp.Grows gp) :
    s.Stands E { s with gp := gp } := ⟨fun a ha => by
  have k := a.stands_refl s
  cases a with
  | port => exact h ha
  | _ => exact k⟩

theorem stands_fi (fi : FaultUnit) (hflags : .flags ∉ E → ∀ b, s.fi.flags.get b = true → fi.flags.get b = true)
    (hcounters : s.fi.counters.Rise fi.counters) (hphase : .phase ∉ E → fi.phase = s.fi.phase) :
    s.Stands E { s with fi := fi } :=
  ⟨fun a ha => by
    have k := a.stands_refl s
    cases a with
    | flags => exact hflags ha
    | counters => exact hcounters
    | phase => exact hphase ha
    | _ => exact k⟩

/-- What SEQ, FE and GC hold is no aspect. -/
theorem stands_levels (seq : Sequencer) (fe : FadeEngine) (gc : Composer) :
    s.Stands E { s with seq := seq, fe := fe, gc := gc } :=
  ⟨fun a _ => by
    have k := a.stands_refl s
    cases a <;> exact k⟩

theorem stands_seq (q : Sequencer) : s.Stands E { s with seq := q } := stands_levels s ..

theorem stands_fe (fe : FadeEngine) : s.Stands E { s with fe := fe } := stands_levels s ..

theorem stands_gc (gc : Composer) : s.Stands E { s with gc := gc } := stands_levels s ..

/-- A change of PI that leaves the panel mutes and the own assertions. -/
theorem stands_panel (pi : Panel) (hmute : pi.panelMute = s.pi.panelMute) (hown : pi.ownAssert = s.pi.ownAssert) :
    s.Stands E { s with pi := pi } := stands_pi s pi (fun _ => hmute) fun _ => hown

/-- Flags are set and counters raised. -/
theorem stands_faults (fi : FaultUnit) (hflags : ∀ b, s.fi.flags.get b = true → fi.flags.get b = true)
    (hcounters : s.fi.counters.Rise fi.counters) (hphase : fi.phase = s.fi.phase) :
    s.Stands E { s with fi := fi } :=
  stands_fi s fi (fun _ => hflags) hcounters fun _ => hphase

/-! ## Flags, counters, the transmit queue (R145 to R148, R176) -/

theorem le_bump (n : Nat) : n ≤ bump n := by
  unfold bump
  split
  · exact Nat.le_succ n
  · exact le_rfl

theorem stands_setFlag (f : Flag) : s.Stands E (s.setFlag f) :=
  stands_faults s _ (fun b h => get_set_true _ _ b h) (.refl _) rfl

theorem stands_countIgnored : s.Stands E s.countIgnored :=
  stands_faults s _ (fun _ h => h) ⟨le_rfl, le_rfl, le_bump _, le_rfl⟩ rfl

theorem stands_countDrop : s.Stands E s.countDrop :=
  stands_faults s _ (fun _ h => h) ⟨le_rfl, le_rfl, le_rfl, le_bump _⟩ rfl

theorem stands_refuseGo : s.Stands E s.refuseGo :=
  stands_faults s _ (fun b h => get_set_true _ _ b h) ⟨le_rfl, le_bump _, le_rfl, le_rfl⟩ rfl

theorem stands_refuseLoad (r : Reason) : s.Stands E (s.refuseLoad r) := by
  have h : s.Stands E { s.setFlag .loadRefused with
      fi.counters.loadsRefused := bump s.fi.counters.loadsRefused, fi.lastReason := some r } :=
    stands_faults s _ (fun b h => get_set_true _ _ b h) ⟨le_bump _, le_rfl, le_rfl, le_rfl⟩ rfl
  exact .ite (h.trans (stands_setFlag _ _)) h

/-- What the transmit queue holds is no aspect. -/
theorem stands_txQueue (q : List TxEntry) : s.Stands E { s with sl.queue := q } := stands_sl s _ rfl rfl rfl

theorem stands_enqueue (m : Msg) : s.Stands E (s.enqueue m) := by
  have h := stands_txQueue (E := E) s (joinQueue m s.sl.queue).1
  exact .ite (.refl s) (.ite (stands_countDrop s) (.ite ((h.trans (stands_setFlag _ _)).trans (stands_countDrop _)) h))

theorem stands_queueLink (l : LinkNo) (a : LinkAction) : s.Stands E (s.queueLink l a) := stands_enqueue s _

theorem stands_queuePresence : s.Stands E s.queuePresence := stands_enqueue s _

theorem stands_queueLevel (m : MasterNo) : s.Stands E (s.queueLevel m) := .ite (stands_enqueue s _) (.refl s)

theorem stands_queueLevels : s.Stands E s.queueLevels := .forEach _ (fun m t => stands_queueLevel t m) s

/-! ## The end of an event -/

theorem stands_settle : s.Stands E s.settle := by
  have hcounters : s.fi.counters.Rise s.settle.fi.counters := by rw [State.settle_fi_counters]; exact .refl _
  have hs : s.settle = { s with gc := s.settle.gc, fi := s.settle.fi } := by
    simp only [State.settle, State.compose, State.takeConditions, State.drive]
  rw [hs]
  exact (stands_gc s s.settle.gc).trans (stands_faults _ s.settle.fi (fun b h => by rw [settle_flags, h, Bool.true_or])
    hcounters s.settle_fi_phase)

theorem stands_commit (before : State) : s.Stands E (s.commit before) := by
  have hqueue : s.settle.gp.queue <+: (s.commit before).gp.queue := by
    rw [commit_queue, State.settle_gp]
    exact ⟨_, rfl⟩
  rw [State.commit_eq]
  exact (stands_settle s).trans (stands_gp s.settle _ fun _ => .of_queue hqueue)

/-! ## Reception (R143, R144, R148, R151) -/

theorem stands_countReceived : s.Stands E s.countReceived := stands_sl s _ rfl rfl rfl

theorem stands_beginClash : s.Stands E s.beginClash := by
  have h : s.Stands E { s with sl.clashCond := true, sl.clashTimer := .running Config.clashMs } :=
    stands_sl s _ rfl rfl rfl
  refine h.trans (stands_faults _ _ (fun b h => ?_) (.refl _) rfl)
  show (if s.sl.clashCond then s.fi.flags else s.fi.flags.set Flag.stationClash.bit true).get b = true
  split
  · exact h
  · exact get_set_true _ _ b h

theorem stands_heard (p : Station) : s.Stands E (s.heard p) := by
  refine (stands_countReceived s).trans (.ite (stands_beginClash _) ?_)
  rw [State.hearPeer_eq]
  exact stands_sl _ _ rfl rfl rfl

/-- The clash that a frame begins if it bears this station's own number. -/
theorem stands_clash (c : Prop) [Decidable c] :
    s.Stands E (if c then s.countReceived.beginClash else s.countReceived) :=
  .ite ((stands_countReceived s).trans (stands_beginClash _)) (stands_countReceived s)

theorem stands_receive (p : Station) (body : State → State) (hb : ∀ t : State, t.Stands E (body t)) :
    s.Stands E (s.receive p body) :=
  .ite ((stands_clash s _).trans (stands_countIgnored _)) ((stands_heard s p).trans (hb _))

theorem stands_receiveAddressed (p target : Station) (body : State → State) (hb : ∀ t : State, t.Stands E (body t)) :
    s.Stands E (s.receiveAddressed p target body) :=
  stands_receive s p _ fun t => .ite (hb t) (.refl t)

theorem stands_takeConfig (p target : Station) (body : State → State) (hb : ∀ t : State, t.Stands E (body t)) :
    s.Stands E (s.takeConfig p target body) :=
  stands_receiveAddressed s p target _ fun t => .ite (hb t) (.ite (.refl t) (stands_refuseLoad t _))

/-- While RUNNING a configuration message is refused or disregarded (R156). -/
theorem stands_takeConfig_running (hr : s.sl.state = .running) (p target : Station) (body : State → State) :
    s.Stands E (s.takeConfig p target body) := by
  have hnot : (s.heard p).sl.state ≠ .joining := by rw [State.heard_sl_state, hr]; decide
  refine .ite ((stands_clash s _).trans (stands_countIgnored _)) ((stands_heard s p).trans (.guarded fun _ => ?_))
  dsimp only
  rw [if_neg hnot]
  exact .ite (.refl _) (stands_refuseLoad _ _)

/-! ## Takeover and links (chapter 6) -/

/-- What TK holds for its channels is no aspect. -/
theorem stands_takeover (chan : Table 24 TakeoverChannel) (timer : Timer) :
    s.Stands E { s with tk.chan := chan, tk.glideTimer := timer } := stands_tk s _ fun _ => .of_stamp rfl

theorem stands_modifyTk (c : Channel) (f : TakeoverChannel → TakeoverChannel) : s.Stands E (s.modifyTk c f) :=
  stands_takeover s ..

theorem stands_modifyLink (l : LinkNo) (f : LinkRecord → LinkRecord) (hf : (s.tk.link.get l).Rises (f (s.tk.link.get l))) :
    s.Stands E (s.modifyLink l f) :=
  stands_tk s _ fun k => by
    show (s.tk.link.get k).Rises ((s.tk.link.modify l f).get k)
    rw [Table.get_modify]
    split
    · next e => subst e; exact hf
    · exact .of_stamp rfl

theorem stands_takeHold (l : LinkNo) (c : Channel) : s.Stands E (s.takeHold l c) := by
  refine ((stands_modifyLink s l _ fun hr => ?_).trans (stands_queueLink ..)).trans (stands_takeover ..)
  dsimp only
  split
  · exact ⟨le_rfl, hr⟩
  · exact ⟨le_min (Nat.le_succ _) hr, min_le_right ..⟩

theorem stands_driveLink (l : LinkNo) (c : Channel) : s.Stands E (s.driveLink l c) :=
  ((stands_modifyLink s l _ (.of_stamp rfl)).trans (stands_queueLink ..)).trans (stands_takeover ..)

theorem stands_giveUp (l : LinkNo) : s.Stands E (s.giveUp l) :=
  ((stands_modifyLink s l _ (.of_stamp rfl)).trans (stands_queueLink ..)).trans (stands_takeover ..)

theorem stands_leaveList (l : LinkNo) (c : Channel) : s.Stands E (s.leaveList l c) := by
  have h := fun rest => stands_modifyLink (E := E) s l (fun r => { r with touching := rest }) (.of_stamp rfl)
  refine .ite ?_ (.refl s)
  split
  · exact (h _).trans (stands_giveUp ..)
  · exact .ite ((h _).trans (stands_driveLink ..)) (h _)

theorem stands_touchBegin (c : Channel) : s.Stands E (s.touchBegin c) := by
  unfold State.touchBegin
  dsimp only
  split
  · exact stands_modifyTk s ..
  · exact (stands_modifyTk s ..).trans (stands_takeHold ..)

theorem stands_touchEnd (c : Channel) : s.Stands E (s.touchEnd c) := by
  refine .ite (stands_modifyTk s ..) ?_
  split
  · exact stands_leaveList s ..
  · exact stands_modifyTk s ..

theorem stands_faderChange (c : Channel) : s.Stands E (s.faderChange c) := by
  unfold State.faderChange
  split
  · exact stands_modifyTk s ..
  · exact .ite (stands_driveLink s ..) (.refl s)

theorem stands_notice (c : Channel) (priority : Bool) : s.Stands E (s.notice c priority) := by
  refine .ite ?_ (stands_modifyTk s ..)
  dsimp only
  split
  · exact stands_modifyTk s ..
  · exact (stands_modifyTk s ..).trans (stands_leaveList ..)

theorem stands_loseHold (l : LinkNo) : s.Stands E (s.loseHold l) :=
  .ite ((stands_modifyLink s l _ (.of_stamp rfl)).trans (stands_takeover ..)) (.refl s)

theorem loseHold_stamp (l : LinkNo) : ((s.loseHold l).tk.link.get l).stamp = (s.tk.link.get l).stamp := by
  rw [loseHold_link]
  split <;> rfl

theorem acceptsTouch_le {r : LinkRecord} {n : Nat} {p : Option Station} (h : r.acceptsTouch n p = true) : r.stamp ≤ n := by
  simp only [LinkRecord.acceptsTouch, Bool.or_eq_true, Bool.and_eq_true, decide_eq_true_eq] at h
  omega

theorem acceptsRelease_le {r : LinkRecord} {n : Nat} {p : Option Station} (h : r.acceptsRelease n p = true) : r.stamp ≤ n := by
  simp only [LinkRecord.acceptsRelease, Bool.or_eq_true, Bool.and_eq_true, decide_eq_true_eq] at h
  omega

/-- The record that an accepted message leaves: its stamp is the message's, no less than the record's. -/
theorem stands_acceptedRecord (l : LinkNo) {n : Nat} (hn : (s.tk.link.get l).stamp ≤ n) (htop : n ≤ Config.stampTop)
    (f : LinkRecord → LinkRecord) (hf : ∀ r, (f r).stamp = n) : s.Stands E ((s.loseHold l).modifyLink l f) :=
  (stands_loseHold s l).trans (stands_modifyLink _ l f fun _ => by rw [hf, loseHold_stamp]; exact ⟨hn, htop⟩)

theorem stands_acceptTouch (l : LinkNo) {n : Nat} (p : Option Station) (held : Bool) (x : Level)
    (h : (s.tk.link.get l).acceptsTouch n p = true) (htop : n ≤ Config.stampTop) : s.Stands E (s.acceptTouch l n p held x) := by
  have k := fun holder b => stands_acceptedRecord (E := E) s l (acceptsTouch_le h) htop
    (fun r => { r with stamp := n, lastToucher := p, level := x, holder := holder, held := b }) fun _ => rfl
  exact .ite (.ite ((k _ _).trans (stands_takeover ..)) ((k _ _).trans (stands_takeover ..)))
    (.ite ((k _ _).trans (stands_takeover ..)) (k _ _))

theorem stands_acceptRelease (l : LinkNo) {n : Nat} (p : Option Station) (x : Level)
    (h : (s.tk.link.get l).acceptsRelease n p = true) (htop : n ≤ Config.stampTop) : s.Stands E (s.acceptRelease l n p x) := by
  have k := stands_acceptedRecord (E := E) s l (acceptsRelease_le h) htop
    (fun r => { r with stamp := n, lastToucher := p, level := x, holder := none, held := false }) fun _ => rfl
  exact .ite (k.trans (stands_takeover ..)) k

theorem stands_countForeign (l : LinkNo) : s.Stands E (s.countForeign l) := .ite (.refl s) (stands_countIgnored s)

theorem stands_releaseHeldBy (p : Station) : s.Stands E (s.releaseHeldBy p) :=
  .forEach _ (fun l t => .ite ((stands_modifyLink t l _ (.of_stamp rfl)).trans (stands_takeover ..)) (.refl t)) s

theorem stands_answerLinks : s.Stands E s.answerLinks :=
  .forEach _ (fun _ t => .ite (stands_queueLink t ..) (.refl t)) s

theorem stands_announceLinks : s.Stands E s.announceLinks :=
  .forEach _ (fun _ t => .ite (stands_queueLink t ..) (.refl t)) s

/-! ## Fades and steps (chapter 4) -/

theorem stands_modifyFe (c : Channel) (f : FadeChannel → FadeChannel) : s.Stands E (s.modifyFe c f) :=
  stands_fe s _

theorem stands_startFade (c : Channel) (cue : Cue) (target : Level) (fade : Nat) (curve : Curve) (priority : Bool) :
    s.Stands E (s.startFade c cue target fade curve priority) := (stands_modifyFe s ..).trans (stands_notice ..)

theorem stands_startStep (p : PendingStep) : s.Stands E (s.startStep p) := by
  refine State.Stands.trans ?_ (stands_modifyFe ..)
  split
  · exact .refl s
  · exact stands_startFade s ..

theorem stands_takeStep (p : PendingStep) : s.Stands E (s.takeStep p) :=
  .ite ((stands_fe s _).trans (stands_startStep ..)) (stands_fe s _)

theorem stands_handSteps (n : Cue) : s.Stands E (s.handSteps n) :=
  .foldl _ (fun t _ => .ite (.refl t) (stands_takeStep t _)) _ s

theorem stands_advanceFades : s.Stands E s.advanceFades := (stands_fe s _).trans (.foldl _ stands_startStep _ _)

theorem stands_gotoRequest (cue : Cue) (fade : Nat) : s.Stands E (s.gotoRequest cue fade) :=
  (stands_fe s _).trans (.forEach _ (fun _ t => .ite (.refl t) ((stands_startFade t ..).trans (stands_modifyFe ..))) _)

/-! ## GO, GOTO and the sequencer (chapter 3) -/

theorem stands_takeGo (n : Cue) (cause : Cause) (isLocal : Bool) : s.Stands E (s.takeGo n cause isLocal) := by
  have h := fun q : Sequencer => (stands_seq (E := E) s q).trans (stands_handSteps _ n)
  exact .ite ((h _).trans (stands_enqueue ..)) (h _)

theorem stands_expireFollow : s.Stands E s.expireFollow := by
  have h : s.Stands E { s with seq.follow := none } := stands_seq s _
  unfold State.expireFollow
  dsimp only
  split
  · exact h
  · exact .ite (h.trans (stands_takeGo ..)) (h.trans (stands_refuseGo _))

theorem stands_followChain (fuel : Nat) : s.Stands E (s.followChain fuel) := by
  induction fuel generalizing s with
  | zero => exact .refl s
  | succ k ih => exact .ite ((stands_expireFollow s).trans (ih _)) (.refl s)

theorem stands_runGo (n : Cue) (cause : Cause) (isLocal : Bool) : s.Stands E (s.runGo n cause isLocal) :=
  (stands_takeGo s ..).trans (stands_followChain ..)

theorem stands_takeGoto (n : Cue) (fade : Nat) : s.Stands E (s.takeGoto n fade) :=
  (stands_seq s _).trans (stands_gotoRequest ..)

theorem stands_goKeyRequest : s.Stands E s.goKeyRequest := by
  have h : s.Stands E { s with seq.keyStamp := some s.seq.frameCount } := stands_seq s _
  refine .ite (.refl s) (.ite ((stands_seq s _).trans (stands_enqueue ..)) ?_)
  dsimp only
  split
  · exact h.trans (stands_refuseGo _)
  · exact .ite (h.trans (stands_runGo ..)) (h.trans (stands_refuseGo _))

theorem stands_backKeyRequest : s.Stands E s.backKeyRequest := by
  unfold State.backKeyRequest
  split
  · exact stands_refuseGo s
  · exact .ite ((stands_takeGoto s ..).trans (stands_enqueue ..)) (stands_refuseGo s)

theorem stands_stopKeyRequest : s.Stands E s.stopKeyRequest :=
  .ite (.refl s) ((stands_seq s _).trans (stands_enqueue ..))

theorem stands_rejoin : s.Stands E s.rejoin :=
  State.Stands.trans (.ite (.refl s) (stands_takeGoto s ..)) (stands_seq _ _)

/-! ## Groups (chapter 7) -/

/-- What SG holds of its masters is no aspect. -/
theorem stands_modifyMaster (m : MasterNo) (f : MasterRecord → MasterRecord) : s.Stands E (s.modifyMaster m f) :=
  stands_sg s _ fun _ => rfl

theorem stands_slotLevel (k : Fin 4) (first : Bool) : s.Stands E (s.slotLevel k first) :=
  .forEach _ (fun _ t => .ite
    (.ite ((stands_modifyMaster t ..).trans (stands_queueLevel ..)) (stands_modifyMaster t ..)) (.refl t)) s

/-! ## Panel Input (chapter 5) -/

theorem stands_modifyTouch (c : Channel) (f : TouchState → TouchState) : s.Stands E (s.modifyTouch c f) :=
  stands_panel s _ rfl rfl

theorem stands_modifySlot (k : FaderSlot) (f : SlotState → SlotState) : s.Stands E (s.modifySlot k f) :=
  stands_panel s _ rfl rfl

theorem stands_beginTouch (c : Channel) : s.Stands E (s.beginTouch c) :=
  (stands_modifyTouch s ..).trans (stands_touchBegin ..)

theorem stands_endTouch (c : Channel) : s.Stands E (State.endTouch c s) :=
  .ite ((stands_modifyTouch s ..).trans (stands_touchEnd ..)) (.refl s)

theorem stands_beginAccepting : s.Stands E s.beginAccepting := stands_panel s _ rfl rfl

theorem stands_lockPanel : s.Stands E s.lockPanel := by
  have h : s.Stands E { s with pi.locked := true, pi.matchPos := 0, pi.unlockTimer := .stopped } :=
    stands_panel s _ rfl rfl
  exact .ite (h.trans (.forEach _ (fun c t => stands_endTouch t c) _)) h

theorem stands_unlockPanel : s.Stands E s.unlockPanel := by
  have h : s.Stands E { s with pi.locked := false, pi.matchPos := 0, pi.unlockTimer := .stopped } :=
    stands_panel s _ rfl rfl
  exact .ite (h.trans (stands_beginAccepting _)) h

theorem stands_handAction (c : Channel) : s.Stands E (State.handAction c s) := by
  have h : s.Stands E { s with
      gc.chan := s.gc.chan.modify c fun g =>
        (g.hand (s.effectiveAction c) s.config.recoveryTime).form s.config.duck } := stands_gc s _
  exact .ite (.refl s) (h.trans (stands_faults _ _ (fun _ h => h) (.refl _) rfl))

theorem stands_countReading (k : FaderSlot) (rail : Bool) : s.Stands E (s.countReading k rail) := by
  have h := stands_modifySlot (E := E) s k fun x => x.count rail s.config.faultCount
  unfold State.countReading
  dsimp only
  split
  · exact h
  · exact .ite (h.trans (stands_endTouch ..)) (.ite ((h.trans (stands_modifyTouch ..)).trans (stands_handAction ..)) h)

theorem stands_motionTouch (c : Channel) (catchUp : Bool) : s.Stands E (s.motionTouch c catchUp) := by
  have h : s.Stands E (if !(s.pi.touch.get c).touched && !catchUp then s.beginTouch c else s) :=
    .ite (stands_beginTouch s c) (.refl s)
  exact .ite (h.trans (.ite (stands_modifyTouch ..) (.refl _))) (.refl s)

theorem stands_handReading (k : FaderSlot) (first changed catchUp : Bool) :
    s.Stands E (s.handReading k first changed catchUp) := by
  unfold State.handReading
  split
  · exact .ite (stands_slotLevel s ..) (.refl s)
  · exact State.Stands.trans (.ite (stands_faderChange s _) (.refl s)) (stands_motionTouch ..)
  · exact .refl s

theorem stands_readFader (k : FaderSlot) (raw : Nat) : s.Stands E (s.readFader k raw) :=
  .ite (((stands_countReading s ..).trans (stands_modifySlot ..)).trans (stands_handReading ..)) (stands_countReading s ..)

theorem stands_readReference (raw : Nat) : s.Stands E (s.readReference raw) :=
  .ite (stands_panel s _ rfl rfl) (stands_panel s _ rfl rfl)

theorem stands_scanOn (n : Nat) : s.Stands E (s.scanOn n) := stands_panel s _ rfl rfl

theorem stands_matchAt (pos : Nat) : s.Stands E (s.matchAt pos) :=
  .ite (stands_unlockPanel s) (stands_panel s _ rfl rfl)

theorem stands_pressKey (key : Fin 35) (body : State → State) (hb : ∀ t : State, t.Stands E (body t)) :
    s.Stands E (s.pressKey key body) := by
  have h : s.Stands E { s with pi.keyDown := s.pi.keyDown.set key true } := stands_panel s _ rfl rfl
  have hmatch : ∀ t : State, t.Stands E (t.matchKey key) := fun t =>
    .ite (stands_matchAt t _) (.ite (stands_matchAt t _) (stands_panel t _ rfl rfl))
  exact .ite h (.ite (h.trans (hmatch _)) (h.trans (hb _)))

theorem stands_ownAssertion (hE : .asserters ∈ E) (g : GroupNo) (b : Bool) : s.Stands E (s.ownAssertion g b) :=
  ((stands_sg s _ fun h => absurd hE h).trans (stands_enqueue ..)).trans (stands_txQueue ..)

theorem stands_toggleAssertion (hown : .assertions ∈ E) (hset : .asserters ∈ E) (k : Fin 8) :
    s.Stands E (s.toggleAssertion k) := by
  unfold State.toggleAssertion
  split
  · exact .refl s
  next g _ =>
    have h : s.Stands E { s with pi.ownAssert := s.pi.ownAssert.set g (!s.pi.ownAssert.get g) } :=
      stands_pi s _ (fun _ => rfl) fun h => absurd hown h
    exact h.trans (stands_ownAssertion _ hset ..)

/-! ## The store and the configuration transfer (chapters 2 and 8) -/

theorem stands_loadStep (hE : .store ∈ E) (st : CueStep) : s.Stands E (s.loadStep st) :=
  .ite (stands_cs s _ fun h => absurd hE h) (stands_refuseLoad s _)

theorem stands_loadHeader (hE : .store ∈ E) (h : Header) : s.Stands E (s.loadHeader h) :=
  .ite (stands_cs s _ fun h => absurd hE h) (stands_refuseLoad s _)

theorem stands_checkKey (cue : Cue) (channel : Fin 32) (body : Channel → State) (hb : ∀ c, s.Stands E (body c)) :
    s.Stands E (s.checkKey cue channel body) := by
  refine .ite (stands_refuseLoad s _) ?_
  split
  · exact stands_refuseLoad s _
  · exact hb _

theorem stands_checkCue (cue : Cue) (body : State) (hb : s.Stands E body) : s.Stands E (s.checkCue cue body) :=
  .ite (stands_refuseLoad s _) hb

theorem stands_takeItem (code index : Nat) (value : BitVec 16) : s.Stands E (s.takeItem code index value) := by
  unfold State.takeItem
  split
  · exact stands_refuseLoad s _
  · split
    · exact (stands_refuseLoad s .badItem).trans (stands_sl _ _ rfl rfl rfl)
    · exact stands_sl s _ rfl rfl rfl

theorem stands_acceptConfig (hE : .config ∈ E) (k : Configuration) : s.Stands E (s.acceptConfig k) :=
  State.Stands.trans ⟨fun a ha => by
    cases a with
    | config => exact absurd hE ha
    | straps => exact ⟨rfl, rfl⟩
    | flags => exact fun _ h => h
    | stamps => exact fun _ => .of_stamp rfl
    | counters => exact .refl _
    | port => exact .refl _
    | store | panelMutes | assertions | asserters | phase => rfl⟩ (stands_settle _)

theorem stands_closeAssembly (hE : .config ∈ E) : s.Stands E s.closeAssembly := by
  unfold State.closeAssembly
  split
  · exact .refl s
  · exact .ite ((stands_setFlag s _).trans (stands_sl _ _ rfl rfl rfl)) (stands_acceptConfig s hE _)

theorem stands_endJoining : s.Stands E s.endJoining := by
  have h : s.Stands E { s with sl.state := .running, sl.windowTimer := .stopped, sl.limitTimer := .stopped } :=
    stands_sl s _ rfl rfl rfl
  have hr := h.trans (stands_rejoin _)
  exact State.Stands.trans (.ite hr (hr.trans (stands_beginAccepting _))) (stands_queuePresence _)

/-! ## The Show Link and the status record (chapter 8) -/

theorem stands_countDrops (n : Nat) : s.Stands E (State.countDrops n s) := by
  induction n generalizing s with
  | zero => exact .refl s
  | succ n ih => exact (stands_countDrop s).trans (ih _)

theorem stands_raiseTxErrors : s.Stands E s.raiseTxErrors := by
  have h : s.Stands E { s with sl.txErrors := Config.busOffAt, sl.recessive := 0, sl.queue := [] } :=
    stands_sl s _ rfl rfl rfl
  exact .ite (h.trans (stands_countDrops ..)) (stands_sl s _ rfl rfl rfl)

theorem stands_endLinkOff : s.Stands E s.endLinkOff := by
  have h : s.Stands E { s with sl.txErrors := 0, sl.rxErrors := 0, sl.recessive := 0 } :=
    stands_sl s _ rfl rfl rfl
  exact ((h.trans (stands_queuePresence _)).trans (stands_announceLinks _)).trans (stands_queueLevels _)

theorem stands_takePresence (hE : .asserters ∈ E) (p : Station) (joining hold : Bool) (cue : Cue) (mask : BitVec 16) :
    s.Stands E (s.takePresence p joining hold cue mask) := by
  have hrecord : s.Stands E (s.recordPresence p joining hold cue) := stands_sl s _ rfl rfl rfl
  have h : s.Stands E ((s.recordPresence p joining hold cue).replaceMask p mask) :=
    hrecord.trans (stands_sg _ _ fun h => absurd hE h)
  exact .ite ((((h.trans (stands_releaseHeldBy ..)).trans (stands_answerLinks _)).trans (stands_queueLevels _)).trans
    (stands_queuePresence _)) (.ite (h.trans (.ite (stands_seq _ _) (.refl _))) h)

theorem stands_losePeer (p : Station) : s.Stands E (s.losePeer p) := by
  unfold State.losePeer
  dsimp only
  refine .trans ?_ (stands_releaseHeldBy ..)
  split
  · exact stands_sl s _ rfl rfl rfl
  · exact stands_sl s _ rfl rfl rfl

theorem stands_answerStatus (hE : .flags ∈ E) : s.Stands E s.answerStatus :=
  State.Stands.trans (.forEach _ (fun _ t => stands_enqueue t _) s) (stands_fi _ _ (fun h => absurd hE h) (.refl _) fun _ => rfl)

/-! ## The gain port (chapter 9) -/

theorem stands_port (hE : .port ∈ E) (gp : GainPort) : s.Stands E { s with gp := gp } :=
  stands_gp s gp fun h => absurd hE h

theorem stands_readReport (hE : .port ∈ E) (gin : BitVec 32) : s.Stands E (s.readReport gin) := by
  unfold State.readReport
  split
  · exact .refl s
  · exact stands_port s hE _

theorem stands_endTransfer (hE : .port ∈ E) (t : Transfer) : s.Stands E (s.endTransfer t) := by
  cases t with
  | poll => exact stands_port s hE _
  | level => exact .ite (stands_port s hE _) (stands_port s hE _)

end

end Sys2Proof.Machine

/-! SUPPORT. What stands through each command: every aspect but those that the manual names for it; it settles O60. -/

namespace Sys2Proof.Machine

def everyAspect : List Aspect :=
  [.store, .config, .straps, .flags, .stamps, .counters, .panelMutes, .assertions, .asserters, .port, .phase]

theorem mem_everyAspect (a : Aspect) : a ∈ everyAspect := by cases a <;> decide

/-- The aspects that a command may change (R32, R38, R95, R96, R131, R141, R156, R161, R176 to R178). -/
def changes : Instr → List Aspect
  | .powerOn .. | .resetLine .. => everyAspect
  | .restart .. => [.flags, .stamps, .counters, .panelMutes, .assertions, .asserters, .port, .phase]
  | .stepLoad .. | .stepDelete .. | .headerLoad .. | .headerDelete .. | .bankSet .. | .cueErase .. | .tableClear .. => [.store]
  | .configEnd .. => [.config]
  | .statusRequest .. => [.flags]
  | .muteKeyPress .. => [.panelMutes]
  | .groupKeyPress .. => [.assertions, .asserters]
  | .muteGroup .. | .presence .. => [.asserters]
  | .levelTransfer | .transferComplete .. => [.port]
  | .indicatorTimerExpiry => [.phase]
  | _ => []

/-! ## The ends of an event -/

section
variable {E : List Aspect} {s t : State} {work : State → State} {enabled : Bool}

theorem stands_take (h : s.take work = .next t) (hw : s.Stands E (work s)) : s.Stands E t := by
  obtain rfl : (work s).commit s = t := Host.Outcome.next.inj h
  exact hw.trans (stands_commit _ s)

theorem stands_takeWhen (h : s.takeWhen enabled work = .next t) (hw : s.Stands E (work s)) : s.Stands E t := by
  cases enabled with
  | true => exact stands_take h hw
  | false =>
    obtain rfl : s = t := Host.Outcome.next.inj h
    exact .refl s

end

/-- RESTART keeps the store, the configuration in force and the straps' values (R38, R141, R159). -/
theorem stands_warmReset (s : State) :
    s.Stands [.flags, .stamps, .counters, .panelMutes, .assertions, .asserters, .port, .phase] (warmReset s) := ⟨fun a ha => by
  have hsl : (warmReset s).sl.config = s.sl.config ∧ (warmReset s).sl.station = s.sl.station ∧ (warmReset s).sl.rate = s.sl.rate := by
    simp only [warmReset, afterReset_presence, State.settle_sl]
    exact ⟨rfl, rfl, rfl⟩
  obtain ⟨hconfig, hstation, hrate⟩ := hsl
  cases a with
  | store => exact afterReset_cs ..
  | config => exact hconfig
  | straps => exact ⟨hstation, hrate⟩
  | flags | stamps | counters | panelMutes | assertions | asserters | port | phase => simp at ha⟩

/-- What stands through any command. -/
theorem exec_stands (i : Instr) (s t : State) (h : exec i s = .next t) : s.Stands (changes i) t := by
  cases i with
  | powerOn | resetLine => exact ⟨fun a ha => absurd (mem_everyAspect a) ha⟩
  | restart p target =>
    change execRestart p target s = .next t at h
    unfold execRestart at h
    split at h
    · cases h; exact stands_warmReset s
    · exact stands_take h (stands_receiveAddressed s _ _ _ .refl)
  | go p n cause =>
    change execGo p n cause s = .next t at h
    refine stands_take h (stands_receive s _ _ fun u => ?_)
    exact .ite (stands_countIgnored u) (.ite (stands_seq u _) (.ite (stands_countIgnored u) (stands_runGo u ..)))
  | goto p n fade reason =>
    change execGoto p n fade reason s = .next t at h
    refine stands_take h (stands_receive s _ _ fun u => ?_)
    exact .ite (stands_countIgnored u) (.ite (stands_seq u _) (.ite (stands_countIgnored u) (stands_takeGoto u ..)))
  | hold p =>
    change execHold p s = .next t at h
    exact stands_take h (stands_receive s _ _ fun u => .ite (stands_seq u _) (stands_seq u _))
  | resume p =>
    change execResume p s = .next t at h
    exact stands_take h (stands_receive s _ _ fun u => .ite (stands_seq u _) (stands_seq u _))
  | linkTouch p l stamp toucher held level =>
    change execLinkTouch p l stamp toucher held level s = .next t at h
    refine stands_take h (stands_receive s _ _ fun u => .ite (stands_countIgnored u) ((stands_countForeign u l).trans ?_))
    exact .guarded fun ha => stands_acceptTouch _ _ _ _ _ ha (Nat.le_of_lt_succ stamp.isLt)
  | linkState p l stamp toucher held level =>
    change execLinkState p l stamp toucher held level s = .next t at h
    refine stands_take h (stands_receive s _ _ fun u => (stands_countForeign u l).trans ?_)
    exact .guarded fun ha => stands_acceptTouch _ _ _ _ _ ha (Nat.le_of_lt_succ stamp.isLt)
  | linkRelease p l stamp toucher held level =>
    change execLinkRelease p l stamp toucher held level s = .next t at h
    refine stands_take h (stands_receive s _ _ fun u => .ite (stands_countIgnored u) ((stands_countForeign u l).trans ?_))
    exact .guarded fun ha => stands_acceptRelease _ _ _ _ ha (Nat.le_of_lt_succ stamp.isLt)
  | muteGroup p g asserted =>
    change execMuteGroup p g asserted s = .next t at h
    exact stands_take h
      (stands_receive s _ _ fun u => .ite (stands_countIgnored u) (stands_sg u _ fun h => absurd (.head _) h))
  | groupLevel p m level =>
    change execGroupLevel p m level s = .next t at h
    exact stands_take h (stands_receive s _ _ fun u => .ite (stands_modifyMaster u ..) (stands_countIgnored u))
  | presence p joining held cue mask summary =>
    change execPresence p joining held cue mask summary s = .next t at h
    exact stands_take h
      (stands_receive s _ _ fun u => .ite (stands_countIgnored u) (stands_takePresence u (.head _) ..))
  | statusRequest p target =>
    change execStatusRequest p target s = .next t at h
    exact stands_take h
      (stands_receiveAddressed s _ _ _ fun u => .ite (.refl u) (stands_answerStatus u (.head _)))
  | statusReply p =>
    change execStatusReply p s = .next t at h
    exact stands_take h (stands_receive s _ _ .refl)
  | panelLock p target lock =>
    change execPanelLock p target lock s = .next t at h
    refine stands_take h (stands_receiveAddressed s _ _ _ fun u => ?_)
    have hu : ∀ E, u.Stands E { u with pi.lockTaken := true } := fun _ => stands_panel u _ rfl rfl
    exact (hu _).trans (.ite (stands_lockPanel _) (.ite (stands_unlockPanel _) (.refl _)))
  | configBegin p target =>
    change execConfigBegin p target s = .next t at h
    exact stands_take h (stands_takeConfig s _ _ _ fun u => stands_sl u _ rfl rfl rfl)
  | configItem p target code index value =>
    change execConfigItem p target code index value s = .next t at h
    exact stands_take h (stands_takeConfig s _ _ _ fun u => stands_takeItem u ..)
  | configEnd p target =>
    change execConfigEnd p target s = .next t at h
    exact stands_take h
      (stands_takeConfig s _ _ _ fun u => (stands_closeAssembly u (.head _)).trans (stands_endJoining _))
  | stepLoad p target cue channel level fade delay curve mute =>
    change execStepLoad p target cue channel level fade delay curve mute s = .next t at h
    refine stands_take h (stands_receiveAddressed s _ _ _ fun u => stands_checkKey u _ _ _ fun c => ?_)
    exact stands_loadStep u (.head _) _
  | stepDelete p target cue channel =>
    change execStepDelete p target cue channel s = .next t at h
    exact stands_take h
      (stands_receiveAddressed s _ _ _ fun u => stands_checkKey u _ _ _ fun c => stands_cs u _ fun h => absurd (.head _) h)
  | headerLoad p target cue present follow =>
    change execHeaderLoad p target cue present follow s = .next t at h
    exact stands_take h
      (stands_receiveAddressed s _ _ _ fun u => stands_checkCue u _ _ (stands_loadHeader u (.head _) _))
  | headerDelete p target cue =>
    change execHeaderDelete p target cue s = .next t at h
    exact stands_take h
      (stands_receiveAddressed s _ _ _ fun u => stands_checkCue u _ _ (stands_cs u _ fun h => absurd (.head _) h))
  | bankSet p target bank remoteGo localGo kind =>
    change execBankSet p target bank remoteGo localGo kind s = .next t at h
    refine stands_take h (stands_receiveAddressed s _ _ _ fun u => ?_)
    split
    · exact stands_refuseLoad u _
    · exact stands_cs u _ fun h => absurd (.head _) h
  | cueErase p target cue =>
    change execCueErase p target cue s = .next t at h
    exact stands_take h
      (stands_receiveAddressed s _ _ _ fun u => stands_checkCue u _ _ (stands_cs u _ fun h => absurd (.head _) h))
  | tableClear p target =>
    change execTableClear p target s = .next t at h
    exact stands_take h (stands_receiveAddressed s _ _ _ fun u => stands_cs u _ fun h => absurd (.head _) h)
  | ignoredFrame frame =>
    change execIgnoredFrame frame s = .next t at h
    refine stands_take h ?_
    cases frame with
    | senderZero | unknownKind | tooFewBytes => exact (stands_clash s _).trans (stands_countIgnored _)
    | extended | remote => exact stands_countReceived s
  | receiveError =>
    change execReceiveError s = .next t at h
    exact stands_take h (stands_sl s _ rfl rfl rfl)
  | recessiveRun =>
    change execRecessiveRun s = .next t at h
    exact stands_takeWhen h (.ite (stands_endLinkOff s) (stands_sl s _ rfl rfl rfl))
  | linkOffEnd =>
    change execLinkOffEnd s = .next t at h
    exact stands_takeWhen h (stands_endLinkOff s)
  | frameOffer =>
    change execFrameOffer s = .next t at h
    exact stands_takeWhen h (stands_txQueue s _)
  | lostArbitration =>
    change execLostArbitration s = .next t at h
    exact stands_takeWhen h (stands_txQueue s _)
  | txError kind =>
    change execTxError kind s = .next t at h
    refine stands_takeWhen h ?_
    have hq : s.Stands [] (if (s.sl.queue.filterMap TxEntry.fail).length < s.sl.queue.length then
        State.countDrop { s with sl.queue := s.sl.queue.filterMap TxEntry.fail }
        else { s with sl.queue := s.sl.queue.filterMap TxEntry.fail }) :=
      .ite ((stands_txQueue s _).trans (stands_countDrop _)) (stands_txQueue s _)
    exact .ite (hq.trans (stands_raiseTxErrors _)) hq
  | txSuccess =>
    change execTxSuccess s = .next t at h
    exact stands_takeWhen h (stands_sl s _ rfl rfl rfl)
  | frameCount =>
    change execFrameCount s = .next t at h
    refine stands_take h ?_
    have hs : ∀ q : Sequencer, s.Stands [] { s with seq := q, fe.frameTimer := .running Config.frameMs } :=
      fun q =>
      (stands_seq s q).trans (stands_fe _ _)
    exact .ite (hs _) ((hs _).trans (stands_followChain ..))
  | followExpiry =>
    change execFollowExpiry s = .next t at h
    exact stands_takeWhen h (stands_followChain s _)
  | advance =>
    change execAdvance s = .next t at h
    exact stands_take h (.ite (.refl s) (stands_advanceFades s))
  | fadeComplete c =>
    change execFadeComplete c s = .next t at h
    exact stands_takeWhen h (stands_modifyFe s ..)
  | pendingStepStart c =>
    change execPendingStepStart c s = .next t at h
    exact stands_takeWhen h ((stands_fe s _).trans (.foldl _ stands_startStep _ _))
  | glideTimer =>
    change execGlideTimer s = .next t at h
    exact stands_take h (stands_takeover s ..)
  | returnGlideEnd c =>
    change execReturnGlideEnd c s = .next t at h
    exact stands_takeWhen h (stands_modifyTk s ..)
  | recoveryTimer =>
    change execRecoveryTimer s = .next t at h
    exact stands_take h (stands_gc s _)
  | recoveryGlideEnd c =>
    change execRecoveryGlideEnd c s = .next t at h
    exact stands_takeWhen h (stands_gc s _)
  | calibrationReading reading =>
    change execCalibrationReading reading s = .next t at h
    exact stands_takeWhen h ((stands_scanOn s _).trans (stands_readReference ..))
  | faderReading slot reading =>
    change execFaderReading slot reading s = .next t at h
    exact stands_takeWhen h ((stands_scanOn s _).trans (stands_readFader ..))
  | spareSlotReading slot =>
    change execSpareSlotReading slot s = .next t at h
    exact stands_takeWhen h (stands_scanOn s _)
  | touchLineActive c =>
    change execTouchLineActive c s = .next t at h
    exact stands_takeWhen h
      (.ite ((stands_modifyTouch s ..).trans (stands_beginTouch ..)) (stands_modifyTouch s ..))
  | touchLineInactive c =>
    change execTouchLineInactive c s = .next t at h
    exact stands_takeWhen h
      (.ite ((stands_modifyTouch s ..).trans (stands_endTouch ..)) (stands_modifyTouch s ..))
  | quietTimerExpiry c =>
    change execQuietTimerExpiry c s = .next t at h
    exact stands_takeWhen h ((stands_modifyTouch s ..).trans (stands_endTouch ..))
  | goKeyPress =>
    change execGoKeyPress s = .next t at h
    exact stands_takeWhen h (stands_pressKey s _ _ stands_goKeyRequest)
  | backKeyPress =>
    change execBackKeyPress s = .next t at h
    exact stands_takeWhen h (stands_pressKey s _ _ stands_backKeyRequest)
  | stopKeyPress =>
    change execStopKeyPress s = .next t at h
    exact stands_takeWhen h (stands_pressKey s _ _ stands_stopKeyRequest)
  | muteKeyPress c =>
    change execMuteKeyPress c s = .next t at h
    exact stands_takeWhen h
      (stands_pressKey s _ _ fun u => stands_pi u _ (fun h => absurd (.head _) h) fun _ => rfl)
  | groupKeyPress k =>
    change execGroupKeyPress k s = .next t at h
    exact stands_takeWhen h
      (stands_pressKey s _ _ fun u => stands_toggleAssertion u (.head _) (.tail _ (.head _)) k)
  | keyRelease key =>
    change execKeyRelease key s = .next t at h
    exact stands_take h (stands_panel s _ rfl rfl)
  | unlockTimerExpiry =>
    change execUnlockTimerExpiry s = .next t at h
    exact stands_takeWhen h (stands_panel s _ rfl rfl)
  | staleTimerExpiry m =>
    change execStaleTimerExpiry m s = .next t at h
    exact stands_takeWhen h (stands_modifyMaster s ..)
  | groupRefreshExpiry =>
    change execGroupRefreshExpiry s = .next t at h
    have hs : s.Stands [] { s with sg.refreshTimer := .running Config.groupRefreshMs } :=
      stands_sg s _ fun _ => rfl
    exact stands_take h (hs.trans (stands_queueLevels _))
  | gainRefreshExpiry =>
    change execGainRefreshExpiry s = .next t at h
    exact stands_take h (stands_gp s _ fun _ => ⟨rfl, rfl, rfl, rfl, _, rfl⟩)
  | presenceTimerExpiry =>
    change execPresenceTimerExpiry s = .next t at h
    have hs : s.Stands [] { s with sl.presenceTimer := .running Config.presenceMs } := stands_sl s _ rfl rfl rfl
    exact stands_take h (hs.trans (stands_queuePresence _))
  | aloneTimerExpiry =>
    change execAloneTimerExpiry s = .next t at h
    exact stands_takeWhen h (stands_sl s _ rfl rfl rfl)
  | clashTimerExpiry =>
    change execClashTimerExpiry s = .next t at h
    exact stands_takeWhen h (stands_sl s _ rfl rfl rfl)
  | silenceTimerExpiry p =>
    change execSilenceTimerExpiry p s = .next t at h
    exact stands_takeWhen h (stands_losePeer s p)
  | windowTimerExpiry =>
    change execWindowTimerExpiry s = .next t at h
    exact stands_takeWhen h (stands_endJoining s)
  | limitTimerExpiry =>
    change execLimitTimerExpiry s = .next t at h
    have hs : s.Stands [] { s.setFlag .configRejected with sl.assembly := none } :=
      (stands_setFlag s _).trans (stands_sl _ _ rfl rfl rfl)
    exact stands_takeWhen h (hs.trans (stands_endJoining _))
  | indicatorTimerExpiry =>
    change execIndicatorTimerExpiry s = .next t at h
    exact stands_take h (stands_fi s _ (fun _ _ h => h) (.refl _) fun h => absurd (.head _) h)
  | burstTimerExpiry =>
    change execBurstTimerExpiry s = .next t at h
    exact stands_takeWhen h (stands_faults s _ (fun _ h => h) (.refl _) rfl)
  | levelTransfer =>
    change execLevelTransfer s = .next t at h
    unfold execLevelTransfer at h
    split at h
    · exact stands_take h (stands_port s (.head _) _)
    · cases h; exact .refl s
  | transferComplete gin =>
    change execTransferComplete gin s = .next t at h
    unfold execTransferComplete at h
    split at h
    · cases h; exact .refl s
    · cases h; exact ((stands_readReport s (.head _) gin).trans (stands_commit _ s)).trans (stands_endTransfer _ (.head _) _)
  | malformedLink p l =>
    change execMalformedLink p l s = .next t at h
    exact stands_take h (stands_receive s _ _ stands_countIgnored)

/-- Settles O60: each aspect stands through every command that is not named for it, and the configuration through a CONFIG_END while
RUNNING. -/
theorem whatStands : Obligations.WhatStands := by
  intro i s t h
  have k : ∀ a, (changes i).contains a = false → a.Stands s t := fun a ha =>
    (exec_stands i s t h).aspect a (by simpa using ha)
  refine ⟨?store, ?config, ?straps, ?flags, ?rising, ?mutes, ?assertions, ?asserters, ?port, ?phase⟩
  case store =>
    have k := k .store
    cases i with
    | powerOn | resetLine | stepLoad | stepDelete | headerLoad | headerDelete | bankSet | cueErase | tableClear => trivial
    | _ => exact k rfl
  case config =>
    have k := k .config
    cases i with
    | powerOn | resetLine => trivial
    | configEnd p target =>
      intro hr
      change execConfigEnd p target s = .next t at h
      exact (stands_take (E := []) h (stands_takeConfig_running s hr p target _)).aspect .config List.not_mem_nil
    | _ => exact k rfl
  case straps =>
    have k := k .straps
    cases i with
    | powerOn | resetLine => trivial
    | _ => exact k rfl
  case flags =>
    have k := k .flags
    cases i with
    | powerOn | resetLine | restart | statusRequest => trivial
    | _ => exact fun f => k rfl f.bit
  case rising =>
    have hstamps := k .stamps
    have hcounters := k .counters
    cases i with
    | powerOn | resetLine | restart => trivial
    | _ =>
      have c : s.fi.counters.Rise t.fi.counters := hcounters rfl
      exact ⟨fun l hl => (hstamps rfl l hl).1, c.loadsRefused, c.goRefused, c.remoteIgnored, c.txDrops⟩
  case mutes =>
    have k := k .panelMutes
    cases i with
    | powerOn | resetLine | restart | muteKeyPress => trivial
    | _ => exact k rfl
  case assertions =>
    have k := k .assertions
    cases i with
    | powerOn | resetLine | restart | groupKeyPress => trivial
    | _ => exact k rfl
  case asserters =>
    have k := k .asserters
    cases i with
    | powerOn | resetLine | restart | muteGroup | presence | groupKeyPress => trivial
    | _ => exact k rfl
  case port =>
    have k := k .port
    cases i with
    | powerOn | resetLine | restart | levelTransfer | transferComplete => trivial
    | _ =>
      have p : s.gp.Grows t.gp := k rfl
      exact ⟨p.chan, p.inFlight, p.previous, p.seq, p.queue⟩
  case phase =>
    have k := k .phase
    cases i with
    | powerOn | resetLine | restart | indicatorTimerExpiry => trivial
    | _ => exact k rfl

end Sys2Proof.Machine

/-! SUPPORT. The panel, the peer table and the JOINING window between events: what their invariants read of the state, which operations
leave that as it is, and how the others keep the invariants. -/

namespace Sys2Proof.Machine

/-! ## What the invariants read -/

/-- What the invariants of the panel, the peer table and the JOINING window read of the state. -/
structure Watched where
  scanSlot : Nat
  rangeChanged : Bool
  calOffset : Int
  slot : Table 28 SlotState
  touch : Table 24 TouchState
  locked : Bool
  matchPos : Nat
  unlockTimer : Timer
  station : Station
  state : StationState
  peer : Table 32 Peer
  aloneTimer : Timer
  aloneCond : Bool
  clashTimer : Timer
  clashCond : Bool
  windowTimer : Timer
  limitTimer : Timer
  config : Configuration
  assembly : Option Assembly
  held : Bool
  currentCue : Cue
  follow : Option Nat
  adopted : Cue × Bool × Option Station × Bool × Bool
  waiting : List PendingStep
  fades : Table 24 FadeChannel

def State.watched (s : State) : Watched where
  scanSlot := s.pi.scanSlot
  rangeChanged := s.pi.rangeChanged
  calOffset := s.pi.calOffset
  slot := s.pi.slot
  touch := s.pi.touch
  locked := s.pi.locked
  matchPos := s.pi.matchPos
  unlockTimer := s.pi.unlockTimer
  station := s.sl.station
  state := s.sl.state
  peer := s.sl.peer
  aloneTimer := s.sl.aloneTimer
  aloneCond := s.sl.aloneCond
  clashTimer := s.sl.clashTimer
  clashCond := s.sl.clashCond
  windowTimer := s.sl.windowTimer
  limitTimer := s.sl.limitTimer
  config := s.sl.config
  assembly := s.sl.assembly
  held := s.seq.held
  currentCue := s.seq.currentCue
  follow := s.seq.follow
  adopted := (s.seq.adoptedCue, s.seq.adoptedHeld, s.seq.adoptionSource, s.seq.cueSettled, s.seq.heldSettled)
  waiting := s.fe.waiting
  fades := s.fe.chan

/-! ## The invariants, part by part -/

structure ConfigsLegal (k : Configuration) (assembly : Option Assembly) : Prop where
  inForce : k.Legal
  order : lawOrdered k.law = true
  inAssembly : ∀ a ∈ assembly, a.config.Legal

/-- The scan (R82) and the calibration offset (R83). -/
structure ScanLegal (k : Configuration) (slot : Nat) (changed : Bool) (offset : Int) : Prop where
  bound : slot ≤ 31
  range : changed = false → k.scanFirst ≤ slot ∧ slot ≤ k.scanStop
  deviation : -64 ≤ offset ∧ offset ≤ 64

/-- The touches (R87 to R89, R91) and the run counts (R86). -/
structure TouchesLegal (accepts : Bool) (touch : Table 24 TouchState) (slot : Table 28 SlotState) : Prop where
  accepted : ∀ c, (touch.get c).touched = true → accepts = true
  faultless : ∀ c, (touch.get c).touched = true → (slot.get (channelSlot c)).faulted = false
  quiet : ∀ c, (touch.get c).quiet ≠ .stopped → (touch.get c).touched = true
  run : ∀ k, (slot.get k).run ≤ 14

/-- The unlock matcher (R98, R99). -/
structure MatcherLegal (length : Nat) (state : StationState) (locked : Bool) (pos : Nat) (timer : Timer) : Prop where
  onLocked : 0 < pos → locked = true ∧ state = .running
  timed : timer ≠ .stopped ↔ 0 < pos
  short : pos < length

/-- The number of PRESENT peers of a peer table (R150). -/
def presentPeers (station : Station) (peer : Table 32 Peer) : Nat :=
  countIndex 32 fun p => p != 0 && p != station && (peer.get p).state == .present

/-- The peer table and the alone condition (R150, R151). -/
structure PeerTableLegal (station : Station) (peer : Table 32 Peer) (aloneTimer : Timer) (aloneCond : Bool) : Prop where
  unused : ∀ p, p = 0 ∨ p = station → (peer.get p).state = .unknown
  silence : ∀ p, (peer.get p).state = .present ↔ (peer.get p).silence ≠ .stopped
  alone : presentPeers station peer = 0 ↔ aloneTimer ≠ .stopped ∨ aloneCond = true

/-- The timers of the JOINING window and the assembly (R154 to R156). -/
structure WindowTimersLegal (state : StationState) (window limit : Timer) (assembly : Option Assembly) : Prop where
  joining : state = .joining → (window = .stopped ↔ limit ≠ .stopped)
  running : state = .running → window = .stopped ∧ limit = .stopped
  limited : assembly.isSome = true → limit ≠ .stopped

/-- No cue, hold, follow delay, pending step or fade: the sequencer and FE before RUNNING (R57, R81). -/
structure Still (held : Bool) (cue : Cue) (follow : Option Nat) (waiting : List PendingStep) (fades : Table 24 FadeChannel) :
    Prop where
  noHold : held = false
  noCue : cue = 0
  noFollow : follow = none
  noWaiting : waiting = []
  noFades : ∀ c, (fades.get c).slot = none ∧ (fades.get c).cueLevel = off

/-- The invariants of the panel, the peer table and the window, with that of the configuration, which they rest on. -/
structure Watched.Steady (w : Watched) : Prop where
  configs : ConfigsLegal w.config w.assembly
  scan : ScanLegal w.config w.scanSlot w.rangeChanged w.calOffset
  touches : TouchesLegal (w.state == .running && !w.locked) w.touch w.slot
  matcher : MatcherLegal w.config.unlockLength w.state w.locked w.matchPos w.unlockTimer
  peers : PeerTableLegal w.station w.peer w.aloneTimer w.aloneCond
  clash : w.clashCond = true ↔ w.clashTimer ≠ .stopped
  window : WindowTimersLegal w.state w.windowTimer w.limitTimer w.assembly
  still : w.state = .joining → Still w.held w.currentCue w.follow w.waiting w.fades
  adopted : w.state = .running → w.adopted = (0, false, none, false, false)

theorem watched_steady_iff (s : State) :
    s.watched.Steady ↔ s.ConfigLegal ∧ s.PanelLegal ∧ s.PeersLegal ∧ s.WindowLegal := by
  constructor
  · rintro ⟨⟨hk, ho, ha⟩, ⟨hscan, hrange, hoffset⟩, ⟨haccepts, hfault, hquiet, hrun⟩, ⟨hlocked, htimer, hlength⟩,
      ⟨hunused, hsilence, halone⟩, hclash, ⟨hjoining, hrunning, hassembly⟩, hstill, hadopted⟩
    refine ⟨⟨hk, ho, ha⟩, ⟨hscan, hrange, haccepts, hfault, hquiet, hoffset, hrun, hlocked, htimer, hlength⟩,
      ⟨hunused, hsilence, halone, hclash⟩, ⟨hjoining, hrunning, hassembly, fun h => ?_, fun h => ?_, fun h => ?_⟩⟩
    · exact ⟨(hstill h).noHold, (hstill h).noCue, (hstill h).noFollow⟩
    · exact ⟨(hstill h).noWaiting, (hstill h).noFades⟩
    · simpa [State.watched] using hadopted h
  · rintro ⟨⟨hk, ho, ha⟩, ⟨hscan, hrange, haccepts, hfault, hquiet, hoffset, hrun, hlocked, htimer, hlength⟩,
      ⟨hunused, hsilence, halone, hclash⟩, ⟨hjoining, hrunning, hassembly, hstill, hfades, hadopted⟩⟩
    refine ⟨⟨hk, ho, ha⟩, ⟨hscan, hrange, hoffset⟩, ⟨haccepts, hfault, hquiet, hrun⟩, ⟨hlocked, htimer, hlength⟩,
      ⟨hunused, hsilence, halone⟩, hclash, ⟨hjoining, hrunning, hassembly⟩, fun h => ?_, fun h => ?_⟩
    · obtain ⟨hheld, hcue, hfollow⟩ := hstill h
      exact ⟨hheld, hcue, hfollow, (hfades h).1, (hfades h).2⟩
    · simpa [State.watched] using hadopted h

/-! ## The relation -/

/-- An operation that keeps the invariants. -/
def State.Steadies (s t : State) : Prop := s.watched.Steady → t.watched.Steady

namespace State.Steadies

variable {s t u : State}

theorem refl (s : State) : s.Steadies s := id

theorem trans (h : s.Steadies t) (k : t.Steadies u) : s.Steadies u := fun hs => k (h hs)

/-- An operation that leaves what the invariants read. -/
theorem of_eq (h : t.watched = s.watched) : s.Steadies t := fun hs => h ▸ hs

theorem ite {c : Prop} [Decidable c] (ht : c → s.Steadies t) (hu : ¬c → s.Steadies u) : s.Steadies (if c then t else u) := by
  split
  · next h => exact ht h
  · next h => exact hu h

/-- What the invariants say of the state that an operation finds may be used to show that it keeps them. -/
theorem assume (h : s.watched.Steady → s.Steadies t) : s.Steadies t := fun hs => h hs hs

end State.Steadies

theorem watched_commit (w s : State) : (w.commit s).watched = w.watched := by simp [State.watched]

section
variable {s t : State} {work : State → State} {enabled : Bool}

theorem steadies_take (h : s.take work = .next t) (hw : s.Steadies (work s)) : s.Steadies t := by
  obtain rfl : (work s).commit s = t := Host.Outcome.next.inj h
  exact hw.trans (.of_eq (watched_commit _ s))

theorem steadies_takeWhen (h : s.takeWhen enabled work = .next t) (hw : enabled = true → s.Steadies (work s)) :
    s.Steadies t := by
  cases enabled with
  | true => exact steadies_take h (hw rfl)
  | false =>
    obtain rfl : s = t := Host.Outcome.next.inj h
    exact .refl s

end

/-! ## Operations that leave what the invariants read -/

theorem watched_enqueue (s : State) (m : Msg) : (s.enqueue m).watched = s.watched := by simp [State.watched]

theorem watched_queueLevel (m : MasterNo) (s : State) : (s.queueLevel m).watched = s.watched := by
  unfold State.queueLevel
  split
  · exact watched_enqueue ..
  · rfl

theorem watched_queueLevels (s : State) : s.queueLevels.watched = s.watched :=
  forEach_field State.watched _ watched_queueLevel s

theorem watched_refuseLoad (s : State) (r : Reason) : (s.refuseLoad r).watched = s.watched := by simp [State.watched]

theorem watched_countDrops (n : Nat) (s : State) : (State.countDrops n s).watched = s.watched := by
  induction n generalizing s with
  | zero => rfl
  | succ n ih => exact ih _

theorem watched_raiseTxErrors (s : State) : s.raiseTxErrors.watched = s.watched := by
  unfold State.raiseTxErrors State.enterLinkOff
  split
  · exact watched_countDrops _ _
  · rfl

/-! ## TK and FE -/

/-- A RUNNING station may hold any cue, hold, follow delay, pending steps and fades. -/
theorem Watched.Steady.running {w : Watched} (h : w.Steady) (hr : w.state = .running) (held : Bool) (cue : Cue)
    (follow : Option Nat) (waiting : List PendingStep) (fades : Table 24 FadeChannel) :
    { w with held := held, currentCue := cue, follow := follow, waiting := waiting, fades := fades : Watched }.Steady :=
  { h with still := fun hj => absurd (hr.symm.trans hj) (by decide) }

section
variable {s t : State}

theorem watched_of_levels (h : s.LevelsOnly t) :
    t.watched = { s.watched with waiting := t.fe.waiting, fades := t.fe.chan } := by
  unfold State.watched
  rw [h.pi, h.seq, h.sl]

theorem watched_of_levels_fe (h : s.LevelsOnly t) (hfe : t.fe = s.fe) : t.watched = s.watched := by
  rw [watched_of_levels h, hfe]; rfl

theorem steadies_levels (h : s.LevelsOnly t) (hr : s.sl.state = .running) : s.Steadies t := fun hs => by
  rw [watched_of_levels h]
  exact hs.running hr ..

end

theorem queueLink_fe (l : LinkNo) (a : LinkAction) (s : State) : (s.queueLink l a).fe = s.fe := State.enqueue_fe s _

theorem loseHold_fe (s : State) (l : LinkNo) : (s.loseHold l).fe = s.fe := by
  unfold State.loseHold
  split <;> rfl

theorem holdBegin_fe (s : State) (l : LinkNo) : (s.holdBegin l).fe = s.fe := by simp only [State.holdBegin]

theorem levelChange_fe (s : State) (l : LinkNo) : (s.levelChange l).fe = s.fe := by simp only [State.levelChange]

theorem membersRelease_fe (s : State) (l : LinkNo) : (s.membersRelease l).fe = s.fe := by
  simp only [State.membersRelease]

theorem modifyLink_fe (s : State) (l : LinkNo) (f : LinkRecord → LinkRecord) : (s.modifyLink l f).fe = s.fe := rfl

theorem acceptTouch_fe (s : State) (l : LinkNo) (t : Nat) (p : Option Station) (held : Bool) (level : Level) :
    (s.acceptTouch l t p held level).fe = s.fe := by
  unfold State.acceptTouch
  dsimp only
  split
  · split
    · rw [holdBegin_fe, modifyLink_fe, loseHold_fe]
    · rw [levelChange_fe, modifyLink_fe, loseHold_fe]
  · split
    · rw [membersRelease_fe, modifyLink_fe, loseHold_fe]
    · rw [modifyLink_fe, loseHold_fe]

theorem acceptRelease_fe (s : State) (l : LinkNo) (t : Nat) (p : Option Station) (level : Level) :
    (s.acceptRelease l t p level).fe = s.fe := by
  unfold State.acceptRelease
  dsimp only
  split
  · rw [membersRelease_fe, modifyLink_fe, loseHold_fe]
  · rw [modifyLink_fe, loseHold_fe]

theorem releaseHeldBy_fe (s : State) (p : Station) : (s.releaseHeldBy p).fe = s.fe := by
  refine forEach_field State.fe _ (fun l t => ?_) s
  unfold State.releaseIfHeldBy
  split
  · rw [membersRelease_fe, modifyLink_fe]
  · rfl

theorem answerLinks_fe (s : State) : s.answerLinks.fe = s.fe := by
  refine forEach_field State.fe _ (fun l t => ?_) s
  split
  · exact queueLink_fe ..
  · rfl

theorem announceLinks_fe (s : State) : s.announceLinks.fe = s.fe := by
  refine forEach_field State.fe _ (fun l t => ?_) s
  split
  · exact queueLink_fe ..
  · rfl

theorem watched_acceptTouch (s : State) (l : LinkNo) (t : Nat) (p : Option Station) (held : Bool) (level : Level) :
    (s.acceptTouch l t p held level).watched = s.watched :=
  watched_of_levels_fe (s.levelsOnly_acceptTouch ..) (acceptTouch_fe ..)

theorem watched_acceptRelease (s : State) (l : LinkNo) (t : Nat) (p : Option Station) (level : Level) :
    (s.acceptRelease l t p level).watched = s.watched :=
  watched_of_levels_fe (s.levelsOnly_acceptRelease ..) (acceptRelease_fe ..)

theorem watched_releaseHeldBy (s : State) (p : Station) : (s.releaseHeldBy p).watched = s.watched :=
  watched_of_levels_fe (s.levelsOnly_releaseHeldBy p) (releaseHeldBy_fe s p)

theorem watched_answerLinks (s : State) : s.answerLinks.watched = s.watched :=
  watched_of_levels_fe s.levelsOnly_answerLinks (answerLinks_fe s)

theorem watched_announceLinks (s : State) : s.announceLinks.watched = s.watched :=
  watched_of_levels_fe s.levelsOnly_announceLinks (announceLinks_fe s)

theorem watched_countForeign (s : State) (l : LinkNo) : (s.countForeign l).watched = s.watched := by
  unfold State.countForeign
  split <;> rfl

/-- A fade that does not run is not moved by an advance (R73, R81). -/
theorem advance_idle {ch : FadeChannel} (h : ch.slot = none) : ch.advance = ch := by
  unfold FadeChannel.advance
  rw [h]

theorem steadies_advanceFades (s : State) : s.Steadies s.advanceFades := .assume fun hs => by
  cases hst : s.sl.state with
  | running => exact steadies_levels s.levelsOnly_advanceFades hst
  | joining =>
    have hstill := hs.still hst
    have hwaiting : s.fe.waiting = [] := hstill.noWaiting
    have hchan : s.fe.chan.mapAt (fun _ ch => ch.advance) = s.fe.chan := Table.ext fun c => by
      rw [Table.get_mapAt]; exact advance_idle (hstill.noFades c).1
    refine .of_eq (watched_of_levels_fe s.levelsOnly_advanceFades ?_)
    unfold State.advanceFades
    rw [hwaiting, hchan]
    change ({ s.fe with waiting := [] } : FadeEngine) = s.fe
    rw [← hwaiting]

/-! ## Peers (R144, R150, R151) -/

theorem presentPeers_eq_zero_iff {station : Station} {peer : Table 32 Peer}
    (hunused : ∀ p, p = 0 ∨ p = station → (peer.get p).state = .unknown) :
    presentPeers station peer = 0 ↔ ∀ p, (peer.get p).state ≠ .present := by
  unfold presentPeers countIndex
  rw [List.countP_eq_zero]
  constructor
  · intro h p hp
    have hused : ¬(p = 0 ∨ p = station) := fun e => by rw [hunused p e] at hp; cases hp
    rw [not_or] at hused
    exact h p (List.mem_finRange p) (by simp [hused, hp])
  · intro h p _ hp
    simp only [Bool.and_eq_true, beq_iff_eq] at hp
    exact h p hp.2

section
variable {station : Station} {peer : Table 32 Peer} {aloneTimer : Timer} {aloneCond : Bool}

theorem PeerTableLegal.alone_iff (h : PeerTableLegal station peer aloneTimer aloneCond) :
    (∀ p, (peer.get p).state ≠ .present) ↔ aloneTimer ≠ .stopped ∨ aloneCond = true :=
  (presentPeers_eq_zero_iff h.unused).symm.trans h.alone

/-- With a PRESENT peer the alone timer stands and the alone condition is absent (R150). -/
theorem PeerTableLegal.not_alone (h : PeerTableLegal station peer aloneTimer aloneCond) {p : Station}
    (hp : (peer.get p).state = .present) : aloneTimer = .stopped ∧ aloneCond = false := by
  have hnot := h.alone_iff.not.mp fun k => k p hp
  simpa using hnot

theorem PeerTableLegal.modify_unused (h : PeerTableLegal station peer aloneTimer aloneCond) {p : Station}
    (hp : ¬(p = 0 ∨ p = station)) (f : Peer → Peer) (q : Station) (hq : q = 0 ∨ q = station) :
    ((peer.modify p f).get q).state = .unknown := by
  rw [Table.get_modify, if_neg (by rintro rfl; exact hp hq)]
  exact h.unused q hq

/-- A peer's entry changes, and with it what the alone timer and condition must be (R150, R151). -/
theorem PeerTableLegal.modify (h : PeerTableLegal station peer aloneTimer aloneCond) {p : Station}
    (hp : ¬(p = 0 ∨ p = station)) {f : Peer → Peer}
    (hsilence : (f (peer.get p)).state = .present ↔ (f (peer.get p)).silence ≠ .stopped) {timer : Timer} {cond : Bool}
    (halone : presentPeers station (peer.modify p f) = 0 ↔ timer ≠ .stopped ∨ cond = true) :
    PeerTableLegal station (peer.modify p f) timer cond := by
  refine ⟨h.modify_unused hp f, fun q => ?_, halone⟩
  rw [Table.get_modify]
  split
  · next e => subst e; exact hsilence
  · exact h.silence q

end

theorem steadies_peers (s : State) (peer : Table 32 Peer) (timer : Timer) (cond : Bool)
    (h : PeerTableLegal s.sl.station s.sl.peer s.sl.aloneTimer s.sl.aloneCond →
      PeerTableLegal s.sl.station peer timer cond) :
    s.Steadies { s with sl.peer := peer, sl.aloneTimer := timer, sl.aloneCond := cond } :=
  fun hs => { hs with peers := h hs.peers }

/-- The entry of a peer that is heard. -/
def Peer.heard (e : Peer) : Peer := { e with state := .present, silence := .running Config.silenceMs }

/-- The entry of a peer that has fallen silent. -/
def Peer.lost (e : Peer) : Peer := { e with state := .absent, silence := .stopped }

theorem steadies_hearPeer (s : State) {p : Station} (hp : ¬(p = 0 ∨ p = s.sl.station)) : s.Steadies (s.hearPeer p) := by
  rw [State.hearPeer_eq]
  refine steadies_peers s (s.sl.peer.modify p Peer.heard) _ _ fun h => h.modify hp (by simp [Peer.heard]) ?_
  have hpresent : ¬∀ q, ((s.sl.peer.modify p Peer.heard).get q).state ≠ .present := fun k =>
    k p (by rw [Table.get_modify_self]; rfl)
  refine iff_of_false ((presentPeers_eq_zero_iff (h.modify_unused hp _)).not.mpr hpresent) ?_
  by_cases hw : (s.sl.peer.get p).state = .present
  · simpa [hw] using h.not_alone hw
  · simp [hw]

theorem steadies_countReceived (s : State) : s.Steadies s.countReceived := .of_eq rfl

theorem steadies_beginClash (s : State) : s.Steadies s.beginClash := fun h =>
  { h with clash := iff_of_true rfl (by simp [State.watched, State.beginClash]) }

theorem steadies_heard (s : State) {p : Station} (hp : p ≠ 0) : s.Steadies (s.heard p) :=
  (steadies_countReceived s).trans (.ite (fun _ => steadies_beginClash _) fun hs =>
    steadies_hearPeer _ (not_or.mpr ⟨hp, hs⟩))

theorem steadies_countIgnored (s : State) : s.Steadies s.countIgnored := .of_eq rfl

/-- The clash that a frame begins if it bears this station's own number. -/
theorem steadies_clash (s : State) (c : Prop) [Decidable c] :
    s.Steadies (if c then s.countReceived.beginClash else s.countReceived) :=
  .ite (fun _ => (steadies_countReceived s).trans (steadies_beginClash _)) fun _ => steadies_countReceived s

theorem steadies_receive (s : State) (p : Station) (body : State → State) (hb : ∀ t : State, t.Steadies (body t)) :
    s.Steadies (s.receive p body) :=
  .ite (fun _ => (steadies_clash s _).trans (steadies_countIgnored _)) fun hp => (steadies_heard s hp).trans (hb _)

theorem steadies_receiveAddressed (s : State) (p target : Station) (body : State → State)
    (hb : ∀ t : State, t.Steadies (body t)) : s.Steadies (s.receiveAddressed p target body) :=
  steadies_receive s p _ fun t => .ite (fun _ => hb t) fun _ => .refl t

theorem steadies_takeConfig (s : State) (p target : Station) (body : State → State)
    (hb : ∀ t : State, t.sl.state = .joining → t.Steadies (body t)) : s.Steadies (s.takeConfig p target body) :=
  steadies_receiveAddressed s p target _ fun t =>
    .ite (hb t) fun _ => .ite (fun _ => .refl t) fun _ => .of_eq (watched_refuseLoad t _)

/-- A peer's silence: its entry is ABSENT, and the alone timer starts if it was the last PRESENT peer (R150, R151). -/
theorem steadies_losePeer (s : State) {p : Station} (hp : (s.sl.peer.get p).silence ≠ .stopped) : s.Steadies (s.losePeer p) := by
  refine .assume fun hs => ?_
  have h : PeerTableLegal s.sl.station s.sl.peer s.sl.aloneTimer s.sl.aloneCond := hs.peers
  have hpresent : (s.sl.peer.get p).state = .present := (h.silence p).mpr hp
  have hused : ¬(p = 0 ∨ p = s.sl.station) := fun e => by rw [h.unused p e] at hpresent; cases hpresent
  refine .trans ?_ (.of_eq (watched_releaseHeldBy _ p))
  refine .ite (fun hlast => ?_) fun hleft => ?_
  · exact steadies_peers s _ _ _ fun _ => h.modify hused (f := Peer.lost) (by simp [Peer.lost])
      (timer := .running Config.aloneMs) (iff_of_true hlast.2 (.inl (by simp)))
  · refine steadies_peers s _ _ _ fun _ => h.modify hused (f := Peer.lost) (by simp [Peer.lost])
      (timer := s.sl.aloneTimer) (iff_of_false (fun k => hleft ⟨hpresent, k⟩) ?_)
    simpa using h.not_alone hpresent

/-! ## Touches (R86 to R91) -/

/-- The touch record after the touch has ended, if there was one (R89, R91). -/
def TouchState.ended (t : TouchState) : TouchState := if t.touched then { t with touched := false, quiet := .stopped } else t

theorem TouchState.ended_untouched (t : TouchState) : t.ended.touched = false := by
  unfold TouchState.ended
  split
  · rfl
  · next h => simpa using h

theorem TouchState.ended_quiet {t : TouchState} (h : t.quiet ≠ .stopped → t.touched = true) : t.ended.quiet = .stopped := by
  unfold TouchState.ended
  split
  · rfl
  · next hn => exact not_not.mp fun hq => hn (h hq)

theorem endTouch_watched (c : Channel) (s : State) :
    (State.endTouch c s).watched =
      { s.watched with
        touch := s.pi.touch.modify c TouchState.ended
        waiting := (State.endTouch c s).fe.waiting
        fades := (State.endTouch c s).fe.chan } := by
  unfold State.endTouch
  have hmodify : ∀ f : TouchState → TouchState, f (s.pi.touch.get c) = (s.pi.touch.get c).ended →
      s.pi.touch.modify c f = s.pi.touch.modify c TouchState.ended := fun f hf => by
    unfold Table.modify; rw [hf]
  split
  · next h =>
    rw [watched_of_levels (State.levelsOnly_touchEnd ..),
      ← hmodify (fun t => { t with touched := false, quiet := .stopped }) (by rw [TouchState.ended, if_pos h])]
    rfl
  · next h =>
    rw [← hmodify id (by rw [TouchState.ended, if_neg h]; rfl)]
    have hid : s.pi.touch.modify c id = s.pi.touch := Table.ext fun d => by rw [Table.get_modify]; split <;> rfl
    rw [hid]; rfl

section
variable {accepts : Bool} {touch : Table 24 TouchState} {slot slot' : Table 28 SlotState}

/-- Touch records that are not touched where the old ones were not, and whose quiet timers run during a touch alone. -/
theorem TouchesLegal.mono (h : TouchesLegal accepts touch slot) {accepts' : Bool} {touch' : Table 24 TouchState}
    (haccepts : accepts = true → accepts' = true)
    (htouched : ∀ c, (touch'.get c).touched = true → (touch.get c).touched = true)
    (hquiet : ∀ c, (touch'.get c).quiet ≠ .stopped → (touch'.get c).touched = true)
    (hfaulted : ∀ c, (touch'.get c).touched = true → (slot'.get (channelSlot c)).faulted = (slot.get (channelSlot c)).faulted)
    (hrun : ∀ k, (slot'.get k).run ≤ 14) : TouchesLegal accepts' touch' slot' where
  accepted c hc := haccepts (h.accepted c (htouched c hc))
  faultless c hc := (hfaulted c hc).trans (h.faultless c (htouched c hc))
  quiet := hquiet
  run := hrun

/-- No touch at all. -/
theorem TouchesLegal.untouched (htouched : ∀ c, (touch.get c).touched = false) (hquiet : ∀ c, (touch.get c).quiet = .stopped)
    (hrun : ∀ k, (slot.get k).run ≤ 14) : TouchesLegal accepts touch slot where
  accepted c hc := by rw [htouched c] at hc; cases hc
  faultless c hc := by rw [htouched c] at hc; cases hc
  quiet c hc := absurd (hquiet c) hc
  run := hrun

/-- One channel's touch ends; the fader that is at fault may be its own. -/
theorem TouchesLegal.end (h : TouchesLegal accepts touch slot) (c : Channel)
    (hfaulted : ∀ d, d ≠ c → (slot'.get (channelSlot d)).faulted = (slot.get (channelSlot d)).faulted)
    (hrun : ∀ k, (slot'.get k).run ≤ 14) : TouchesLegal accepts (touch.modify c TouchState.ended) slot' := by
  refine h.mono id (fun d hd => ?_) (fun d hd => ?_) (fun d hd => hfaulted d ?_) hrun
  · rw [Table.get_modify] at hd
    split at hd
    · rw [TouchState.ended_untouched] at hd; cases hd
    · exact hd
  · rw [Table.get_modify] at hd ⊢
    split at hd
    · exact absurd (TouchState.ended_quiet (h.quiet d)) hd
    · next e => rw [if_neg e]; exact h.quiet d hd
  · rintro rfl
    rw [Table.get_modify_self, TouchState.ended_untouched] at hd; cases hd

/-- A channel's touch record changes, to one that may be touched on a panel that accepts input and a NORMAL fader alone. -/
theorem TouchesLegal.modify (h : TouchesLegal accepts touch slot) (c : Channel) {f : TouchState → TouchState}
    (hquiet : (f (touch.get c)).quiet ≠ .stopped → (f (touch.get c)).touched = true)
    (htouched : (f (touch.get c)).touched = true →
      (touch.get c).touched = true ∨ accepts = true ∧ (slot.get (channelSlot c)).faulted = false) :
    TouchesLegal accepts (touch.modify c f) slot := by
  refine ⟨fun d hd => ?_, fun d hd => ?_, fun d hd => ?_, h.run⟩
  · rw [Table.get_modify] at hd
    split at hd
    · next e => subst e; exact (htouched hd).elim (h.accepted c) (·.1)
    · exact h.accepted d hd
  · rw [Table.get_modify] at hd
    split at hd
    · next e => subst e; exact (htouched hd).elim (h.faultless c) (·.2)
    · exact h.faultless d hd
  · rw [Table.get_modify] at hd ⊢
    split at hd
    · next e => subst e; rw [if_pos rfl]; exact hquiet hd
    · next e => rw [if_neg e]; exact h.quiet d hd

end

section
variable (s : State)

theorem steadies_touches (slot : Table 28 SlotState) (touch : Table 24 TouchState)
    (h : TouchesLegal s.acceptsInput s.pi.touch s.pi.slot → TouchesLegal s.acceptsInput touch slot) :
    s.Steadies { s with pi.slot := slot, pi.touch := touch } := fun hs => { hs with touches := h hs.touches }

theorem acceptsInput_running {s : State} (h : s.acceptsInput = true) : s.sl.state = .running := by
  simp only [State.acceptsInput, Bool.and_eq_true, beq_iff_eq] at h
  exact h.1

theorem steadies_modifyTouch (c : Channel) (f : TouchState → TouchState)
    (hquiet : ((s.pi.touch.get c).quiet ≠ .stopped → (s.pi.touch.get c).touched = true) →
      (f (s.pi.touch.get c)).quiet ≠ .stopped → (f (s.pi.touch.get c)).touched = true)
    (htouched : (f (s.pi.touch.get c)).touched = true →
      (s.pi.touch.get c).touched = true ∨ s.acceptsInput = true ∧ (s.pi.slot.get (channelSlot c)).faulted = false) :
    s.Steadies (s.modifyTouch c f) :=
  steadies_touches s s.pi.slot _ fun h => h.modify c (hquiet (h.quiet c)) htouched

/-- A touch begins on a panel that accepts input and a NORMAL fader. -/
theorem steadies_beginTouch {c : Channel} (ha : s.acceptsInput = true) (hf : (s.pi.slot.get (channelSlot c)).faulted = false) :
    s.Steadies (s.beginTouch c) :=
  (steadies_modifyTouch s c _ (fun _ _ => rfl) fun _ => .inr ⟨ha, hf⟩).trans
    (steadies_levels (State.levelsOnly_touchBegin ..) (acceptsInput_running ha))

/-- The end of a touch, with the slots as they are read: at most the channel's own fader has come to be at fault. -/
theorem steady_endTouch {s u : State} (hs : s.watched.Steady) (c : Channel) (slot : Table 28 SlotState)
    (hu : u.watched = { s.watched with slot := slot })
    (hfaulted : ∀ d, d ≠ c → (slot.get (channelSlot d)).faulted = (s.pi.slot.get (channelSlot d)).faulted)
    (hrun : ∀ k, (slot.get k).run ≤ 14) : (State.endTouch c u).watched.Steady := by
  have htouch : u.pi.touch = s.pi.touch := congrArg Watched.touch hu
  have hended : { s.watched with slot := slot, touch := s.pi.touch.modify c TouchState.ended : Watched }.Steady :=
    { hs with touches := hs.touches.end c hfaulted hrun }
  by_cases ht : (u.pi.touch.get c).touched = true
  · rw [endTouch_watched, hu, htouch]
    rw [htouch] at ht
    exact hended.running (acceptsInput_running (hs.touches.accepted c ht)) ..
  · have hsame : State.endTouch c u = u := if_neg ht
    have hid : s.pi.touch.modify c TouchState.ended = s.pi.touch := Table.ext fun d => by
      rw [Table.get_modify]
      split
      · next e => subst e; rw [TouchState.ended, if_neg (htouch ▸ ht)]
      · rfl
    rw [hid] at hended
    rw [hsame, hu]
    exact hended

theorem steadies_endTouch (c : Channel) : s.Steadies (State.endTouch c s) := fun hs =>
  steady_endTouch hs c s.pi.slot rfl (fun _ _ => rfl) hs.touches.run

/-! ## Fader readings (R84 to R88, R91) -/

theorem slotChannel_eq {k : FaderSlot} {c : Channel} (h : slotChannel k = some c) : k = channelSlot c := by
  unfold slotChannel at h
  split at h
  · cases h; rfl
  · cases h

theorem slotChannel_none {k : FaderSlot} (h : slotChannel k = none) (c : Channel) : k ≠ channelSlot c := by
  rintro rfl
  simp [slotChannel, channelSlot] at h

theorem channelSlot_injective {c d : Channel} (h : channelSlot c = channelSlot d) : c = d := by
  simpa [channelSlot, Fin.ext_iff] using h

theorem count_run {x : SlotState} (h : x.run ≤ 14) (rail : Bool) {limit : Nat} (hl : limit ≤ 15) :
    (x.count rail limit).run ≤ 14 := by
  unfold SlotState.count
  split
  · simp
  · split
    · simp
    · simp only; omega

theorem modify_run {slot : Table 28 SlotState} (h : ∀ k, (slot.get k).run ≤ 14) (k : FaderSlot) {f : SlotState → SlotState}
    (hf : (f (slot.get k)).run ≤ 14) (j : FaderSlot) : ((slot.modify k f).get j).run ≤ 14 := by
  rw [Table.get_modify]
  split
  · next e => subst e; exact hf
  · exact h j

theorem watched_handAction (c : Channel) : (State.handAction c s).watched = s.watched := by
  rw [State.handAction_eq]; rfl

/-- A counted reading: where a channel's fader comes to be at fault its touch ends, so that no touch stands on a FAULTED fader. -/
theorem steadies_countReading (k : FaderSlot) (rail : Bool) : s.Steadies (s.countReading k rail) := by
  intro hs
  have hlimit : s.config.faultCount ≤ 15 := hs.configs.inForce.faultCount.2
  have hrun : ∀ j, ((s.pi.slot.modify k fun x => x.count rail s.config.faultCount).get j).run ≤ 14 :=
    modify_run hs.touches.run k (count_run (hs.touches.run k) rail hlimit)
  have hother : ∀ d, channelSlot d ≠ k →
      ((s.pi.slot.modify k fun x => x.count rail s.config.faultCount).get (channelSlot d)).faulted =
        (s.pi.slot.get (channelSlot d)).faulted := fun d hd => by rw [Table.get_modify, if_neg (Ne.symm hd)]
  have hcounted : (∀ c, (s.pi.touch.get c).touched = true → k = channelSlot c →
      ((s.pi.slot.get k).count rail s.config.faultCount).faulted = (s.pi.slot.get k).faulted) →
        (s.modifySlot k fun x => x.count rail s.config.faultCount).watched.Steady := fun hk =>
    { hs with
      touches := hs.touches.mono id (fun _ h => h) hs.touches.quiet (fun c hc => by
        by_cases e : k = channelSlot c
        · have := hk c hc e
          subst e; exact (congrArg SlotState.faulted (Table.get_modify_self ..)).trans this
        · exact hother c (Ne.symm e)) hrun }
  unfold State.countReading
  dsimp only
  have his : ((s.modifySlot k fun x => x.count rail s.config.faultCount).pi.slot.get k) =
      (s.pi.slot.get k).count rail s.config.faultCount := Table.get_modify_self ..
  rw [his]
  split
  · next hk => exact hcounted fun c _ e => absurd e (slotChannel_none hk c)
  · next c hk =>
    have hc := slotChannel_eq hk
    split
    · exact steady_endTouch hs c _ rfl (fun d hd => hother d fun e => hd (channelSlot_injective (e.trans hc))) hrun
    · next hsteady =>
      have hcount : (s.modifySlot k fun x => x.count rail s.config.faultCount).watched.Steady := hcounted fun d hd e => by
        have hfault : (s.pi.slot.get k).faulted = false := e ▸ hs.touches.faultless d hd
        simpa [hfault] using hsteady
      split
      · rw [watched_handAction]
        exact steadies_modifyTouch _ c _ (fun h => h) .inl hcount
      · exact hcount

theorem steadies_faderChange {s : State} (hr : s.sl.state = .running) (c : Channel) : s.Steadies (s.faderChange c) :=
  steadies_levels (s.levelsOnly_faderChange c) hr

theorem steadies_motionTouch {c : Channel} (ha : s.acceptsInput = true) (hf : (s.pi.slot.get (channelSlot c)).faulted = false)
    (catchUp : Bool) : s.Steadies (s.motionTouch c catchUp) := by
  have hbegin : s.Steadies (if !(s.pi.touch.get c).touched && !catchUp then s.beginTouch c else s) :=
    .ite (fun _ => steadies_beginTouch s ha hf) fun _ => .refl s
  refine .ite (fun _ => hbegin.trans ?_) fun _ => .refl s
  exact .ite (fun ht => steadies_modifyTouch _ c _ (fun _ _ => ht) .inl) fun _ => .refl _

theorem watched_takeSlotLevel (k : Fin 4) (first : Bool) (m : MasterNo) (s : State) :
    (State.takeSlotLevel k first m s).watched = s.watched := by
  unfold State.takeSlotLevel
  dsimp only
  split
  · split
    · exact watched_queueLevel ..
    · rfl
  · rfl

theorem watched_slotLevel (k : Fin 4) (first : Bool) : (s.slotLevel k first).watched = s.watched :=
  forEach_field State.watched _ (watched_takeSlotLevel k first) s

theorem steadies_handReading {k : FaderSlot} (ha : s.acceptsInput = true) (hf : (s.pi.slot.get k).faulted = false)
    (first changed catchUp : Bool) : s.Steadies (s.handReading k first changed catchUp) := by
  unfold State.handReading
  split
  · exact .ite (fun _ => .of_eq (watched_slotLevel s _ first)) fun _ => .refl s
  · next c _ hk =>
    have hc := slotChannel_eq hk
    have hchange : s.LevelsOnly (if changed then s.faderChange c else s) := by
      split
      · exact s.levelsOnly_faderChange c
      · exact .refl s
    refine (steadies_levels hchange (acceptsInput_running ha)).trans (steadies_motionTouch _ ?_ ?_ _)
    · rw [State.acceptsInput, hchange.state, hchange.pi]; exact ha
    · rw [hchange.pi, ← hc]; exact hf
  · exact .refl s

theorem steadies_acceptReading {k : FaderSlot} (ha : s.acceptsInput = true) (hf : (s.pi.slot.get k).faulted = false) (n : Nat) :
    s.Steadies (s.acceptReading k n) := by
  let taken := s.modifySlot k fun x => { x with accepted := some n, level := lawLevel s.config.law n, catchUp := false }
  have hslot : s.Steadies taken :=
    steadies_touches s _ s.pi.touch fun h => h.mono id (fun _ h => h) h.quiet
      (fun c _ => by rw [Table.get_modify]; split <;> rfl) (modify_run h.run k (h.run k))
  have hfault : (taken.pi.slot.get k).faulted = false := (congrArg SlotState.faulted (Table.get_modify_self ..)).trans hf
  exact hslot.trans (steadies_handReading taken ha hfault _ _ _)

theorem steadies_readFader (k : FaderSlot) (raw : Nat) : s.Steadies (s.readFader k raw) := by
  refine .ite (fun h => ?_) fun _ => steadies_countReading s _ _
  simp only [Bool.and_eq_true, Bool.not_eq_true'] at h
  obtain ⟨⟨⟨-, hfault⟩, haccepts⟩, -⟩ := h
  exact (steadies_countReading s _ _).trans (steadies_acceptReading _ haccepts hfault _)

/-- A conversion moves the scan on, within the range in force (R82). -/
theorem steadies_scanOn {n : Nat} (hn : s.converts n = true) : s.Steadies (s.scanOn n) := fun hs => by
  have hk := hs.configs.inForce.scan
  have hscan := hs.scan
  obtain rfl : n = s.pi.scanSlot := by simpa [State.converts] using hn
  have hfirst : s.config.scanFirst ≤ s.config.scanStop := min_le_right ..
  have hrange : s.config.scanFirst ≤ s.nextSlot s.pi.scanSlot ∧ s.nextSlot s.pi.scanSlot ≤ s.config.scanStop := by
    unfold State.nextSlot
    dsimp only
    split <;> split <;> omega
  exact { hs with scan := ⟨hrange.2.trans hk.2, fun _ => hrange, hscan.deviation⟩ }

/-- The reference reading is taken within 64 of its nominal value (R83). -/
theorem steadies_readReference (raw : Nat) : s.Steadies (s.readReference raw) :=
  .ite (fun h hs => { hs with scan := ⟨hs.scan.bound, hs.scan.range, by
    show -64 ≤ 2048 - (raw : Int) ∧ 2048 - (raw : Int) ≤ 64
    omega⟩ }) fun _ => .of_eq rfl

end

end Sys2Proof.Machine

/-! SUPPORT. The panel, the peer table and the JOINING window through the panel lock, keys, the sequencer, the configuration transfer, the
end of the window and the resets, and through every command; it settles O57. -/

namespace Sys2Proof.Machine

/-! ## The panel lock, the unlock matcher and keys (R93, R97 to R99) -/

theorem matcherLegal_zero {length : Nat} (h : 1 ≤ length) (state : StationState) (locked : Bool) :
    MatcherLegal length state locked 0 .stopped := ⟨by simp, by simp, h⟩

theorem Watched.Steady.matcher_zero {w : Watched} (h : w.Steady) (state : StationState) (locked : Bool) :
    MatcherLegal w.config.unlockLength state locked 0 .stopped :=
  matcherLegal_zero h.configs.inForce.unlockLength.1 state locked

/-- The panel begins to accept input: the marks it sets are none of a touch or a fault. -/
theorem steadies_beginAccepting (s : State) : s.Steadies s.beginAccepting :=
  steadies_touches s _ _ fun h => h.mono id (fun c hc => by rw [Table.get_mapAt] at hc; exact hc)
    (fun c hc => by rw [Table.get_mapAt] at hc ⊢; exact h.quiet c hc) (fun c _ => by rw [Table.get_mapAt])
    fun k => by rw [Table.get_mapAt]; exact h.run k

theorem steadies_unlockPanel (s : State) : s.Steadies s.unlockPanel := by
  have hunlock : s.Steadies { s with pi.locked := false, pi.matchPos := 0, pi.unlockTimer := .stopped } := fun hs =>
    { hs with
      touches := hs.touches.mono
        (fun h => by
          show (s.sl.state == .running && !false) = true
          simp [acceptsInput_running h])
        (fun _ h => h) hs.touches.quiet (fun _ _ => rfl) hs.touches.run
      matcher := hs.matcher_zero _ _ }
  exact .ite (fun _ => hunlock.trans (steadies_beginAccepting _)) fun _ => hunlock

/-- After the ends of several touches: which channels are still touched. -/
theorem endTouches_touched (l : List Channel) (s : State) (c : Channel) :
    ((l.foldl (fun t d => State.endTouch d t) s).pi.touch.get c).touched = true ↔
      (s.pi.touch.get c).touched = true ∧ c ∉ l := by
  induction l generalizing s with
  | nil => simp
  | cons d l ih =>
    have htouch : (State.endTouch d s).pi.touch = s.pi.touch.modify d TouchState.ended :=
      congrArg Watched.touch (endTouch_watched d s)
    rw [List.foldl_cons, ih, htouch, Table.get_modify, List.mem_cons]
    split
    · next e => subst e; simp [TouchState.ended_untouched]
    · next e => simp [Ne.symm e]

/-- After the ends of all touches no channel is touched, no quiet timer runs, and of what the invariants read FE alone may have
changed beside. -/
theorem endTouches_watched (s : State) (h : ∀ c, (s.pi.touch.get c).quiet ≠ .stopped → (s.pi.touch.get c).touched = true) :
    ((forEach 24 State.endTouch s).watched =
      { s.watched with
        touch := (forEach 24 State.endTouch s).pi.touch
        waiting := (forEach 24 State.endTouch s).fe.waiting
        fades := (forEach 24 State.endTouch s).fe.chan }) ∧
      (∀ c, ((forEach 24 State.endTouch s).pi.touch.get c).touched = false) ∧
      ∀ c, ((forEach 24 State.endTouch s).pi.touch.get c).quiet = .stopped := by
  have hkept := forEach_keeps
    (fun t : State =>
      (t.watched = { s.watched with touch := t.pi.touch, waiting := t.fe.waiting, fades := t.fe.chan }) ∧
        ∀ c, (t.pi.touch.get c).quiet ≠ .stopped → (t.pi.touch.get c).touched = true)
    State.endTouch (fun c t ⟨hw, hq⟩ => by
      have htouch : (State.endTouch c t).pi.touch = t.pi.touch.modify c TouchState.ended :=
        congrArg Watched.touch (endTouch_watched c t)
      refine ⟨by rw [endTouch_watched, hw, htouch], fun d => ?_⟩
      rw [htouch, Table.get_modify]
      split
      · next e => subst e; exact fun h => absurd (TouchState.ended_quiet (hq c)) h
      · exact hq d) s ⟨rfl, h⟩
  have huntouched : ∀ c, ((forEach 24 State.endTouch s).pi.touch.get c).touched = false := fun c => by
    rw [forEach, ← Bool.not_eq_true, endTouches_touched]
    exact fun k => k.2 (List.mem_finRange c)
  refine ⟨hkept.1, huntouched, fun c => not_not.mp fun hq => ?_⟩
  have htouched := hkept.2 c hq
  rw [huntouched c] at htouched
  cases htouched

/-- A lock: every touch of a RUNNING station ends, and in JOINING there is none (R57, R88, R97). -/
theorem steadies_lockPanel (s : State) : s.Steadies s.lockPanel := by
  intro hs
  unfold State.lockPanel
  dsimp only
  split
  · next hr =>
    obtain ⟨hw, huntouched, hquiet⟩ :=
      endTouches_watched { s with pi.locked := true, pi.matchPos := 0, pi.unlockTimer := .stopped } hs.touches.quiet
    generalize forEach 24 State.endTouch _ = t at hw huntouched hquiet ⊢
    rw [hw]
    exact
      { hs with
        touches := .untouched huntouched hquiet hs.touches.run
        matcher := hs.matcher_zero _ _
        still := fun h => absurd (hr.symm.trans h) nofun }
  · next hr =>
    exact
      { hs with
        touches := hs.touches.mono (fun h => absurd (acceptsInput_running h) hr) (fun _ h => h) hs.touches.quiet
          (fun _ _ => rfl) hs.touches.run
        matcher := hs.matcher_zero _ _ }

theorem unlockSequence_length_le (k : Configuration) : k.unlockSequence.length ≤ k.unlockLength := by
  simp [Configuration.unlockSequence]

/-- A code that matches stands in the sequence. -/
theorem lt_length_of_codeMatches {codes : List Nat} {pos : Nat} {key : Fin 35} (h : codeMatches codes[pos]? key = true) :
    pos < codes.length := by
  by_contra hn
  rw [List.getElem?_eq_none (Nat.le_of_not_lt hn)] at h
  simp [codeMatches] at h

theorem steadies_matchAt {s : State} (hr : s.sl.state = .running) (hl : s.pi.locked = true) {pos : Nat}
    (hpos : pos < s.config.unlockSequence.length) : s.Steadies (s.matchAt pos) := by
  refine .ite (fun _ => steadies_unlockPanel s) fun hne hs => ?_
  have hlength : pos + 1 < s.config.unlockLength := by
    have := unlockSequence_length_le s.config
    omega
  exact { hs with matcher := ⟨fun _ => ⟨hl, hr⟩, by simp [State.watched], hlength⟩ }

theorem steadies_matchKey {s : State} (hr : s.sl.state = .running) (hl : s.pi.locked = true) (key : Fin 35) :
    s.Steadies (s.matchKey key) :=
  .ite (fun h => steadies_matchAt hr hl (lt_length_of_codeMatches h)) fun _ =>
    .ite (fun h => steadies_matchAt hr hl (lt_length_of_codeMatches h)) fun _ hs =>
      { hs with matcher := hs.matcher_zero _ _ }

theorem state_running {s : State} (h : s.sl.state ≠ .joining) : s.sl.state = .running := by
  cases hst : s.sl.state with
  | joining => exact absurd hst h
  | running => rfl

theorem steadies_pressKey (s : State) (key : Fin 35) (body : State → State)
    (hb : ∀ t : State, t.sl.state = .running → t.Steadies (body t)) : s.Steadies (s.pressKey key body) := by
  have hpress : s.Steadies { s with pi.keyDown := s.pi.keyDown.set key true } := .of_eq rfl
  refine .ite (fun _ => hpress) fun hj => ?_
  have hr := state_running hj
  let pressed : State := { s with pi.keyDown := s.pi.keyDown.set key true }
  exact .ite (fun hl => hpress.trans (steadies_matchKey (s := pressed) hr hl key)) fun _ => hpress.trans (hb pressed hr)

/-! ## GO, GOTO and the sequencer (chapter 3) -/

/-- An operation that changes of what the invariants read at most HELD, the current cue, the follow timer and FE. -/
def State.Plays (s t : State) : Prop :=
  t.watched =
    { s.watched with
      held := t.seq.held, currentCue := t.seq.currentCue, follow := t.seq.follow
      waiting := t.fe.waiting, fades := t.fe.chan }

namespace State.Plays

variable {s t u : State}

theorem refl (s : State) : s.Plays s := rfl

theorem trans (h : s.Plays t) (k : t.Plays u) : s.Plays u := by
  unfold State.Plays at *
  rw [k, h]

theorem of_levels (h : s.LevelsOnly t) : s.Plays t := by
  unfold State.Plays
  rw [watched_of_levels h, h.seq]
  rfl

theorem ite {c : Prop} [Decidable c] (ht : s.Plays t) (hu : s.Plays u) : s.Plays (if c then t else u) := by
  split
  · exact ht
  · exact hu

theorem steadies (h : s.Plays t) (hr : s.sl.state = .running) : s.Steadies t := fun hs => by
  rw [h]
  exact hs.running hr ..

end State.Plays

section
variable (s : State)

theorem plays_seq (q : Sequencer) (hcue : q.adoptedCue = s.seq.adoptedCue) (hheld : q.adoptedHeld = s.seq.adoptedHeld)
    (hsource : q.adoptionSource = s.seq.adoptionSource) (hsettled : q.cueSettled = s.seq.cueSettled)
    (hsettled' : q.heldSettled = s.seq.heldSettled) : s.Plays { s with seq := q } := by
  unfold State.Plays State.watched
  simp only [hcue, hheld, hsource, hsettled, hsettled']

theorem plays_enqueue (m : Msg) : s.Plays (s.enqueue m) := .of_levels (s.levelsOnly_enqueue m)

theorem plays_refuseGo : s.Plays s.refuseGo := rfl

theorem plays_handSteps (n : Cue) : s.Plays (s.handSteps n) := by
  rw [State.handSteps_eq]
  exact .of_levels (State.levelsOnly_foldl _ State.levelsOnly_takeStep _ _)

theorem plays_takeGo (n : Cue) (cause : Cause) (isLocal : Bool) : s.Plays (s.takeGo n cause isLocal) := by
  have hsteps := (plays_seq s
    { s.seq with
      held := false, currentCue := n, goStamp := some s.seq.frameCount
      keyStamp := if cause = .key then some s.seq.frameCount else s.seq.keyStamp
      follow := s.cs.followOf n } rfl rfl rfl rfl rfl).trans (plays_handSteps _ n)
  exact .ite (hsteps.trans (plays_enqueue ..)) hsteps

theorem plays_expireFollow : s.Plays s.expireFollow := by
  have hdisarm := plays_seq s { s.seq with follow := none } rfl rfl rfl rfl rfl
  unfold State.expireFollow
  dsimp only
  split
  · exact hdisarm
  · exact .ite (hdisarm.trans (plays_takeGo ..)) (hdisarm.trans (plays_refuseGo _))

theorem plays_followChain (fuel : Nat) : s.Plays (s.followChain fuel) := by
  induction fuel generalizing s with
  | zero => exact .refl s
  | succ fuel ih => exact .ite ((plays_expireFollow s).trans (ih _)) (.refl s)

theorem plays_runFollow : s.Plays s.runFollow := plays_followChain s _

theorem plays_runGo (n : Cue) (cause : Cause) (isLocal : Bool) : s.Plays (s.runGo n cause isLocal) :=
  (plays_takeGo s ..).trans (plays_runFollow _)

theorem plays_takeGoto (n : Cue) (fade : Nat) : s.Plays (s.takeGoto n fade) :=
  (plays_seq s { s.seq with held := false, currentCue := n, goStamp := some s.seq.frameCount, follow := none }
    rfl rfl rfl rfl rfl).trans (.of_levels (State.levelsOnly_gotoRequest ..))

theorem plays_goKeyRequest : s.Plays s.goKeyRequest := by
  have hstamp := plays_seq s { s.seq with keyStamp := some s.seq.frameCount } rfl rfl rfl rfl rfl
  have hresume := plays_seq s { s.seq with keyStamp := some s.seq.frameCount, held := false } rfl rfl rfl rfl rfl
  refine .ite (.refl s) (.ite (hresume.trans (plays_enqueue ..)) ?_)
  split
  · exact hstamp.trans (plays_refuseGo _)
  · exact .ite (hstamp.trans (plays_runGo ..)) (hstamp.trans (plays_refuseGo _))

theorem plays_backKeyRequest : s.Plays s.backKeyRequest := by
  unfold State.backKeyRequest
  split
  · exact plays_refuseGo s
  · exact .ite ((plays_takeGoto s ..).trans (plays_enqueue ..)) (plays_refuseGo s)

theorem plays_stopKeyRequest : s.Plays s.stopKeyRequest :=
  .ite (.refl s) ((plays_seq s { s.seq with held := true } rfl rfl rfl rfl rfl).trans (plays_enqueue ..))

/-- A follow timer that does not stand at 0 does not expire (R44). -/
theorem runFollow_rests {s : State} (h : s.seq.follow ≠ some 0) : s.runFollow = s := if_neg h

/-- A frame of the follow timer; that of a JOINING station is disarmed (R44, R57, R72). -/
theorem steadies_countFollow :
    s.Steadies (if s.seq.held then s else State.runFollow { s with seq.follow := s.seq.follow.map fun r => r - 1 }) :=
  .ite (fun _ => .refl s) fun _ => .assume fun hs => by
    have hplays := plays_seq s { s.seq with follow := s.seq.follow.map fun r => r - 1 } rfl rfl rfl rfl rfl
    cases hst : s.sl.state with
    | running => exact (hplays.trans (plays_runFollow _)).steadies hst
    | joining =>
      have hfollow : s.seq.follow = none := (hs.still hst).noFollow
      have hsame : ({ s with seq.follow := s.seq.follow.map fun r => r - 1 } : State) = s := by
        rw [hfollow]
        exact congrArg (fun f => ({ s with seq.follow := f } : State)) hfollow.symm
      rw [hsame, runFollow_rests (by simp [hfollow])]
      exact .refl s

end

/-! ## JOINING: adoption, the assembly, the end of the window (R57 to R59, R154 to R157) -/

/-- A JOINING station may adopt any cue and hold. -/
theorem steadies_adopt {s : State} (hj : s.sl.state = .joining) (q : Sequencer) (hheld : q.held = s.seq.held)
    (hcue : q.currentCue = s.seq.currentCue) (hfollow : q.follow = s.seq.follow) : s.Steadies { s with seq := q } := fun hs =>
  { hs with
    still := fun h => by
      have k := hs.still h
      exact ⟨hheld.trans k.noHold, hcue.trans k.noCue, hfollow.trans k.noFollow, k.noWaiting, k.noFades⟩
    adopted := fun h => absurd (hj.symm.trans h) nofun }

theorem steadies_assembly (s : State) (b : Option Assembly) (hb : s.ConfigLegal → ∀ a ∈ b, a.config.Legal)
    (hsome : b.isSome = true → s.sl.assembly.isSome = true) : s.Steadies { s with sl.assembly := b } := fun hs =>
  { hs with
    configs := ⟨hs.configs.inForce, hs.configs.order, hb ((watched_steady_iff s).mp hs).1⟩
    window := ⟨hs.window.joining, hs.window.running, fun h => hs.window.limited (hsome h)⟩ }

/-- CONFIG_BEGIN: the limit timer takes over from the window timer (R154). -/
theorem steadies_openAssembly {s : State} (hj : s.sl.state = .joining) : s.Steadies s.openAssembly := fun hs => by
  have hlimit : s.openAssembly.sl.limitTimer ≠ .stopped := by
    unfold State.openAssembly
    dsimp only
    split
    · simp
    · assumption
  exact
    { hs with
      configs := ⟨hs.configs.inForce, hs.configs.order, by rintro a ⟨⟩; exact hs.configs.inForce⟩
      window := ⟨fun _ => iff_of_true rfl hlimit, fun h => absurd (hj.symm.trans h) nofun, fun _ => hlimit⟩ }

theorem steadies_takeItem (s : State) (code index : Nat) (value : BitVec 16) : s.Steadies (s.takeItem code index value) := by
  unfold State.takeItem
  split
  · exact .of_eq (watched_refuseLoad s _)
  · next a ha =>
    have hsome : s.sl.assembly.isSome = true := by rw [ha]; rfl
    split
    · refine State.Steadies.trans (.of_eq (watched_refuseLoad s .badItem))
        (steadies_assembly _ _ (fun hc b hb => ?_) fun _ => by rw [State.refuseLoad_sl]; exact hsome)
      cases hb
      exact hc.assembly a (by rw [State.refuseLoad_sl]; exact ha)
    · next k hk =>
      refine steadies_assembly s _ (fun hc b hb => ?_) fun _ => hsome
      cases hb
      exact enterItem_legal (hc.assembly a ha) hk

theorem watched_settle (s : State) : s.settle.watched = s.watched := by simp [State.watched]

/-- In JOINING no channel is touched and the matcher is at rest (R57, R88, R98), so that a configuration may change both the panel
lock and the unlock sequence. -/
theorem steadies_acceptConfig {s : State} (hj : s.sl.state = .joining) {k : Configuration} (hk : k.Legal)
    (ho : lawOrdered k.law = true) : s.Steadies (s.acceptConfig k) := by
  intro hs
  have hrest : s.pi.matchPos = 0 := by
    have h := hs.matcher.onLocked
    by_contra hne
    exact absurd (hj.symm.trans (h (Nat.pos_of_ne_zero hne)).2) nofun
  have hstopped : s.pi.unlockTimer = .stopped := by
    have h := hs.matcher.timed.not
    exact not_not.mp (h.mpr (by rw [show s.watched.matchPos = 0 from hrest]; decide))
  have hnot : s.acceptsInput ≠ true := fun h => absurd (hj.symm.trans (acceptsInput_running h)) nofun
  unfold State.acceptConfig
  dsimp only
  rw [watched_settle]
  refine { hs with
    configs := ⟨hk, ho, by rintro a ⟨⟩⟩
    scan := ⟨hs.scan.bound, fun hchanged => ?_, hs.scan.deviation⟩
    touches := hs.touches.mono (fun h => absurd h hnot) (fun _ h => h) hs.touches.quiet (fun _ _ => rfl) hs.touches.run
    matcher := ?_
    window := ⟨hs.window.joining, hs.window.running, by rintro ⟨⟩⟩ }
  · simp only [State.watched, Bool.or_eq_false_iff, bne_eq_false_iff_eq] at hchanged
    obtain ⟨⟨hsame, hfirst⟩, hstop⟩ := hchanged
    have hrange := hs.scan.range hsame
    exact ⟨hfirst.trans_le hrange.1, hrange.2.trans_eq hstop.symm⟩
  · simp only [State.watched, hrest, hstopped, ite_self]
    exact matcherLegal_zero hk.unlockLength.1 _ _

theorem steadies_setFlag (s : State) (f : Flag) : s.Steadies (s.setFlag f) := .of_eq rfl

theorem closeAssembly_sl (s : State) :
    s.closeAssembly.sl.assembly = none ∧ s.closeAssembly.sl.state = s.sl.state := by
  unfold State.closeAssembly
  split
  · next h => exact ⟨h, rfl⟩
  · split
    · exact ⟨rfl, rfl⟩
    · unfold State.acceptConfig
      simp only [State.settle_sl, and_self]

theorem steadies_closeAssembly {s : State} (hj : s.sl.state = .joining) : s.Steadies s.closeAssembly := by
  unfold State.closeAssembly
  split
  · exact .refl s
  · next a ha =>
    refine .ite (fun _ => ?_) fun h => .assume fun hs => ?_
    · exact (steadies_setFlag s _).trans (steadies_assembly _ none (by simp) (by simp))
    · simp only [Bool.or_eq_true, Bool.not_eq_true', not_or, Bool.not_eq_false] at h
      exact steadies_acceptConfig hj (hs.configs.inAssembly a ha) h.2

theorem watched_rejoin (s : State) :
    s.rejoin.watched =
      { s.watched with
        held := s.rejoin.seq.held, currentCue := s.rejoin.seq.currentCue, follow := s.rejoin.seq.follow
        waiting := s.rejoin.fe.waiting, fades := s.rejoin.fe.chan, adopted := (0, false, none, false, false) } := by
  have hplays : s.Plays (if s.seq.adoptedCue = 0 then s else s.takeGoto s.seq.adoptedCue s.config.gotoTime) :=
    .ite (.refl s) (plays_takeGoto s ..)
  have h := congrArg (fun w : Watched =>
    { w with held := s.rejoin.seq.held, adopted := (0, false, none, false, false) : Watched }) hplays
  exact h

/-- The window ends with no assembly left: the station is RUNNING with both timers stopped and nothing adopted (R59, R155). -/
theorem steadies_endJoining {s : State} (hj : s.sl.state = .joining) (ha : s.sl.assembly = none) : s.Steadies s.endJoining := by
  intro hs
  have hnot : s.acceptsInput ≠ true := fun h => absurd (hj.symm.trans (acceptsInput_running h)) nofun
  have hidle : ¬0 < s.pi.matchPos := fun h => absurd (hj.symm.trans (hs.matcher.onLocked h).2) nofun
  let ended : State := { s with sl.state := .running, sl.windowTimer := .stopped, sl.limitTimer := .stopped }
  have hrejoin : ended.rejoin.watched.Steady := by
    rw [watched_rejoin]
    exact
      { hs with
        touches := hs.touches.mono (fun h => absurd h hnot) (fun _ h => h) hs.touches.quiet (fun _ _ => rfl) hs.touches.run
        matcher := ⟨fun h => absurd h hidle, hs.matcher.timed, hs.matcher.short⟩
        window := ⟨fun h => absurd h nofun, fun _ => ⟨rfl, rfl⟩, fun h => by
          rw [show ended.watched.assembly = none from ha] at h; cases h⟩
        still := fun h => absurd h nofun
        adopted := fun _ => rfl }
  show ((if ended.rejoin.pi.locked then ended.rejoin else ended.rejoin.beginAccepting).queuePresence).watched.Steady
  rw [State.queuePresence, watched_enqueue]
  split
  · exact hrejoin
  · exact steadies_beginAccepting _ hrejoin

/-! ## The Show Link (chapter 8) -/

section
variable (s : State)

theorem steadies_recordPresence (p : Station) (joining hold : Bool) (cue : Cue) :
    s.Steadies (s.recordPresence p joining hold cue) := fun hs => by
  have hentry : ∀ q, ((s.recordPresence p joining hold cue).sl.peer.get q).state = (s.sl.peer.get q).state ∧
      ((s.recordPresence p joining hold cue).sl.peer.get q).silence = (s.sl.peer.get q).silence := fun q => by
    rw [State.recordPresence, Table.get_modify]
    split <;> exact ⟨rfl, rfl⟩
  refine { hs with peers := ⟨fun q hq => (hentry q).1.trans (hs.peers.unused q hq), fun q => ?_, ?_⟩ }
  · have h := hs.peers.silence q
    show ((s.recordPresence p joining hold cue).sl.peer.get q).state = .present ↔
      ((s.recordPresence p joining hold cue).sl.peer.get q).silence ≠ .stopped
    rw [(hentry q).1, (hentry q).2]
    exact h
  · have hcount : presentPeers s.sl.station (s.recordPresence p joining hold cue).sl.peer =
        presentPeers s.sl.station s.sl.peer := by simp only [presentPeers, hentry]
    exact (Eq.congr_left hcount).trans hs.peers.alone

theorem watched_replaceMask (p : Station) (mask : BitVec 16) : (s.replaceMask p mask).watched = s.watched := by
  simp only [State.replaceMask, State.watched]

theorem steadies_adoptPresence {s : State} (hj : s.sl.state = .joining) (p : Station) (cue : Cue) (held : Bool) :
    s.Steadies (s.adoptPresence p cue held) := .ite (fun _ => steadies_adopt hj _ rfl rfl rfl) fun _ => .refl s

theorem steadies_takePresence (p : Station) (joining hold : Bool) (cue : Cue) (mask : BitVec 16) :
    s.Steadies (s.takePresence p joining hold cue mask) := by
  have h : s.Steadies ((s.recordPresence p joining hold cue).replaceMask p mask) :=
    (steadies_recordPresence s p joining hold cue).trans (.of_eq (watched_replaceMask _ p mask))
  refine .ite (fun _ => h.trans (.of_eq ?_)) fun _ => .ite (fun hj => h.trans (steadies_adoptPresence hj _ _ _)) fun _ => h
  rw [State.queuePresence, watched_enqueue, watched_queueLevels, watched_answerLinks, watched_releaseHeldBy]

theorem watched_endLinkOff : s.endLinkOff.watched = s.watched := by
  unfold State.endLinkOff
  rw [watched_queueLevels, watched_announceLinks, State.queuePresence, watched_enqueue]
  rfl

theorem watched_clearSpent : s.clearSpent.watched = s.watched := rfl

theorem watched_answerStatus : s.answerStatus.watched = s.watched := by
  unfold State.answerStatus
  rw [watched_clearSpent]
  exact forEach_field State.watched _ (fun _ t => watched_enqueue t _) s

end

/-! ## Resets -/

section
variable (station : Station) (rate : BitRate) {k : Configuration} (store : CueStore) {offset : Int} (pending : List Instr)

theorem resetBlocks_peers :
    PeerTableLegal station (resetShowLink station rate k).peer (.running Config.aloneMs) false := by
  have hpeer : ∀ p, (resetShowLink station rate k).peer.get p = ⟨.unknown, false, false, 0, .stopped⟩ :=
    Table.get_const _
  have hunused : ∀ p, p = 0 ∨ p = station → ((resetShowLink station rate k).peer.get p).state = .unknown := fun p _ => by
    rw [hpeer]
  refine ⟨hunused, fun p => by simp [hpeer], ?_⟩
  exact iff_of_true ((presentPeers_eq_zero_iff hunused).mpr fun p => by simp [hpeer]) (.inl (by simp))

theorem resetBlocks_steady (hk : k.Legal) (ho : lawOrdered k.law = true) (hoffset : -64 ≤ offset ∧ offset ≤ 64) :
    (resetBlocks station rate k store offset pending).watched.Steady where
  configs := ⟨hk, ho, by rintro a ⟨⟩⟩
  scan :=
    have hfirst : k.scanFirst ≤ k.scanStop := min_le_right ..
    ⟨hfirst.trans hk.scan.2, fun _ => ⟨le_rfl, hfirst⟩, hoffset⟩
  touches := .untouched (fun c => congrArg TouchState.touched (Table.get_const _ c))
    (fun c => congrArg TouchState.quiet (Table.get_const _ c))
    fun j => (congrArg SlotState.run (Table.get_const _ j)).trans_le (Nat.zero_le _)
  matcher := matcherLegal_zero hk.unlockLength.1 _ _
  peers := resetBlocks_peers station rate (k := k)
  clash := iff_of_false Bool.false_ne_true (not_not.mpr rfl)
  window := ⟨fun _ => iff_of_false (by rintro ⟨⟩) (not_not.mpr rfl), by rintro ⟨⟩, by rintro ⟨⟩⟩
  still _ := ⟨rfl, rfl, rfl, rfl, fun c => ⟨congrArg FadeChannel.slot (Table.get_const _ c),
    congrArg FadeChannel.cueLevel (Table.get_const _ c)⟩⟩
  adopted := by rintro ⟨⟩

theorem afterReset_steady (hk : k.Legal) (ho : lawOrdered k.law = true) (hoffset : -64 ≤ offset ∧ offset ≤ 64) :
    (afterReset station rate k store offset pending).watched.Steady := by
  rw [afterReset_eq, State.queuePresence, watched_enqueue, watched_settle]
  exact resetBlocks_steady station rate store pending hk ho hoffset

end

theorem coldReset_steady (stationStraps : Station) (rateStraps : Fin 4) (s : State) :
    (coldReset stationStraps rateStraps s).watched.Steady :=
  afterReset_steady _ _ _ _ defaultConfiguration_legal (by decide +kernel) (by decide)

theorem steadies_warmReset (s : State) : s.Steadies (warmReset s) := fun hs =>
  afterReset_steady _ _ _ _ hs.configs.inForce hs.configs.order hs.scan.deviation

/-! ## Every command -/

section
variable (s : State)

/-- A fade record is not there before RUNNING, so that a due one is one of a RUNNING station (R57, R73, R81). -/
theorem steadies_fadeComplete {c : Channel} {f : FadeChannel → FadeChannel} (hf : (s.fe.chan.get c).slot ≠ none) :
    s.Steadies (s.modifyFe c f) := .assume fun hs => by
  cases hst : s.sl.state with
  | running => exact steadies_levels (s.levelsOnly_modifyFe c f) hst
  | joining => exact absurd ((hs.still hst).noFades c).1 hf

/-- A pending step is not there before RUNNING (R57, R74, R81). -/
theorem steadies_pendingStart (due : PendingStep → Bool) (hdue : s.fe.waiting.any due = true) :
    s.Steadies ((s.fe.waiting.filter due).foldl State.startStep { s with fe.waiting := s.fe.waiting.filter fun p => !due p }) :=
  .assume fun hs => by
    cases hst : s.sl.state with
    | running =>
      have hleft : s.LevelsOnly { s with fe.waiting := s.fe.waiting.filter fun p => !due p } :=
        ⟨rfl, rfl, rfl, rfl, rfl, rfl, rfl, rfl, rfl⟩
      exact steadies_levels (hleft.trans (State.levelsOnly_foldl _ State.levelsOnly_startStep _ _)) hst
    | joining =>
      have hnone : s.fe.waiting = [] := (hs.still hst).noWaiting
      rw [hnone] at hdue
      cases hdue

theorem steadies_touchLineActive (c : Channel) :
    s.Steadies
      (let s1 := s.modifyTouch c fun t => { t with lineActive := true }
      if s.source c == .line && s.acceptsInput && !(s.pi.slot.get (channelSlot c)).faulted && !(s.pi.touch.get c).touched then
        s1.beginTouch c
      else s1) := by
  have hline := steadies_modifyTouch s c (fun t => { t with lineActive := true }) (fun h => h) .inl
  refine .ite (fun h => hline.trans ?_) fun _ => hline
  simp only [Bool.and_eq_true, Bool.not_eq_true'] at h
  obtain ⟨⟨⟨-, haccepts⟩, hfault⟩, -⟩ := h
  exact steadies_beginTouch (s.modifyTouch c fun t => { t with lineActive := true }) haccepts hfault

/-- The window timer runs only in JOINING, and while no limit timer runs, so with no assembly (R154, R156). -/
theorem steadies_windowTimer (hw : s.sl.windowTimer ≠ .stopped) : s.Steadies s.endJoining := .assume fun hs => by
  have hj : s.sl.state = .joining := not_not.mp fun hn => hw (hs.window.running (state_running hn)).1
  have hlimit : s.sl.limitTimer = .stopped := not_not.mp ((hs.window.joining hj).not.mp hw)
  exact steadies_endJoining hj (Option.not_isSome_iff_eq_none.mp fun h => hs.window.limited h hlimit)

theorem steadies_limitTimer (hl : s.sl.limitTimer ≠ .stopped) :
    s.Steadies (State.endJoining { s.setFlag .configRejected with sl.assembly := none }) := .assume fun hs => by
  have hj : s.sl.state = .joining := not_not.mp fun hn => hl (hs.window.running (state_running hn)).2
  have hreject : s.Steadies { s.setFlag .configRejected with sl.assembly := none } :=
    (steadies_setFlag s _).trans (steadies_assembly _ none (by simp) (by simp))
  exact hreject.trans (steadies_endJoining (s := { s.setFlag .configRejected with sl.assembly := none }) hj rfl)

theorem steadies_configEnd {s : State} (hj : s.sl.state = .joining) : s.Steadies s.closeAssembly.endJoining :=
  (steadies_closeAssembly hj).trans
    (steadies_endJoining ((closeAssembly_sl s).2.trans hj) (closeAssembly_sl s).1)

theorem steadies_aloneTimer (ht : s.sl.aloneTimer ≠ .stopped) :
    s.Steadies { s with sl.aloneTimer := .stopped, sl.aloneCond := true } :=
  steadies_peers s s.sl.peer _ _ fun h =>
    ⟨h.unused, h.silence, h.alone.trans (iff_of_true (.inl ht) (.inr rfl))⟩

/-- What TK, SG, GC, GP and FI hold is not read. -/
theorem steadies_unwatched (tk : TakeoverUnit) (sg : SharedGroups) (gc : Composer) (gp : GainPort) (fi : FaultUnit) :
    s.Steadies { s with tk := tk, sg := sg, gc := gc, gp := gp, fi := fi } := .of_eq rfl

theorem steadies_txQueue (q : List TxEntry) : s.Steadies { s with sl.queue := q } := .of_eq rfl

theorem steadies_refuseLoad (r : Reason) : s.Steadies (s.refuseLoad r) := .of_eq (watched_refuseLoad s r)

theorem steadies_store (cs : CueStore) : s.Steadies { s with cs := cs } := .of_eq rfl

theorem steadies_checkKey (cue : Cue) (channel : Fin 32) (body : Channel → State) (hb : ∀ c, s.Steadies (body c)) :
    s.Steadies (s.checkKey cue channel body) := by
  refine .ite (fun _ => steadies_refuseLoad s _) fun _ => ?_
  split
  · exact steadies_refuseLoad s _
  · exact hb _

theorem steadies_checkCue (cue : Cue) (body : State) (hb : s.Steadies body) : s.Steadies (s.checkCue cue body) :=
  .ite (fun _ => steadies_refuseLoad s _) fun _ => hb

theorem steadies_acceptTouch (s : State) (l : LinkNo) (t : Nat) (p : Option Station) (held : Bool) (level : Level) :
    s.Steadies
      (if ((s.countForeign l).tk.link.get l).acceptsTouch t p then (s.countForeign l).acceptTouch l t p held level
      else s.countForeign l) :=
  .trans (.of_eq (watched_countForeign s l)) (.ite (fun _ => .of_eq (watched_acceptTouch ..)) fun _ => .refl _)

theorem steadies_acceptRelease (s : State) (l : LinkNo) (t : Nat) (p : Option Station) (level : Level) :
    s.Steadies
      (if ((s.countForeign l).tk.link.get l).acceptsRelease t p then (s.countForeign l).acceptRelease l t p level
      else s.countForeign l) :=
  .trans (.of_eq (watched_countForeign s l)) (.ite (fun _ => .of_eq (watched_acceptRelease ..)) fun _ => .refl _)

theorem steadies_toggleAssertion (k : Fin 8) : s.Steadies (s.toggleAssertion k) := by
  unfold State.toggleAssertion
  split
  · exact .refl s
  · refine .of_eq ?_
    unfold State.ownAssertion
    exact watched_enqueue _ _

theorem steadies_txError (kind : TxErrorKind) :
    s.Steadies
      (let left := s.sl.queue.filterMap TxEntry.fail
      let s1 := { s with sl.queue := left }
      let s2 := if left.length < s.sl.queue.length then s1.countDrop else s1
      if s.raisesErrors kind then s2.raiseTxErrors else s2) := by
  have hq : s.Steadies (if (s.sl.queue.filterMap TxEntry.fail).length < s.sl.queue.length then
      State.countDrop { s with sl.queue := s.sl.queue.filterMap TxEntry.fail }
      else { s with sl.queue := s.sl.queue.filterMap TxEntry.fail }) := .ite (fun _ => .of_eq rfl) fun _ => .of_eq rfl
  exact .ite (fun _ => hq.trans (.of_eq (watched_raiseTxErrors _))) fun _ => hq

theorem steadies_readReport (gin : BitVec 32) : s.Steadies (s.readReport gin) := by
  unfold State.readReport
  split
  · exact .refl s
  · exact steadies_unwatched s _ _ _ _ _

theorem steadies_endTransfer (t : Transfer) : s.Steadies (s.endTransfer t) := by
  cases t with
  | poll => exact steadies_unwatched s _ _ _ _ _
  | level => exact .ite (fun _ => steadies_unwatched s _ _ _ _ _) fun _ => steadies_unwatched s _ _ _ _ _

end

/-- What any command keeps. -/
theorem exec_steadies (i : Instr) (s t : State) (h : exec i s = .next t) : s.Steadies t := by
  cases i with
  | powerOn a b | resetLine a b =>
    obtain rfl : coldReset a b s = t := Host.Outcome.next.inj h
    exact fun _ => coldReset_steady a b s
  | restart p target =>
    change execRestart p target s = .next t at h
    unfold execRestart at h
    split at h
    · cases h; exact steadies_warmReset s
    · exact steadies_take h (steadies_receiveAddressed s _ _ _ .refl)
  | go p n cause =>
    change execGo p n cause s = .next t at h
    refine steadies_take h (steadies_receive s _ _ fun u => .ite (fun _ => steadies_countIgnored u) fun _ =>
      .ite (fun hj => steadies_adopt hj _ rfl rfl rfl) fun hj => .ite (fun _ => steadies_countIgnored u) fun _ => ?_)
    exact (plays_runGo u ..).steadies (state_running hj)
  | goto p n fade reason =>
    change execGoto p n fade reason s = .next t at h
    refine steadies_take h (steadies_receive s _ _ fun u => .ite (fun _ => steadies_countIgnored u) fun _ =>
      .ite (fun hj => steadies_adopt hj _ rfl rfl rfl) fun hj => .ite (fun _ => steadies_countIgnored u) fun _ => ?_)
    exact (plays_takeGoto u ..).steadies (state_running hj)
  | hold p =>
    change execHold p s = .next t at h
    refine steadies_take h (steadies_receive s _ _ fun u => .ite (fun hj => steadies_adopt hj _ rfl rfl rfl) fun hj => ?_)
    exact (plays_seq u { u.seq with held := true } rfl rfl rfl rfl rfl).steadies (state_running hj)
  | resume p =>
    change execResume p s = .next t at h
    refine steadies_take h (steadies_receive s _ _ fun u => .ite (fun hj => steadies_adopt hj _ rfl rfl rfl) fun hj => ?_)
    exact (plays_seq u { u.seq with held := false } rfl rfl rfl rfl rfl).steadies (state_running hj)
  | linkTouch p l stamp toucher held level =>
    change execLinkTouch p l stamp toucher held level s = .next t at h
    exact steadies_take h (steadies_receive s _ _ fun u =>
      .ite (fun _ => steadies_countIgnored u) fun _ => steadies_acceptTouch u _ _ _ _ _)
  | linkState p l stamp toucher held level =>
    change execLinkState p l stamp toucher held level s = .next t at h
    exact steadies_take h (steadies_receive s _ _ fun u => steadies_acceptTouch u _ _ _ _ _)
  | linkRelease p l stamp toucher held level =>
    change execLinkRelease p l stamp toucher held level s = .next t at h
    exact steadies_take h (steadies_receive s _ _ fun u =>
      .ite (fun _ => steadies_countIgnored u) fun _ => steadies_acceptRelease u _ _ _ _)
  | muteGroup p g asserted =>
    change execMuteGroup p g asserted s = .next t at h
    exact steadies_take h (steadies_receive s _ _ fun u => .ite (fun _ => steadies_countIgnored u) fun _ => steadies_unwatched u _ _ _ _ _)
  | groupLevel p m level =>
    change execGroupLevel p m level s = .next t at h
    exact steadies_take h (steadies_receive s _ _ fun u => .ite (fun _ => steadies_unwatched u _ _ _ _ _) fun _ => steadies_countIgnored u)
  | presence p joining held cue mask summary =>
    change execPresence p joining held cue mask summary s = .next t at h
    exact steadies_take h (steadies_receive s _ _ fun u =>
      .ite (fun _ => steadies_countIgnored u) fun _ => steadies_takePresence u _ _ _ _ _)
  | statusRequest p target =>
    change execStatusRequest p target s = .next t at h
    exact steadies_take h (steadies_receiveAddressed s _ _ _ fun u =>
      .ite (fun _ => .refl u) fun _ => .of_eq (watched_answerStatus u))
  | statusReply p =>
    change execStatusReply p s = .next t at h
    exact steadies_take h (steadies_receive s _ _ .refl)
  | panelLock p target lock =>
    change execPanelLock p target lock s = .next t at h
    refine steadies_take h (steadies_receiveAddressed s _ _ _ fun u => ?_)
    have hu : u.Steadies { u with pi.lockTaken := true } := .of_eq rfl
    exact hu.trans (.ite (fun _ => steadies_lockPanel _) fun _ => .ite (fun _ => steadies_unlockPanel _) fun _ => .refl _)
  | configBegin p target =>
    change execConfigBegin p target s = .next t at h
    exact steadies_take h (steadies_takeConfig s _ _ _ fun u => steadies_openAssembly)
  | configItem p target code index value =>
    change execConfigItem p target code index value s = .next t at h
    exact steadies_take h (steadies_takeConfig s _ _ _ fun u _ => steadies_takeItem u _ _ _)
  | configEnd p target =>
    change execConfigEnd p target s = .next t at h
    exact steadies_take h (steadies_takeConfig s _ _ _ fun u => steadies_configEnd)
  | stepLoad p target cue channel level fade delay curve mute =>
    change execStepLoad p target cue channel level fade delay curve mute s = .next t at h
    exact steadies_take h (steadies_receiveAddressed s _ _ _ fun u => steadies_checkKey u _ _ _ fun c =>
      .ite (fun _ => steadies_store u _) fun _ => steadies_refuseLoad u _)
  | stepDelete p target cue channel =>
    change execStepDelete p target cue channel s = .next t at h
    exact steadies_take h (steadies_receiveAddressed s _ _ _ fun u => steadies_checkKey u _ _ _ fun c => steadies_store u _)
  | headerLoad p target cue present follow =>
    change execHeaderLoad p target cue present follow s = .next t at h
    exact steadies_take h (steadies_receiveAddressed s _ _ _ fun u => steadies_checkCue u _ _
      (.ite (fun _ => steadies_store u _) fun _ => steadies_refuseLoad u _))
  | headerDelete p target cue =>
    change execHeaderDelete p target cue s = .next t at h
    exact steadies_take h (steadies_receiveAddressed s _ _ _ fun u => steadies_checkCue u _ _ (steadies_store u _))
  | cueErase p target cue =>
    change execCueErase p target cue s = .next t at h
    exact steadies_take h (steadies_receiveAddressed s _ _ _ fun u => steadies_checkCue u _ _ (steadies_store u _))
  | bankSet p target bank remoteGo localGo kind =>
    change execBankSet p target bank remoteGo localGo kind s = .next t at h
    refine steadies_take h (steadies_receiveAddressed s _ _ _ fun u => ?_)
    split
    · exact steadies_refuseLoad u _
    · exact steadies_store u _
  | tableClear p target =>
    change execTableClear p target s = .next t at h
    exact steadies_take h (steadies_receiveAddressed s _ _ _ fun u => steadies_store u _)
  | ignoredFrame frame =>
    change execIgnoredFrame frame s = .next t at h
    refine steadies_take h ?_
    cases frame with
    | senderZero | unknownKind | tooFewBytes => exact (steadies_clash s _).trans (steadies_countIgnored _)
    | extended | remote => exact steadies_countReceived s
  | receiveError =>
    change execReceiveError s = .next t at h
    exact steadies_take h (.of_eq rfl)
  | recoveryTimer =>
    change execRecoveryTimer s = .next t at h
    exact steadies_take h (steadies_unwatched s _ _ _ _ _)
  | glideTimer =>
    change execGlideTimer s = .next t at h
    exact steadies_take h (steadies_unwatched s _ _ _ _ _)
  | keyRelease key =>
    change execKeyRelease key s = .next t at h
    exact steadies_take h (.of_eq rfl)
  | gainRefreshExpiry =>
    change execGainRefreshExpiry s = .next t at h
    exact steadies_take h (steadies_unwatched s _ _ _ _ _)
  | indicatorTimerExpiry =>
    change execIndicatorTimerExpiry s = .next t at h
    exact steadies_take h (steadies_unwatched s _ _ _ _ _)
  | recessiveRun =>
    change execRecessiveRun s = .next t at h
    exact steadies_takeWhen h fun _ => .ite (fun _ => .of_eq (watched_endLinkOff s)) fun _ => .of_eq rfl
  | linkOffEnd =>
    change execLinkOffEnd s = .next t at h
    exact steadies_takeWhen h fun _ => .of_eq (watched_endLinkOff s)
  | frameOffer =>
    change execFrameOffer s = .next t at h
    exact steadies_takeWhen h fun _ => steadies_txQueue s _
  | lostArbitration =>
    change execLostArbitration s = .next t at h
    exact steadies_takeWhen h fun _ => steadies_txQueue s _
  | txSuccess =>
    change execTxSuccess s = .next t at h
    exact steadies_takeWhen h fun _ => .of_eq rfl
  | returnGlideEnd c =>
    change execReturnGlideEnd c s = .next t at h
    exact steadies_takeWhen h fun _ => steadies_unwatched s _ _ _ _ _
  | recoveryGlideEnd c =>
    change execRecoveryGlideEnd c s = .next t at h
    exact steadies_takeWhen h fun _ => steadies_unwatched s _ _ _ _ _
  | staleTimerExpiry m =>
    change execStaleTimerExpiry m s = .next t at h
    exact steadies_takeWhen h fun _ => steadies_unwatched s _ _ _ _ _
  | burstTimerExpiry =>
    change execBurstTimerExpiry s = .next t at h
    exact steadies_takeWhen h fun _ => steadies_unwatched s _ _ _ _ _
  | txError kind =>
    change execTxError kind s = .next t at h
    exact steadies_takeWhen h fun _ => steadies_txError s kind
  | frameCount =>
    change execFrameCount s = .next t at h
    have hcount : s.Steadies { s with seq.frameCount := s.seq.frameCount + 1, fe.frameTimer := .running Config.frameMs } :=
      .of_eq rfl
    exact steadies_take h (hcount.trans (steadies_countFollow _))
  | followExpiry =>
    change execFollowExpiry s = .next t at h
    refine steadies_takeWhen h fun hf => .assume fun hs => ?_
    have hr : s.sl.state = .running := state_running fun hj => by
      have hfollow : s.seq.follow = none := (hs.still hj).noFollow
      simp [hfollow] at hf
    exact (plays_runFollow s).steadies hr
  | advance =>
    change execAdvance s = .next t at h
    exact steadies_take h (.ite (fun _ => .refl s) fun _ => steadies_advanceFades s)
  | fadeComplete c =>
    change execFadeComplete c s = .next t at h
    refine steadies_takeWhen h fun hdue => steadies_fadeComplete s fun hnone => ?_
    rw [hnone] at hdue
    cases hdue
  | pendingStepStart c =>
    change execPendingStepStart c s = .next t at h
    exact steadies_takeWhen h fun hdue => steadies_pendingStart s _ hdue
  | calibrationReading reading =>
    change execCalibrationReading reading s = .next t at h
    exact steadies_takeWhen h fun hn => (steadies_scanOn s hn).trans (steadies_readReference _ _)
  | faderReading slot reading =>
    change execFaderReading slot reading s = .next t at h
    exact steadies_takeWhen h fun hn => (steadies_scanOn s hn).trans (steadies_readFader _ _ _)
  | spareSlotReading slot =>
    change execSpareSlotReading slot s = .next t at h
    exact steadies_takeWhen h fun hn => steadies_scanOn s hn
  | touchLineActive c =>
    change execTouchLineActive c s = .next t at h
    exact steadies_takeWhen h fun _ => steadies_touchLineActive s c
  | touchLineInactive c =>
    change execTouchLineInactive c s = .next t at h
    have hline := steadies_modifyTouch s c (fun t => { t with lineActive := false, rearm := false }) (fun h => h) .inl
    exact steadies_takeWhen h fun _ => .ite (fun _ => hline.trans (steadies_endTouch _ c)) fun _ => hline
  | quietTimerExpiry c =>
    change execQuietTimerExpiry c s = .next t at h
    have hquiet := steadies_modifyTouch s c (fun t => { t with quiet := .stopped }) (fun _ h => absurd rfl h) .inl
    exact steadies_takeWhen h fun _ => hquiet.trans (steadies_endTouch _ c)
  | goKeyPress =>
    change execGoKeyPress s = .next t at h
    exact steadies_takeWhen h fun _ => steadies_pressKey s _ _ fun u => (plays_goKeyRequest u).steadies
  | backKeyPress =>
    change execBackKeyPress s = .next t at h
    exact steadies_takeWhen h fun _ => steadies_pressKey s _ _ fun u => (plays_backKeyRequest u).steadies
  | stopKeyPress =>
    change execStopKeyPress s = .next t at h
    exact steadies_takeWhen h fun _ => steadies_pressKey s _ _ fun u => (plays_stopKeyRequest u).steadies
  | muteKeyPress c =>
    change execMuteKeyPress c s = .next t at h
    exact steadies_takeWhen h fun _ => steadies_pressKey s _ _ fun u _ => .of_eq rfl
  | groupKeyPress k =>
    change execGroupKeyPress k s = .next t at h
    exact steadies_takeWhen h fun _ => steadies_pressKey s _ _ fun u _ => steadies_toggleAssertion u k
  | unlockTimerExpiry =>
    change execUnlockTimerExpiry s = .next t at h
    exact steadies_takeWhen h fun _ hs => { hs with matcher := hs.matcher_zero _ _ }
  | groupRefreshExpiry =>
    change execGroupRefreshExpiry s = .next t at h
    exact steadies_take h (.of_eq (watched_queueLevels _))
  | presenceTimerExpiry =>
    change execPresenceTimerExpiry s = .next t at h
    exact steadies_take h (.of_eq (watched_enqueue _ _))
  | aloneTimerExpiry =>
    change execAloneTimerExpiry s = .next t at h
    exact steadies_takeWhen h fun ht => steadies_aloneTimer s (by simpa using ht)
  | clashTimerExpiry =>
    change execClashTimerExpiry s = .next t at h
    exact steadies_takeWhen h fun _ hs => { hs with clash := iff_of_false Bool.false_ne_true (not_not.mpr rfl) }
  | silenceTimerExpiry p =>
    change execSilenceTimerExpiry p s = .next t at h
    exact steadies_takeWhen h fun ht => steadies_losePeer s (by simpa using ht)
  | windowTimerExpiry =>
    change execWindowTimerExpiry s = .next t at h
    exact steadies_takeWhen h fun ht => steadies_windowTimer s (by simpa using ht)
  | limitTimerExpiry =>
    change execLimitTimerExpiry s = .next t at h
    exact steadies_takeWhen h fun ht => steadies_limitTimer s (by simpa using ht)
  | levelTransfer =>
    change execLevelTransfer s = .next t at h
    unfold execLevelTransfer at h
    split at h
    · exact steadies_take h (steadies_unwatched s _ _ _ _ _)
    · cases h; exact .refl s
  | transferComplete gin =>
    change execTransferComplete gin s = .next t at h
    unfold execTransferComplete at h
    split at h
    · cases h; exact .refl s
    · cases h
      exact ((steadies_readReport s gin).trans (.of_eq (watched_commit _ s))).trans (steadies_endTransfer _ _)
  | malformedLink p l =>
    change execMalformedLink p l s = .next t at h
    exact steadies_take h (steadies_receive s _ _ steadies_countIgnored)

/-- Settles O57: the four invariants together are the one that every command keeps. -/
theorem panelPeersAndWindowKept : Obligations.PanelPeersAndWindowKept := by
  intro s t hconfig hpanel hpeers hwindow h
  have hs : s.watched.Steady := (watched_steady_iff s).mpr ⟨hconfig, hpanel, hpeers, hwindow⟩
  have ht : t.watched.Steady := by
    unfold step at h
    split at h
    · obtain rfl : s = t := Host.Outcome.next.inj h
      exact hs
    · next i rest _ => exact exec_steadies i { s with pending := rest } t h hs
  exact ((watched_steady_iff t).mp ht).2

end Sys2Proof.Machine

/-! SUPPORT. GO, GOTO, HOLD and RESUME as they are received and at the keys, and the follow timer (R39, R42 to R57); it
settles O19 to O24. -/

namespace Sys2Proof.Machine

/-! ## Banks and the guard (R19, R39) -/

theorem allowsRemote_iff (b : Bank) : b.allowsRemote = true ↔ b.remoteGo = true ∧ b.kind ≠ .parked := by
  simp [Bank.allowsRemote]

theorem allowsLocal_iff (b : Bank) : b.allowsLocal = true ↔ b.localGo = true ∧ b.kind ≠ .parked := by
  simp [Bank.allowsLocal]

theorem not_allowsLocal_iff (b : Bank) : ¬b.allowsLocal = true ↔ b.localGo = false ∨ b.kind = .parked := by
  rw [allowsLocal_iff, not_and_or, Bool.not_eq_true, not_not]

/-- A cue whose GO or GOTO is ignored wherever it is received (R48, R50). -/
theorem barred_iff (s : State) (n : Cue) :
    (n = 0 ∨ (!(s.cs.bankOf n).allowsRemote) = true) ↔
      n = 0 ∨ (s.cs.bankOf n).remoteGo = false ∨ (s.cs.bankOf n).kind = .parked := by
  rw [Bool.not_eq_true', ← Bool.not_eq_true, allowsRemote_iff, not_and_or, Bool.not_eq_true, not_not]

theorem heard_withinGuard (s : State) (p : Station) (stamp : Option (BitVec 32)) :
    (s.heard p).withinGuard stamp = s.withinGuard stamp := by simp only [State.withinGuard, State.heard_seq, State.heard_config]

/-- A stamp's age is counted modulo 2^32 (R39). -/
theorem withinGuard_some_iff (s : State) (st : BitVec 32) :
    s.withinGuard (some st) = true ↔
      (s.seq.frameCount.toNat + 4294967296 - st.toNat) % 4294967296 < s.config.guardWindow := by
  have hage : (s.seq.frameCount - st).toNat = (s.seq.frameCount.toNat + 4294967296 - st.toNat) % 4294967296 := by
    rw [BitVec.toNat_sub]
    congr 1
    have := st.isLt
    omega
  simp only [State.withinGuard, decide_eq_true_eq, hage]

/-! ## Received GO, GOTO, HOLD and RESUME (R48, R50, R53, R57) -/

section
variable {s : State} {p : Station}

theorem execGo_from (hp : p ≠ 0) (n : Cue) (cause : Cause) :
    execGo p n cause s =
      .next (State.commit
        (if n = 0 ∨ !(s.cs.bankOf n).allowsRemote then (s.heard p).countIgnored
        else if s.sl.state = .joining then (s.heard p).adoptCue n
        else if n = s.seq.currentCue ∧ (cause = .follow ∨ s.withinGuard s.seq.goStamp = true) then (s.heard p).countIgnored
        else (s.heard p).runGo n cause false) s) := by
  rw [execGo, State.take_eq, State.receive_from hp]
  simp only [State.heard_cs, State.heard_sl_state, State.heard_seq, heard_withinGuard]

theorem execGoto_from (hp : p ≠ 0) (n : Cue) (fade : Fin 65536) (reason : GotoReason) :
    execGoto p n fade reason s =
      .next (State.commit
        (if n = 0 ∨ !(s.cs.bankOf n).allowsRemote then (s.heard p).countIgnored
        else if s.sl.state = .joining then (s.heard p).adoptCue n
        else if n = s.seq.currentCue ∧ s.withinGuard s.seq.goStamp = true then (s.heard p).countIgnored
        else (s.heard p).takeGoto n fade.val) s) := by
  rw [execGoto, State.take_eq, State.receive_from hp]
  simp only [State.heard_cs, State.heard_sl_state, State.heard_seq, heard_withinGuard]

theorem execHold_from (hp : p ≠ 0) :
    execHold p s =
      .next (State.commit
        (if s.sl.state = .joining then (s.heard p).adoptHeld true else { s.heard p with seq.held := true }) s) := by
  rw [execHold, State.take_eq, State.receive_from hp, State.heard_sl_state]

theorem execResume_from (hp : p ≠ 0) :
    execResume p s =
      .next (State.commit
        (if s.sl.state = .joining then (s.heard p).adoptHeld false else { s.heard p with seq.held := false }) s) := by
  rw [execResume, State.take_eq, State.receive_from hp, State.heard_sl_state]

/-- A GO taken whole: the GO and the follow delays of 0 that it begins (R42, R44). -/
theorem exists_goIsTaken {s : State} (hs : s.cs.Legal) (n : Cue) (cause : Cause) (isLocal : Bool) :
    ∃ u, s.GoIsTaken n cause isLocal u ∧ u.FollowsOn (s.runGo n cause isLocal) :=
  ⟨_, s.goIsTaken_takeGo hs n cause isLocal, State.followsOn_runFollow _ (by rw [State.takeGo_cs]; exact hs)⟩

theorem not_joining (hr : s.sl.state = .running) : s.sl.state ≠ .joining := by rw [hr]; exact nofun

theorem heard_countIgnored (s : State) (p : Station) :
    (s.heard p).countIgnored =
      { s.heard p with
        fi.counters.remoteIgnored :=
          if s.fi.counters.remoteIgnored < 63 then s.fi.counters.remoteIgnored + 1 else s.fi.counters.remoteIgnored } := by
  rw [State.countIgnored, State.heard_fi_counters]; rfl

end

/-- Settles O19. -/
theorem goTaken : Obligations.GoTaken := by
  intro p n cause s hp hr hn hremote hkind hdup hs
  have hbar : ¬(n = 0 ∨ (!(s.cs.bankOf n).allowsRemote) = true) := by
    rw [barred_iff, hremote]
    simp [hn, hkind]
  obtain ⟨u, hu, hw⟩ := exists_goIsTaken (s := s.heard p) (by rw [State.heard_cs]; exact hs) n cause false
  refine ⟨u, _, hu, hw, ?_⟩
  show execGo p n cause s = _
  rw [execGo_from hp, if_neg hbar, if_neg (not_joining hr), if_neg hdup]

/-- Settles O20. -/
theorem goAndGotoIgnoredOrAdopted : Obligations.GoAndGotoIgnoredOrAdopted := by
  intro p n cause fade reason s hp
  dsimp only
  rw [← heard_countIgnored, ← barred_iff s n]
  refine ⟨fun h => ?_, fun h => ?_, fun hbar hj => ⟨?_, ?_⟩⟩
  · show execGo p n cause s = _
    rw [execGo_from hp]
    rcases h with hbar | ⟨hr, hdup⟩
    · rw [if_pos hbar]
    · rw [if_neg (not_joining hr), if_pos hdup, ite_self]
  · show execGoto p n fade reason s = _
    rw [execGoto_from hp]
    rcases h with hbar | ⟨hr, hdup⟩
    · rw [if_pos hbar]
    · rw [if_neg (not_joining hr), if_pos hdup, ite_self]
  · show execGo p n cause s = _
    rw [execGo_from hp, if_neg hbar, if_pos hj]; rfl
  · show execGoto p n fade reason s = _
    rw [execGoto_from hp, if_neg hbar, if_pos hj]; rfl

/-- Settles O21. -/
theorem gotoTaken : Obligations.GotoTaken := by
  intro p n fade reason s hp hr hn hremote hkind hdup
  have hbar : ¬(n = 0 ∨ (!(s.cs.bankOf n).allowsRemote) = true) := by
    rw [barred_iff, hremote]
    simp [hn, hkind]
  refine ⟨_, (s.heard p).gotoIsTaken_takeGoto n fade.val, ?_⟩
  show execGoto p n fade reason s = _
  rw [execGoto_from hp, if_neg hbar, if_neg (not_joining hr), if_neg hdup]

/-- Settles O22. -/
theorem holdAndResume : Obligations.HoldAndResume := by
  intro p s hp
  refine ⟨fun hr => ⟨?_, ?_⟩, fun hj => ⟨?_, ?_⟩⟩
  · show execHold p s = _
    rw [execHold_from hp, if_neg (not_joining hr)]
  · show execResume p s = _
    rw [execResume_from hp, if_neg (not_joining hr)]
  · show execHold p s = _
    rw [execHold_from hp, if_pos hj]; rfl
  · show execResume p s = _
    rw [execResume_from hp, if_pos hj]; rfl

/-! ## Keys (R42 to R46, R51, R52) -/

/-- A press on an UNLOCKED panel of a RUNNING station is acted on (R93, R94). -/
theorem takePress_acted {s : State} (hr : s.sl.state = .running) (hl : s.pi.locked = false) {key : Fin 35}
    (hk : s.pi.keyDown.get key = false) (body : State → State) :
    s.takePress key body = .next ((body { s with pi.keyDown := s.pi.keyDown.set key true }).commit s) := by
  rw [State.takePress, State.takeWhen_enabled (by rw [hk]; rfl), State.pressKey]
  dsimp only
  rw [if_neg (not_joining hr), if_neg (by rw [hl]; decide)]

section
variable {s w : State} (hr : s.sl.state = .running) (hl : s.pi.locked = false)
include hr hl

theorem goKeyPress_acted (hk : s.pi.keyDown.get 0 = false)
    (hw : State.goKeyRequest { s with pi.keyDown := s.pi.keyDown.set 0 true } = w) :
    exec .goKeyPress s = .next (w.commit s) := hw ▸ takePress_acted hr hl hk State.goKeyRequest

theorem backKeyPress_acted (hk : s.pi.keyDown.get 1 = false)
    (hw : State.backKeyRequest { s with pi.keyDown := s.pi.keyDown.set 1 true } = w) :
    exec .backKeyPress s = .next (w.commit s) := hw ▸ takePress_acted hr hl hk State.backKeyRequest

theorem stopKeyPress_acted (hk : s.pi.keyDown.get 2 = false)
    (hw : State.stopKeyRequest { s with pi.keyDown := s.pi.keyDown.set 2 true } = w) :
    exec .stopKeyPress s = .next (w.commit s) := hw ▸ takePress_acted hr hl hk State.stopKeyRequest

end

section
variable {s : State} {n : Cue}

theorem goKeyRequest_guarded (hg : s.withinGuard s.seq.keyStamp = true) : s.goKeyRequest = s := if_pos hg

theorem goKeyRequest_held (hg : s.withinGuard s.seq.keyStamp = false) (hh : s.seq.held = true) :
    s.goKeyRequest = { s with seq.keyStamp := some s.seq.frameCount, seq.held := false }.enqueue .resume := by
  rw [State.goKeyRequest, if_neg (by rw [hg]; decide), if_pos hh]

theorem goKeyRequest_free (hg : s.withinGuard s.seq.keyStamp = false) (hh : s.seq.held = false) :
    s.goKeyRequest =
      match s.cs.next s.seq.currentCue with
      | none => State.refuseGo { s with seq.keyStamp := some s.seq.frameCount }
      | some n =>
        if (s.cs.bankOf n).allowsLocal then
          State.runGo { s with seq.keyStamp := some s.seq.frameCount } n .key true
        else State.refuseGo { s with seq.keyStamp := some s.seq.frameCount } := by
  rw [State.goKeyRequest, if_neg (by rw [hg]; decide), if_neg (by rw [hh]; decide)] <;> rfl

theorem goKeyRequest_last (hg : s.withinGuard s.seq.keyStamp = false) (hh : s.seq.held = false)
    (hnext : s.cs.next s.seq.currentCue = none) :
    s.goKeyRequest = State.withGoRefused { s with seq.keyStamp := some s.seq.frameCount } := by
  rw [goKeyRequest_free hg hh, hnext]; rfl

theorem goKeyRequest_barred (hg : s.withinGuard s.seq.keyStamp = false) (hh : s.seq.held = false)
    (hnext : s.cs.next s.seq.currentCue = some n) (hbar : (s.cs.bankOf n).localGo = false ∨ (s.cs.bankOf n).kind = .parked) :
    s.goKeyRequest = State.withGoRefused { s with seq.keyStamp := some s.seq.frameCount } := by
  rw [goKeyRequest_free hg hh, hnext]
  exact if_neg ((not_allowsLocal_iff _).mpr hbar)

theorem goKeyRequest_taken (hg : s.withinGuard s.seq.keyStamp = false) (hh : s.seq.held = false)
    (hnext : s.cs.next s.seq.currentCue = some n)
    (hbar : ¬((s.cs.bankOf n).localGo = false ∨ (s.cs.bankOf n).kind = .parked)) :
    s.goKeyRequest = State.runGo { s with seq.keyStamp := some s.seq.frameCount } n .key true := by
  rw [goKeyRequest_free hg hh, hnext]
  exact if_pos (not_not.mp fun h => hbar ((not_allowsLocal_iff _).mp h))

theorem backKeyRequest_first (hprev : s.cs.previous s.seq.currentCue = none) : s.backKeyRequest = s.withGoRefused := by
  rw [State.backKeyRequest, hprev]; rfl

theorem backKeyRequest_barred (hprev : s.cs.previous s.seq.currentCue = some n)
    (hbar : (s.cs.bankOf n).localGo = false ∨ (s.cs.bankOf n).kind = .parked) : s.backKeyRequest = s.withGoRefused := by
  rw [State.backKeyRequest, hprev]
  exact if_neg ((not_allowsLocal_iff _).mpr hbar)

theorem backKeyRequest_taken (hprev : s.cs.previous s.seq.currentCue = some n)
    (hbar : ¬((s.cs.bankOf n).localGo = false ∨ (s.cs.bankOf n).kind = .parked)) :
    s.backKeyRequest = (s.takeGoto n s.config.backTime).enqueue (.goto n s.config.backTime .back) := by
  rw [State.backKeyRequest, hprev]
  exact if_pos (not_not.mp fun h => hbar ((not_allowsLocal_iff _).mp h))

theorem stopKeyRequest_held (hh : s.seq.held = true) : s.stopKeyRequest = s := if_pos hh

theorem stopKeyRequest_free (hh : s.seq.held = false) : s.stopKeyRequest = { s with seq.held := true }.enqueue .hold :=
  if_neg (by rw [hh]; decide)

end

/-- Settles O23: each key by its branches. -/
theorem sequencerKeys : Obligations.SequencerKeys := by
  intro s hr hl
  refine ⟨fun hk => ⟨fun hg => ?guarded, fun hg => ⟨fun hh => ?resumed, fun hh => ⟨fun hnext => ?last, fun n hnext =>
      ⟨fun hbar => ?barred, fun hbar hs => ?taken⟩⟩⟩⟩,
    fun hk => ⟨fun hprev => ?first, fun n hprev => ⟨fun hbar => ?backBarred, fun hbar => ?back⟩⟩,
    fun hk => ⟨fun hh => ?stopped, fun hh => ?stop⟩⟩
  case guarded => exact goKeyPress_acted hr hl hk (goKeyRequest_guarded hg)
  case resumed => exact goKeyPress_acted hr hl hk (goKeyRequest_held hg hh)
  case last => exact goKeyPress_acted hr hl hk (goKeyRequest_last hg hh hnext)
  case barred => exact goKeyPress_acted hr hl hk (goKeyRequest_barred hg hh hnext hbar)
  case taken =>
    obtain ⟨u, hu, hw⟩ := exists_goIsTaken
      (s := { s with pi.keyDown := s.pi.keyDown.set 0 true, seq.keyStamp := some s.seq.frameCount }) hs n .key true
    exact ⟨u, _, hu, hw, goKeyPress_acted hr hl hk (goKeyRequest_taken hg hh hnext hbar)⟩
  case first => exact backKeyPress_acted hr hl hk (backKeyRequest_first hprev)
  case backBarred => exact backKeyPress_acted hr hl hk (backKeyRequest_barred hprev hbar)
  case back => exact ⟨_, State.gotoIsTaken_takeGoto .., backKeyPress_acted hr hl hk (backKeyRequest_taken hprev hbar)⟩
  case stopped => exact stopKeyPress_acted hr hl hk (stopKeyRequest_held hh)
  case stop => exact stopKeyPress_acted hr hl hk (stopKeyRequest_free hh)

/-! ## The frame and the follow timer (R39, R44, R47, R72) -/

theorem execFrameCount_eq (s : State) :
    execFrameCount s =
      let counted : State := { s with seq.frameCount := s.seq.frameCount + 1, fe.frameTimer := .running 10 }
      .next (State.commit
        (if s.seq.held then counted else State.runFollow { counted with seq.follow := s.seq.follow.map fun r => r - 1 }) s) :=
  rfl

/-- Settles O24. -/
theorem followTimer : Obligations.FollowTimer := by
  intro s
  dsimp only
  refine ⟨rfl, withinGuard_some_iff s, fun h => ?_, fun r hh hf hr => ?_, fun r hh hf hr hs => ?_, fun hf hs => ?_, fun hf => ?_⟩
  · show execFrameCount s = _
    rw [execFrameCount_eq]
    dsimp only
    split
    · rfl
    · next hh =>
      have hf : s.seq.follow = none := h.resolve_left hh
      rw [runFollow_rests (by simp [hf]), hf]
      rfl
  · show execFrameCount s = _
    rw [execFrameCount_eq]
    dsimp only
    rw [if_neg (by rw [hh]; decide), hf, Option.map_some, runFollow_rests]
    simp only [ne_eq, Option.some.injEq]
    omega
  · have hzero : s.seq.follow.map (fun r => r - 1) = some 0 := by rw [hf, Option.map_some, Nat.sub_eq_zero_of_le hr]
    refine ⟨_, State.followsOn_runFollow
      { s with seq.frameCount := s.seq.frameCount + 1, seq.follow := some 0, fe.frameTimer := .running 10 } hs, ?_⟩
    show execFrameCount s = _
    rw [execFrameCount_eq]
    dsimp only
    rw [if_neg (by rw [hh]; decide), hzero]
  · refine ⟨_, State.followsOn_runFollow s hs, ?_⟩
    exact State.takeWhen_enabled (by rw [hf]; rfl) _
  · exact State.takeWhen_idle (by simpa using hf) _

end Sys2Proof.Machine

/-! SUPPORT. A PRESENCE received: the links its sender gives up, the answers to a JOINING peer and the adoption from a running
one (R58, R120, R121, R126, R134, R151, R153); it settles O39. -/

namespace Sys2Proof.Machine

/-! ## The links a station gives up (R118, R120) -/

section
variable {s u : State} {p : Station}

/-- A link record after a release of the links of a station. -/
def LinkRecord.givenUpBy (r : LinkRecord) (p : Station) : LinkRecord :=
  if r.holder = some p then { r with holder := none, held := false } else r

theorem LinkRecord.givenUpBy_holder (r : LinkRecord) (p : Station) : (r.givenUpBy p).holder ≠ some p := by
  unfold LinkRecord.givenUpBy
  split
  · exact nofun
  · assumption

theorem LinkRecord.givenUpBy_twice (r : LinkRecord) (p : Station) : (r.givenUpBy p).givenUpBy p = r.givenUpBy p :=
  if_neg (r.givenUpBy_holder p)

theorem releaseIfHeldBy_link (s : State) (p : Station) (l k : LinkNo) :
    (State.releaseIfHeldBy p l s).tk.link.get k =
      if l = k then (s.tk.link.get k).givenUpBy p else s.tk.link.get k := by
  unfold State.releaseIfHeldBy
  split
  · next h =>
    rw [membersRelease_link, State.modifyLink, Table.get_modify]
    split
    · next hk => subst hk; exact (if_pos h).symm
    · rfl
  · next h =>
    split
    · next hk => subst hk; exact (if_neg h).symm
    · rfl

theorem releaseIfHeldBy_channel (hu : u.config = s.config) (p : Station) (l : LinkNo) (c : Channel) :
    (State.releaseIfHeldBy p l u).tk.chan.get c =
      if s.linkOf c = some l ∧ (u.tk.link.get l).holder = some p ∧ s.mode c ≠ .safe ∧
          (u.tk.chan.get c).state = .touched then
        (u.tk.chan.get c).released (u.tk.link.get l).level (s.mode c) s.config.returnTime
      else u.tk.chan.get c := by
  unfold State.releaseIfHeldBy
  split
  · next h =>
    rw [State.membersRelease_eq (s := s) (u := u.modifyLink l _) hu]
    simp only [Table.get_ofFn, State.modifyLink, Table.get_modify_self, h, true_and]
  · next h => rw [if_neg fun k => h k.2.1]

theorem releaseIfHeldBy_levels (s : State) (p : Station) (l : LinkNo) : s.LevelsOnly (State.releaseIfHeldBy p l s) := by
  unfold State.releaseIfHeldBy
  split
  · exact (s.levelsOnly_modifyLink l _).trans (State.levelsOnly_membersRelease ..)
  · exact .refl s

theorem releaseIfHeldBy_sl_fi (s : State) (p : Station) (l : LinkNo) :
    (State.releaseIfHeldBy p l s).sl = s.sl ∧ (State.releaseIfHeldBy p l s).fi = s.fi := by
  unfold State.releaseIfHeldBy
  split
  · exact ⟨by simp only [State.membersRelease, State.modifyLink], by simp only [State.membersRelease, State.modifyLink]⟩
  · exact ⟨rfl, rfl⟩

/-- The links of a list that `p` holds are released, one after another. -/
def State.releaseListed (p : Station) (ks : List LinkNo) (s : State) : State :=
  ks.foldl (fun t l => State.releaseIfHeldBy p l t) s

theorem releaseListed_cons (p : Station) (l : LinkNo) (ks : List LinkNo) (s : State) :
    s.releaseListed p (l :: ks) = (State.releaseIfHeldBy p l s).releaseListed p ks := rfl

theorem releaseListed_link (p : Station) (ks : List LinkNo) (s : State) (k : LinkNo) :
    (s.releaseListed p ks).tk.link.get k = if k ∈ ks then (s.tk.link.get k).givenUpBy p else s.tk.link.get k := by
  induction ks generalizing s with
  | nil => simp [State.releaseListed]
  | cons l ks ih =>
    rw [releaseListed_cons, ih, releaseIfHeldBy_link]
    by_cases hl : l = k
    · simp only [hl, if_true, LinkRecord.givenUpBy_twice, ite_self, List.mem_cons, true_or]
    · simp only [hl, if_false, List.mem_cons, Ne.symm hl, false_or]

theorem releaseListed_unlinked (hu : u.config = s.config) (p : Station) (ks : List LinkNo) {c : Channel}
    (hc : s.linkOf c = none) : (u.releaseListed p ks).tk.chan.get c = u.tk.chan.get c := by
  induction ks generalizing u with
  | nil => rfl
  | cons l ks ih =>
    rw [releaseListed_cons, ih ((releaseIfHeldBy_levels u p l).config.trans hu), releaseIfHeldBy_channel hu, hc]
    exact if_neg nofun

/-- A TOUCHED channel that follows a released link takes its release transition (R118). -/
theorem releaseListed_channel (hu : u.config = s.config) (p : Station) (ks : List LinkNo) {c : Channel} {k : LinkNo}
    (hc : s.linkOf c = some k) :
    (u.releaseListed p ks).tk.chan.get c =
      if k ∈ ks ∧ (u.tk.link.get k).holder = some p ∧ s.mode c ≠ .safe ∧ (u.tk.chan.get c).state = .touched then
        (u.tk.chan.get c).released (u.tk.link.get k).level (s.mode c) s.config.returnTime
      else u.tk.chan.get c := by
  induction ks generalizing u with
  | nil => simp [State.releaseListed]
  | cons l ks ih =>
    rw [releaseListed_cons, ih ((releaseIfHeldBy_levels u p l).config.trans hu), releaseIfHeldBy_link,
      releaseIfHeldBy_channel hu, hc]
    by_cases hl : l = k
    · subst hl
      simp only [if_true, LinkRecord.givenUpBy_holder, false_and, and_false, if_false, List.mem_cons, true_or, true_and]
    · simp only [hl, if_false, List.mem_cons, Ne.symm hl, false_or, Option.some.injEq, false_and]

end

/-- Every link `p` holds is released and its members with it (R118, R120). -/
theorem releaseHeldBy_listed (s : State) (p : Station) : s.releaseHeldBy p = s.releaseListed p (List.finRange 32) := rfl

theorem releaseHeldBy_link (s : State) (p : Station) (k : LinkNo) :
    (s.releaseHeldBy p).tk.link.get k = (s.tk.link.get k).givenUpBy p := by
  rw [releaseHeldBy_listed, releaseListed_link, if_pos (List.mem_finRange k)]

theorem releaseHeldBy_channel (s : State) (p : Station) (c : Channel) :
    (s.releaseHeldBy p).tk.chan.get c =
      match s.linkOf c with
      | none => s.tk.chan.get c
      | some l =>
        if (s.tk.link.get l).holder = some p ∧ s.mode c ≠ .safe ∧ (s.tk.chan.get c).state = .touched then
          (s.tk.chan.get c).released (s.tk.link.get l).level (s.mode c) s.config.returnTime
        else s.tk.chan.get c := by
  rw [releaseHeldBy_listed]
  split
  · next h => exact releaseListed_unlinked rfl p _ h
  · next l h => rw [releaseListed_channel rfl p _ h]; simp only [List.mem_finRange, true_and]

theorem releaseHeldBy_sl (s : State) (p : Station) : (s.releaseHeldBy p).sl = s.sl :=
  forEach_field State.sl _ (fun l t => (releaseIfHeldBy_sl_fi t p l).1) s

theorem releaseHeldBy_fi (s : State) (p : Station) : (s.releaseHeldBy p).fi = s.fi :=
  forEach_field State.fi _ (fun l t => (releaseIfHeldBy_sl_fi t p l).2) s

/-! ## Messages that join a queue with room (R145, R146) -/

/-- A message as it joins the queue. -/
def Msg.waiting (m : Msg) : TxEntry := ⟨m, 0, false, none⟩

/-- A state with another transmit queue. -/
def State.withQueue (s : State) (q : List TxEntry) : State := { s with sl.queue := q }

/-- Messages queued one after another. -/
def State.enqueueAll (s : State) (ms : List Msg) : State := ms.foldl State.enqueue s

/-- A later message that neither coalesces with an earlier one nor goes before it (R145, R146). -/
def Msg.Follows (a b : Msg) : Prop := b.sameKey a = false ∧ a.kind ≤ b.kind

theorem enqueue_last {s : State} {m : Msg} (hn : s.sl.station ≠ 0) (hb : s.busOff = false)
    (hroom : s.sl.queue.length < 16) (hq : ∀ x ∈ s.sl.queue, x.msg.Follows m) :
    s.enqueue m = s.withQueue (s.sl.queue ++ [m.waiting]) := by
  have hkey : ¬(s.sl.queue.any fun x => m.sameKey x.msg) = true := by
    simpa [List.any_eq_true] using fun x hx => (hq x hx).1
  have hlen : s.sl.queue.length < Config.maxQueue := hroom
  unfold State.enqueue joinQueue
  rw [if_neg hn, if_neg (by simp [hb])]
  simp only [if_neg hkey, if_pos hlen, Bool.false_eq_true, if_false]
  rw [placeEntry_last _ _ fun x hx => (hq x hx).2]
  rfl

/-- Messages that follow one another join a queue that has room for all of them, at its end. -/
theorem enqueueAll_last {s : State} {as bs : List Msg} (hn : s.sl.station ≠ 0) (hb : s.busOff = false)
    (hroom : as.length + bs.length ≤ 16) (hms : (as ++ bs).Pairwise Msg.Follows) :
    (s.withQueue (as.map Msg.waiting)).enqueueAll bs = s.withQueue ((as ++ bs).map Msg.waiting) := by
  induction bs generalizing as with
  | nil => rw [List.append_nil]; rfl
  | cons m bs ih =>
    rw [List.length_cons] at hroom
    have hearlier : ∀ a ∈ as, a.Follows m := fun a ha => (List.pairwise_append.mp hms).2.2 a ha m (by simp)
    have hfirst : (s.withQueue (as.map Msg.waiting)).enqueue m = s.withQueue ((as ++ [m]).map Msg.waiting) := by
      rw [enqueue_last (s := s.withQueue (as.map Msg.waiting)) hn hb (by simp [State.withQueue]; omega), List.map_append]
      · rfl
      · intro x hx
        obtain ⟨a, ha, rfl⟩ := List.mem_map.mp hx
        exact hearlier a ha
    show ((s.withQueue (as.map Msg.waiting)).enqueue m).enqueueAll bs = _
    rw [hfirst, ih (by simp; omega) (by simpa using hms)]
    simp

/-- A walk that queues a message for some indices, where no message changes what the walk asks and sends, queues a list. -/
theorem enqueue_walk {ι : Type} (c : State → ι → Bool) (msg : State → ι → Msg) (hc : ∀ s m, c (s.enqueue m) = c s)
    (hmsg : ∀ s m, msg (s.enqueue m) = msg s) (l : List ι) (s : State) :
    l.foldl (fun t i => if c t i then t.enqueue (msg t i) else t) s =
      s.enqueueAll ((l.filter (c s)).map (msg s)) := by
  induction l generalizing s with
  | nil => rfl
  | cons i l ih =>
    rw [List.foldl_cons, List.filter_cons]
    split
    · rw [ih, hc, hmsg]; rfl
    · exact ih s

/-! ## The answers to a JOINING peer (R121, R126, R153; log 23) -/

/-- The STATEs a JOINING peer is told. -/
def State.linkAnswers (s : State) : List Msg := ((List.finRange 32).filter s.answersLink).map fun l => s.linkMsg l .state

/-- The GROUP_LEVELs of the owned-here masters that are FRESH. -/
def State.levelAnswers (s : State) : List Msg :=
  ((List.finRange 8).filter fun m => s.ownedHere m && (s.sg.master.get m).fresh).map fun m =>
    .groupLevel m (s.sg.master.get m).level

theorem answerLinks_eq (s : State) : s.answerLinks = s.enqueueAll s.linkAnswers :=
  enqueue_walk State.answersLink (fun t l => t.linkMsg l .state)
    (fun s m => by funext l; simp only [State.answersLink, State.enqueue_tk, State.enqueue_sl_station])
    (fun s m => by funext l; simp only [State.linkMsg, State.enqueue_tk]) (List.finRange 32) s

theorem queueLevels_eq (s : State) : s.queueLevels = s.enqueueAll s.levelAnswers :=
  enqueue_walk (fun t m => t.ownedHere m && (t.sg.master.get m).fresh) (fun t m => .groupLevel m (t.sg.master.get m).level)
    (fun s m => by
      funext l
      simp only [State.ownedHere, State.config, State.enqueue_sg, State.enqueue_sl_config, State.enqueue_sl_station])
    (fun s m => by funext l; simp only [State.enqueue_sg]) (List.finRange 8) s

theorem linkAnswers_pairwise (s : State) : s.linkAnswers.Pairwise Msg.Follows := by
  refine List.pairwise_map.mpr (((List.nodup_finRange 32).filter _).imp fun {a b} hab => ⟨?_, le_rfl⟩)
  exact beq_eq_false_iff_ne.mpr hab.symm

theorem levelAnswers_pairwise (s : State) : s.levelAnswers.Pairwise Msg.Follows := by
  refine List.pairwise_map.mpr (((List.nodup_finRange 8).filter _).imp fun {a b} hab => ⟨?_, le_rfl⟩)
  exact beq_eq_false_iff_ne.mpr hab.symm

/-- STATEs go before GROUP_LEVELs, and both before the PRESENCE. -/
theorem answers_pairwise (s : State) : (s.linkAnswers ++ s.levelAnswers ++ [s.presenceMsg]).Pairwise Msg.Follows := by
  refine List.pairwise_append.mpr ⟨List.pairwise_append.mpr ⟨linkAnswers_pairwise s, levelAnswers_pairwise s, ?_⟩,
    List.pairwise_singleton .., ?_⟩
  · intro a ha b hb
    obtain ⟨l, -, rfl⟩ := List.mem_map.mp ha
    obtain ⟨m, -, rfl⟩ := List.mem_map.mp hb
    exact ⟨rfl, show 8 ≤ 16 by decide⟩
  · intro a ha b hb
    rw [List.mem_singleton.mp hb]
    rcases List.mem_append.mp ha with ha | ha
    · obtain ⟨l, -, rfl⟩ := List.mem_map.mp ha
      exact ⟨rfl, show 8 ≤ 20 by decide⟩
    · obtain ⟨m, -, rfl⟩ := List.mem_map.mp ha
      exact ⟨rfl, show 16 ≤ 20 by decide⟩

/-- The state of a station that has answered a JOINING peer, where its queue was empty and all finds room. -/
theorem answers_eq {s : State} (hn : s.sl.station ≠ 0) (hb : s.busOff = false) (hq : s.sl.queue = [])
    (hroom : s.linkAnswers.length + s.levelAnswers.length < 16) :
    s.answerLinks.queueLevels.queuePresence =
      s.withQueue ((s.linkAnswers ++ s.levelAnswers ++ [s.presenceMsg]).map Msg.waiting) := by
  have hall := answers_pairwise s
  have htwo := (List.pairwise_append.mp hall).1
  have hempty : s = s.withQueue ([].map Msg.waiting) := by rw [List.map_nil, ← hq]; rfl
  have hlinks : s.answerLinks = s.withQueue (s.linkAnswers.map Msg.waiting) := by
    rw [answerLinks_eq]
    conv_lhs => rw [hempty]
    exact enqueueAll_last (as := []) (bs := s.linkAnswers) hn hb (by simp; omega) (List.pairwise_append.mp htwo).1
  have hlevels : s.answerLinks.queueLevels = s.withQueue ((s.linkAnswers ++ s.levelAnswers).map Msg.waiting) := by
    rw [hlinks, queueLevels_eq]
    exact enqueueAll_last (bs := s.levelAnswers) hn hb (by omega) htwo
  rw [hlevels]
  exact enqueueAll_last (bs := [s.presenceMsg]) hn hb (by simp; omega) hall

/-! ## A PRESENCE taken (R153) -/

/-- The state of a station that has recorded a PRESENCE of a peer it has heard (R134, R151). -/
def State.recorded (s : State) (p : Station) (joining held : Bool) (cue : Cue) (mask : BitVec 16) : State :=
  ((s.heard p).recordPresence p joining held cue).replaceMask p mask

section
variable {s : State} {p : Station} (joining held : Bool) (cue : Cue) (mask : BitVec 16) (summary : BitVec 8)

theorem heard_eq (hp : p ≠ s.sl.station) : s.heard p = s.countReceived.hearPeer p := if_neg hp

theorem heard_peer (hp : p ≠ s.sl.station) : (s.heard p).sl.peer = s.sl.peer.modify p Peer.heard := by
  rw [heard_eq hp, State.hearPeer_eq]; rfl

theorem heard_fi (hp : p ≠ s.sl.station) : (s.heard p).fi = s.fi := by
  rw [heard_eq hp, State.hearPeer_eq]; rfl

theorem recorded_peer (hp : p ≠ s.sl.station) (q : Station) :
    (s.recorded p joining held cue mask).sl.peer.get q =
      if q = p then ⟨.present, joining, held, cue, .running 1000⟩ else s.sl.peer.get q := by
  simp only [State.recorded, State.replaceMask, State.recordPresence, heard_peer hp]
  by_cases hq : p = q
  · subst hq; simp only [Table.get_modify_self, if_true]; rfl
  · simp only [Table.get_modify, hq, Ne.symm hq, if_false]

theorem recorded_asserters (g : GroupNo) (q : Station) :
    ((s.recorded p joining held cue mask).sg.asserters.get g).get q =
      if q = p then mask.getLsbD g.val else (s.sg.asserters.get g).get q := by
  simp only [State.recorded, State.replaceMask, State.recordPresence, Table.get_mapAt, State.heard_sg, Table.get_set,
    @eq_comm _ q p]

theorem recorded_cs : (s.recorded p joining held cue mask).cs = s.cs := by
  simp only [State.recorded, State.replaceMask, State.recordPresence, State.heard_cs]

theorem recorded_seq : (s.recorded p joining held cue mask).seq = s.seq := by
  simp only [State.recorded, State.replaceMask, State.recordPresence, State.heard_seq]

theorem recorded_fe : (s.recorded p joining held cue mask).fe = s.fe := by
  simp only [State.recorded, State.replaceMask, State.recordPresence, State.heard_fe]

theorem recorded_pi : (s.recorded p joining held cue mask).pi = s.pi := by
  simp only [State.recorded, State.replaceMask, State.recordPresence, State.heard_pi]

theorem recorded_tk : (s.recorded p joining held cue mask).tk = s.tk := by
  simp only [State.recorded, State.replaceMask, State.recordPresence, State.heard_tk]

theorem recorded_config : (s.recorded p joining held cue mask).config = s.config := by
  simp only [State.config, State.recorded, State.replaceMask, State.recordPresence, State.heard_sl_config]

theorem recorded_queue : (s.recorded p joining held cue mask).sl.queue = s.sl.queue := by
  simp only [State.recorded, State.replaceMask, State.recordPresence, State.heard_sl_queue]

theorem recorded_station : (s.recorded p joining held cue mask).sl.station = s.sl.station := by
  simp only [State.recorded, State.replaceMask, State.recordPresence, State.heard_sl_station]

theorem recorded_state : (s.recorded p joining held cue mask).sl.state = s.sl.state := by
  simp only [State.recorded, State.replaceMask, State.recordPresence, State.heard_sl_state]

theorem recorded_fi (hp : p ≠ s.sl.station) : (s.recorded p joining held cue mask).fi = s.fi := by
  simp only [State.recorded, State.replaceMask, State.recordPresence, heard_fi hp]

theorem recorded_busOff : (s.recorded p joining held cue mask).busOff = s.busOff := by
  simp only [State.busOff, State.recorded, State.replaceMask, State.recordPresence, State.heard_sl_txErrors]

theorem recorded_master : (s.recorded p joining held cue mask).sg.master = s.sg.master := by
  simp only [State.recorded, State.replaceMask, State.recordPresence, State.heard_sg]

theorem recorded_linkOf : (s.recorded p joining held cue mask).linkOf = s.linkOf := by
  funext c; simp only [State.linkOf, recorded_config]

theorem recorded_mode : (s.recorded p joining held cue mask).mode = s.mode := by
  funext c; simp only [State.mode, recorded_config]

theorem takePresence_eq (s : State) :
    s.takePresence p joining held cue mask =
      if joining then
        (((s.recordPresence p joining held cue).replaceMask p mask).releaseHeldBy p).answerLinks.queueLevels.queuePresence
      else if s.sl.state = .joining then ((s.recordPresence p joining held cue).replaceMask p mask).adoptPresence p cue held
      else (s.recordPresence p joining held cue).replaceMask p mask := by
  have hstate : ((s.recordPresence p joining held cue).replaceMask p mask).sl.state = s.sl.state := rfl
  simp only [State.takePresence, hstate]

theorem execPresence_from (h0 : p ≠ 0) (hp : p ≠ s.sl.station) :
    execPresence p joining held cue mask summary s =
      .next (State.commit
        (if joining then ((s.recorded p joining held cue mask).releaseHeldBy p).answerLinks.queueLevels.queuePresence
        else if s.sl.state = .joining then (s.recorded p joining held cue mask).adoptPresence p cue held
        else s.recorded p joining held cue mask) s) := by
  rw [execPresence, State.take_eq, State.receive_from h0, State.heard_sl_station, if_neg hp, takePresence_eq, State.heard_sl_state]
  simp only [State.recorded]

end

theorem levelsOnly_queueLevels (s : State) : s.LevelsOnly s.queueLevels := by
  refine State.levelsOnly_forEach _ (fun m t => ?_) s
  unfold State.queueLevel
  split
  · exact t.levelsOnly_enqueue _
  · exact .refl t

theorem levelsOnly_answers (s : State) : s.LevelsOnly s.answerLinks.queueLevels.queuePresence :=
  (s.levelsOnly_answerLinks.trans (levelsOnly_queueLevels _)).trans (State.levelsOnly_enqueue ..)

theorem enqueueAll_field {β : Type} (g : State → β) (hg : ∀ s m, g (State.enqueue s m) = g s) (s : State) (ms : List Msg) :
    g (s.enqueueAll ms) = g s := by
  induction ms generalizing s with
  | nil => rfl
  | cons m ms ih => exact (ih (s.enqueue m)).trans (hg s m)

theorem answers_tk_fe (s : State) :
    s.answerLinks.queueLevels.queuePresence.tk = s.tk ∧ s.answerLinks.queueLevels.queuePresence.fe = s.fe := by
  rw [State.queuePresence, State.enqueue_tk, State.enqueue_fe, queueLevels_eq, answerLinks_eq,
    enqueueAll_field State.tk State.enqueue_tk, enqueueAll_field State.tk State.enqueue_tk,
    enqueueAll_field State.fe State.enqueue_fe, enqueueAll_field State.fe State.enqueue_fe]
  exact ⟨rfl, rfl⟩

/-- What a message of a JOINING peer leaves beside the links, their members and the queue (R120, R153). -/
theorem joiningPeer_levels (s : State) (p : Station) :
    s.LevelsOnly (s.releaseHeldBy p).answerLinks.queueLevels.queuePresence :=
  (s.levelsOnly_releaseHeldBy p).trans (levelsOnly_answers _)

theorem joiningPeer_fe (s : State) (p : Station) :
    (s.releaseHeldBy p).answerLinks.queueLevels.queuePresence.fe = s.fe :=
  (answers_tk_fe _).2.trans (releaseHeldBy_fe s p)

theorem joiningPeer_tk (s : State) (p : Station) :
    (s.releaseHeldBy p).answerLinks.queueLevels.queuePresence.tk = (s.releaseHeldBy p).tk :=
  (answers_tk_fe _).1

/-- The station whose PRESENCE was adopted last gives way to one of its own number or a lower (R58). -/
def State.YieldsTo (s : State) (p : Station) : Prop := ∀ a, s.seq.adoptionSource = some a → p.val ≤ a.val

theorem adoptPresence_of_yields {s : State} {p : Station} (h : s.YieldsTo p) (cue : Cue) (held : Bool) :
    s.adoptPresence p cue held =
      { s with
        seq.adoptionSource := some p
        seq.adoptedCue := if s.seq.cueSettled then s.seq.adoptedCue else cue
        seq.adoptedHeld := if s.seq.heldSettled then s.seq.adoptedHeld else held } := by
  unfold State.adoptPresence
  cases ha : s.seq.adoptionSource with
  | none => rfl
  | some a => simp only [decide_eq_true (h a ha), if_true]

theorem adoptPresence_of_not_yields {s : State} {p : Station} (h : ¬s.YieldsTo p) (cue : Cue) (held : Bool) :
    s.adoptPresence p cue held = s := by
  obtain ⟨a, ha, hlt⟩ : ∃ a, s.seq.adoptionSource = some a ∧ ¬p.val ≤ a.val := by simpa [State.YieldsTo] using h
  unfold State.adoptPresence
  simp only [ha, decide_eq_false hlt, Bool.false_eq_true, if_false]

section
variable {s : State} {p : Station} (held : Bool) (cue : Cue) (mask : BitVec 16)

/-- The answers to a JOINING peer, told of the state before its PRESENCE. -/
theorem recorded_linkAnswers (hp : p ≠ s.sl.station) :
    ((s.recorded p true held cue mask).releaseHeldBy p).linkAnswers =
      ((List.finRange 32).filter fun l =>
        decide ((s.tk.link.get l).holder = some s.sl.station) ||
          (decide ((s.tk.link.get l).holder = none ∨ (s.tk.link.get l).holder = some p) &&
            decide ((s.tk.link.get l).lastToucher = some s.sl.station))).map fun l =>
        .link l .state (s.tk.link.get l).stamp (s.tk.link.get l).lastToucher
          ((s.tk.link.get l).held && decide ((s.tk.link.get l).holder ≠ some p)) (s.tk.link.get l).level := by
  have hlink : ∀ l, ((s.recorded p true held cue mask).releaseHeldBy p).tk.link.get l = (s.tk.link.get l).givenUpBy p :=
    fun l => by rw [releaseHeldBy_link, recorded_tk]
  have hstation : ((s.recorded p true held cue mask).releaseHeldBy p).sl.station = s.sl.station := by
    rw [releaseHeldBy_sl, recorded_station]
  rw [State.linkAnswers]
  refine (congrArg (List.map _) (List.filter_congr fun l _ => ?asked)).trans (List.map_congr_left fun l _ => ?told)
  case asked =>
    rw [Bool.eq_iff_iff]
    simp only [State.answersLink, hlink, hstation, LinkRecord.givenUpBy]
    by_cases hheld : (s.tk.link.get l).holder = some p <;> simp [hheld, hp]
  case told =>
    simp only [State.linkMsg, hlink, LinkRecord.givenUpBy]
    by_cases hheld : (s.tk.link.get l).holder = some p <;> simp [hheld]

theorem recorded_levelAnswers :
    ((s.recorded p true held cue mask).releaseHeldBy p).levelAnswers = s.levelAnswers := by
  have hl := (s.recorded p true held cue mask).levelsOnly_releaseHeldBy p
  have hsg : ((s.recorded p true held cue mask).releaseHeldBy p).sg.master = s.sg.master := by rw [hl.sg, recorded_master]
  simp only [State.levelAnswers, State.ownedHere, hsg, hl.config, recorded_config, hl.station, recorded_station]

theorem recorded_presenceMsg (hp : p ≠ s.sl.station) :
    ((s.recorded p true held cue mask).releaseHeldBy p).presenceMsg = s.presenceMsg := by
  have hl := (s.recorded p true held cue mask).levelsOnly_releaseHeldBy p
  have hfi : ((s.recorded p true held cue mask).releaseHeldBy p).fi = s.fi := by rw [releaseHeldBy_fi, recorded_fi _ _ _ _ hp]
  simp only [State.presenceMsg, State.ownMask, State.faultSummary, State.faultActive, State.flag, hfi, hl.config,
    recorded_config, hl.state, recorded_state, hl.seq, recorded_seq, hl.pi, recorded_pi]

end

/-- A PRESENCE with the flag clear moves SEQ at most, and SEQ only while JOINING, for a peer it yields to (R58). -/
theorem runningPeer_eq (r : State) (p : Station) (held : Bool) (cue : Cue) :
    ∃ seq', (if r.sl.state = .joining then r.adoptPresence p cue held else r) = { r with seq := seq' } ∧
      (r.sl.state = .running → seq' = r.seq) ∧
      (r.sl.state = .joining →
        (¬r.YieldsTo p → seq' = r.seq) ∧
        (r.YieldsTo p →
          seq' =
            { r.seq with
              adoptionSource := some p
              adoptedCue := if r.seq.cueSettled then r.seq.adoptedCue else cue
              adoptedHeld := if r.seq.heldSettled then r.seq.adoptedHeld else held })) := by
  by_cases hj : r.sl.state = .joining
  · rw [if_pos hj]
    by_cases hy : r.YieldsTo p
    · exact ⟨_, adoptPresence_of_yields hy cue held, fun hr => absurd (hr.symm.trans hj) nofun,
        fun _ => ⟨fun hn => absurd hy hn, fun _ => rfl⟩⟩
    · exact ⟨_, adoptPresence_of_not_yields hy cue held, fun hr => absurd (hr.symm.trans hj) nofun,
        fun _ => ⟨fun _ => rfl, fun h => absurd h hy⟩⟩
  · rw [if_neg hj]
    exact ⟨_, rfl, fun _ => rfl, fun h => absurd h hj⟩

/-- Settles O39: the record of the peer, then the links given up and the answers, or the adoption. -/
theorem presenceTakenAndAnswered : Obligations.PresenceTakenAndAnswered := by
  refine ⟨fun p joining held cue mask summary s h0 hp => ⟨_, execPresence_from joining held cue mask summary h0 hp, ?_⟩,
    fun p held cue mask summary s h0 hp hn hb hq => ?_⟩
  · simp only [State.commit_cs, State.commit_seq, State.commit_fe, State.commit_pi, State.commit_tk, State.commit_sg,
      State.commit_sl, State.commit_config]
    cases joining with
    | true =>
      have hl := joiningPeer_levels (s.recorded p true held cue mask) p
      simp only [if_true, hl.cs, hl.seq, hl.pi, hl.sg, hl.config, hl.peer, joiningPeer_fe, joiningPeer_tk,
        recorded_cs, recorded_seq, recorded_fe, recorded_pi, recorded_master, recorded_config]
      refine ⟨trivial, trivial, trivial, trivial, trivial, recorded_peer true held cue mask hp,
        recorded_asserters true held cue mask, fun _ => ⟨trivial, fun l => ?link, fun c => ?channel⟩, nofun⟩
      case link =>
        rw [releaseHeldBy_link, recorded_tk, LinkRecord.givenUpBy]
      case channel =>
        rw [releaseHeldBy_channel, recorded_linkOf, recorded_mode, recorded_config, recorded_tk] <;> rfl
    | false =>
      obtain ⟨seq', hw, hrunning, hjoining⟩ := runningPeer_eq (s.recorded p false held cue mask) p held cue
      rw [recorded_state] at hw hrunning hjoining
      rw [State.YieldsTo, recorded_seq] at hjoining
      rw [recorded_seq] at hrunning
      simp only [Bool.false_eq_true, if_false, hw, State.config, recorded_cs, recorded_fe, recorded_pi, recorded_master,
        recorded_tk, recorded_queue]
      exact ⟨trivial, trivial, trivial, trivial, recorded_config false held cue mask, recorded_peer false held cue mask hp,
        recorded_asserters false held cue mask, False.elim, fun _ => ⟨trivial, trivial, hrunning, hjoining⟩⟩
  · intro own links masters hroom
    refine ⟨_, execPresence_from true held cue mask summary h0 hp, ?_⟩
    have hl := (s.recorded p true held cue mask).levelsOnly_releaseHeldBy p
    have hmasters : s.levelAnswers = masters.map fun m => .groupLevel m (s.sg.master.get m).level :=
      congrArg (List.map _) (List.filter_congr fun m _ => by rw [Bool.eq_iff_iff]; simp [State.ownedHere, own])
    rw [if_pos rfl, State.commit_sl, answers_eq]
    · rw [recorded_linkAnswers held cue mask hp, recorded_levelAnswers, recorded_presenceMsg held cue mask hp, hmasters]
      simp only [State.withQueue, List.map_append, List.map_map]
      rfl
    · rwa [hl.station, recorded_station]
    · rwa [hl.busOff, recorded_busOff]
    · rwa [releaseHeldBy_sl, recorded_queue]
    · rw [recorded_linkAnswers held cue mask hp, recorded_levelAnswers, hmasters, List.length_map, List.length_map]
      exact hroom

end Sys2Proof.Machine

/-! SUPPORT. The end of the JOINING window: the assembly settled, the rejoin, the panel and the PRESENCE (R49, R59, R76, R88,
R107, R122, R130, R154 to R157); it settles O48 and O49. -/

namespace Sys2Proof.Machine

/-! ## The rejoin (R49, R59) -/

section
variable (u : State)

/-- SEQ after the rejoin. -/
def State.rejoinedSeq : Sequencer :=
  { u.seq with
    held := u.seq.adoptedHeld
    currentCue := if u.seq.adoptedCue = 0 then u.seq.currentCue else u.seq.adoptedCue
    goStamp := if u.seq.adoptedCue = 0 then u.seq.goStamp else some u.seq.frameCount
    follow := if u.seq.adoptedCue = 0 then u.seq.follow else none
    adoptedCue := 0
    adoptedHeld := false
    adoptionSource := none
    cueSettled := false
    heldSettled := false }

/-- One channel of FE after the rejoin: as it was in SAFE, and otherwise fading to its tracked level. -/
def State.rejoinedFade (c : Channel) : FadeChannel :=
  let n := u.seq.adoptedCue
  let tk := u.tk.chan.get c
  if u.mode c = .safe then u.fe.chan.get c
  else if u.config.gotoTime = 0 then ⟨u.cs.trackedLevel c n, u.cs.trackedMute c n, none⟩
  else
    let start := if tk.state = .latched then tk.manual else (u.fe.chan.get c).cueLevel
    ⟨start, u.cs.trackedMute c n, some ⟨n, start, u.cs.trackedLevel c n, u.config.gotoTime, 0, .linear⟩⟩

/-- One channel of TK after the rejoin: a GOTO takes a LATCHED channel out of LATCHED (R76, R107). -/
def State.rejoinedTakeover (c : Channel) : TakeoverChannel :=
  let tk := u.tk.chan.get c
  if u.seq.adoptedCue ≠ 0 ∧ u.mode c ≠ .safe ∧ tk.state = .latched then { tk with state := .cue } else tk

theorem rejoin_seq : u.rejoin.seq = u.rejoinedSeq := by
  unfold State.rejoin State.rejoinedSeq
  by_cases h : u.seq.adoptedCue = 0
  · simp only [if_pos h]
  · simp only [if_neg h]
    rw [u.gotoIsTaken_takeGoto u.seq.adoptedCue u.config.gotoTime]

theorem rejoin_eq :
    u.rejoin =
      { u with
        seq := u.rejoinedSeq
        fe.waiting := if u.seq.adoptedCue = 0 then u.fe.waiting else []
        fe.chan := Table.ofFn fun c => if u.seq.adoptedCue = 0 then u.fe.chan.get c else u.rejoinedFade c
        tk.chan := Table.ofFn u.rejoinedTakeover } := by
  rw [← rejoin_seq]
  unfold State.rejoin
  by_cases h : u.seq.adoptedCue = 0
  · have htk : u.rejoinedTakeover = fun c => u.tk.chan.get c := by
      funext c; exact if_neg fun k => k.1 h
    simp only [h, if_true, htk, Table.ofFn_get]
  · simp only [h, if_false]
    rw [u.gotoIsTaken_takeGoto u.seq.adoptedCue u.config.gotoTime]
    have htk : u.rejoinedTakeover = fun c =>
        if u.mode c ≠ .safe ∧ (u.tk.chan.get c).state = .latched then { u.tk.chan.get c with state := .cue }
        else u.tk.chan.get c := by
      funext c; simp only [State.rejoinedTakeover, ne_eq, h, not_false_eq_true, true_and]
    rw [htk]
    rfl
end

/-! ## The end of the window (R88, R154, R155) -/

/-- A panel that begins to accept input (R88). -/
def Panel.accepting (pi : Panel) : Panel :=
  { pi with
    slot := pi.slot.mapAt fun _ k => { k with catchUp := true }
    touch := pi.touch.mapAt fun _ x => { x with rearm := true } }

/-- A station that has left JOINING, before its PRESENCE. -/
def State.joined (u : State) : State :=
  { u with
    sl.state := .running
    sl.windowTimer := .stopped
    sl.limitTimer := .stopped
    seq := u.rejoinedSeq
    fe.waiting := if u.seq.adoptedCue = 0 then u.fe.waiting else []
    fe.chan := Table.ofFn fun c => if u.seq.adoptedCue = 0 then u.fe.chan.get c else u.rejoinedFade c
    tk.chan := Table.ofFn u.rejoinedTakeover
    pi := if u.pi.locked then u.pi else u.pi.accepting }

/-- A station RUNNING with both timers of the window stopped, its rejoin still to come. -/
def State.windowClosed (u : State) : State :=
  { u with sl.state := .running, sl.windowTimer := .stopped, sl.limitTimer := .stopped }

theorem endJoining_eq (u : State) : u.endJoining = u.joined.queuePresence := by
  show (if u.windowClosed.rejoin.pi.locked then u.windowClosed.rejoin else u.windowClosed.rejoin.beginAccepting).queuePresence = _
  rw [rejoin_eq]
  have hpi : u.windowClosed.pi = u.pi := rfl
  unfold State.joined
  by_cases h : u.pi.locked = true
  · simp only [hpi, h, if_true]; rfl
  · simp only [hpi, h, Bool.false_eq_true, if_false]; rfl

section
variable (u : State)

theorem endJoining_cs : u.endJoining.cs = u.cs := by rw [endJoining_eq, State.queuePresence, State.enqueue_cs]; rfl

theorem endJoining_seq : u.endJoining.seq = u.rejoinedSeq := by
  rw [endJoining_eq, State.queuePresence, State.enqueue_seq]; rfl

theorem endJoining_waiting : u.endJoining.fe.waiting = if u.seq.adoptedCue = 0 then u.fe.waiting else [] := by
  rw [endJoining_eq, State.queuePresence, State.enqueue_fe]; rfl

theorem endJoining_fade (c : Channel) :
    u.endJoining.fe.chan.get c = if u.seq.adoptedCue = 0 then u.fe.chan.get c else u.rejoinedFade c := by
  rw [endJoining_eq, State.queuePresence, State.enqueue_fe]
  simp only [State.joined, Table.get_ofFn]

theorem endJoining_takeover (c : Channel) : u.endJoining.tk.chan.get c = u.rejoinedTakeover c := by
  rw [endJoining_eq, State.queuePresence, State.enqueue_tk]
  simp only [State.joined, Table.get_ofFn]

theorem endJoining_link : u.endJoining.tk.link = u.tk.link := by
  rw [endJoining_eq, State.queuePresence, State.enqueue_tk]
  simp only [State.joined]

theorem endJoining_sg : u.endJoining.sg = u.sg := by rw [endJoining_eq, State.queuePresence, State.enqueue_sg]; rfl

theorem endJoining_config : u.endJoining.config = u.config := by
  rw [State.config, endJoining_eq, State.queuePresence, State.enqueue_sl_config]; rfl

theorem endJoining_assembly : u.endJoining.sl.assembly = u.sl.assembly := by
  rw [endJoining_eq, State.queuePresence, State.enqueue_sl_assembly]; rfl

theorem endJoining_state : u.endJoining.sl.state = .running := by
  rw [endJoining_eq, State.queuePresence, State.enqueue_sl_state]; rfl

theorem endJoining_timers : u.endJoining.sl.windowTimer = .stopped ∧ u.endJoining.sl.limitTimer = .stopped := by
  rw [endJoining_eq, State.queuePresence, State.enqueue_sl_windowTimer, State.enqueue_sl_limitTimer]; exact ⟨rfl, rfl⟩

theorem endJoining_pi : u.endJoining.pi = if u.pi.locked then u.pi else u.pi.accepting := by
  rw [endJoining_eq, State.queuePresence, State.enqueue_pi]; rfl

theorem endJoining_locked : u.endJoining.pi.locked = u.pi.locked := by
  rw [endJoining_pi]
  split
  · rfl
  · simp only [Panel.accepting]

/-- Nothing adopted: no GOTO, and every fade stays. -/
theorem endJoining_fe_idle (h : u.seq.adoptedCue = 0) : u.endJoining.fe = u.fe := by
  rw [endJoining_eq, State.queuePresence, State.enqueue_fe]
  simp only [State.joined, h, if_true, Table.ofFn_get]

theorem endJoining_flag (f : Flag) (h : u.flag f = true) : u.endJoining.flag f = true :=
  (moves_endJoining (H := True) u).flags f.bit h

end

/-- A message that coalesces with none joins a queue that has room (R145). -/
theorem enqueue_joins {s : State} {m : Msg} (hn : s.sl.station ≠ 0) (hb : s.busOff = false)
    (hroom : s.sl.queue.length < 16) (hq : ∀ x ∈ s.sl.queue, m.sameKey x.msg = false) :
    m.waiting ∈ (s.enqueue m).sl.queue := by
  have hkey : ¬(s.sl.queue.any fun x => m.sameKey x.msg) = true := by simpa [List.any_eq_true] using hq
  have hlen : s.sl.queue.length < Config.maxQueue := hroom
  unfold State.enqueue joinQueue
  rw [if_neg hn, if_neg (by simp [hb])]
  simp only [if_neg hkey, if_pos hlen, Bool.false_eq_true, if_false]
  exact (placeEntry_mem ..).mpr (.inl rfl)

theorem presence_sameKey {joining held : Bool} {cue : Cue} {mask : BitVec 16} {summary : BitVec 8} {x : Msg}
    (h : ∀ h q m f, x ≠ .presence joining h q m f) : (Msg.presence joining held cue mask summary).sameKey x = false := by
  cases x with
  | presence j h' q m f =>
    refine beq_eq_false_iff_ne.mpr fun hj => ?_
    subst hj
    exact h _ _ _ _ rfl
  | _ => rfl

/-- The PRESENCE of a station that has left JOINING. -/
theorem endJoining_presence {u : State} (hn : u.sl.station ≠ 0) (hb : u.busOff = false) (hroom : u.sl.queue.length < 16)
    (hq : ∀ x ∈ u.sl.queue, ∀ h q m f, x.msg ≠ .presence false h q m f) :
    ∃ x ∈ u.endJoining.sl.queue, ∃ f, x.msg = .presence false u.seq.adoptedHeld u.rejoinedSeq.currentCue u.ownMask f := by
  have hmask : u.joined.ownMask = u.ownMask := by
    simp only [State.ownMask, State.joined, Panel.accepting]
    split <;> rfl
  have hmsg : u.joined.presenceMsg =
      .presence false u.seq.adoptedHeld u.rejoinedSeq.currentCue u.ownMask u.joined.faultSummary := by
    rw [State.presenceMsg, hmask]; rfl
  refine ⟨u.joined.presenceMsg.waiting, ?_, u.joined.faultSummary, hmsg⟩
  rw [endJoining_eq]
  refine enqueue_joins (s := u.joined) hn hb hroom fun x hx => ?_
  rw [hmsg]
  exact presence_sameKey (hq x hx)

/-! ## The configuration settled (R122, R130, R155, R157) -/

section
variable (s : State) (k : Configuration)

/-- The state whose configuration has become `k`, no block having applied it yet. -/
def State.underConfig : State := { s with sl.config := k, sl.assembly := none }

theorem acceptConfig_cs : (s.acceptConfig k).cs = s.cs := by simp only [State.acceptConfig, State.settle_cs]
theorem acceptConfig_seq : (s.acceptConfig k).seq = s.seq := by simp only [State.acceptConfig, State.settle_seq]
theorem acceptConfig_fe : (s.acceptConfig k).fe = s.fe := by simp only [State.acceptConfig, State.settle_fe]

theorem acceptConfig_sl : (s.acceptConfig k).sl = { s.sl with config := k, assembly := none } := by
  simp only [State.acceptConfig, State.settle_sl]

theorem acceptConfig_pi :
    (s.acceptConfig k).pi =
      { s.pi with
        rangeChanged := (s.acceptConfig k).pi.rangeChanged
        locked := if s.pi.lockTaken then s.pi.locked else k.lockAtStart
        matchPos := (s.acceptConfig k).pi.matchPos
        unlockTimer := (s.acceptConfig k).pi.unlockTimer } := by
  simp only [State.acceptConfig, State.settle_pi]

theorem acceptConfig_link : (s.acceptConfig k).tk.link = s.tk.link := by simp only [State.acceptConfig, State.settle_tk]

theorem acceptConfig_takeover (c : Channel) :
    (s.acceptConfig k).tk.chan.get c = (s.underConfig k).acceptTakeover s.config c (s.tk.chan.get c) := by
  simp only [State.acceptConfig, State.settle_tk, Table.get_mapAt, State.underConfig]

theorem acceptConfig_asserters : (s.acceptConfig k).sg.asserters = s.sg.asserters := by
  simp only [State.acceptConfig, State.settle_sg]

theorem acceptConfig_master (m : MasterNo) :
    (s.acceptConfig k).sg.master.get m =
      if k.master.get m = s.config.master.get m then s.sg.master.get m else ⟨0, false, .stopped⟩ := by
  simp only [State.acceptConfig, State.settle_sg, Table.get_mapAt]
  rfl

variable {s k}

theorem acceptTakeover_same {c : Channel} (hm : (k.chan.get c).mode = (s.config.chan.get c).mode)
    (hl : (k.chan.get c).link = (s.config.chan.get c).link) (ch : TakeoverChannel) :
    (s.underConfig k).acceptTakeover s.config c ch = ch := if_pos ⟨hm, hl⟩

/-- A channel whose mode or link changes is set as a reset sets it, and then held if its new link is (R122). -/
theorem acceptTakeover_changed {c : Channel}
    (h : ¬((k.chan.get c).mode = (s.config.chan.get c).mode ∧ (k.chan.get c).link = (s.config.chan.get c).link))
    (ch : TakeoverChannel) :
    (s.underConfig k).acceptTakeover s.config c ch =
      match (k.chan.get c).link with
      | none => ⟨resetTakeover (k.chan.get c).mode, off, none, ch.mark⟩
      | some l =>
        if (k.chan.get c).mode ≠ .safe ∧ (s.tk.link.get l).held then ⟨.touched, (s.tk.link.get l).level, none, ch.mark⟩
        else ⟨resetTakeover (k.chan.get c).mode, off, none, ch.mark⟩ := if_neg h

theorem resetTakeover_not_latched (mode : Mode) : resetTakeover mode ≠ .latched := by
  cases mode <;> exact nofun

theorem acceptTakeover_not_latched {c : Channel}
    (h : ¬((k.chan.get c).mode = (s.config.chan.get c).mode ∧ (k.chan.get c).link = (s.config.chan.get c).link))
    (ch : TakeoverChannel) : ((s.underConfig k).acceptTakeover s.config c ch).state ≠ .latched := by
  rw [acceptTakeover_changed h]
  split
  · exact resetTakeover_not_latched _
  · split
    · exact nofun
    · exact resetTakeover_not_latched _

end

/-- `u` is `s` with the fate of its assembly settled: the configuration of an accepted one in force, and all else the end of
the window starts from as it was. -/
structure State.Settles (accepted : Prop) (s u : State) : Prop where
  cs : u.cs = s.cs
  seq : u.seq = s.seq
  fe : u.fe = s.fe
  slot : u.pi.slot = s.pi.slot
  touch : u.pi.touch = s.pi.touch
  ownMask : u.ownMask = s.ownMask
  link : u.tk.link = s.tk.link
  asserters : u.sg.asserters = s.sg.asserters
  station : u.sl.station = s.sl.station
  busOff : u.busOff = s.busOff
  queue : u.sl.queue = s.sl.queue
  assembly : u.sl.assembly = none
  same : ∀ c, u.mode c = s.mode c ∧ u.linkOf c = s.linkOf c → u.tk.chan.get c = s.tk.chan.get c
  changed : ∀ c, ¬(u.mode c = s.mode c ∧ u.linkOf c = s.linkOf c) → (u.tk.chan.get c).state ≠ .latched
  config : ∀ a, accepted → s.sl.assembly = some a → u.config = a.config
  kept : ¬accepted → u.config = s.config ∧ u.pi.locked = s.pi.locked ∧ u.sg = s.sg ∧ u.tk = s.tk
  rejected : s.sl.assembly.isSome = true → ¬accepted → u.flag .configRejected = true

/-- An assembly that CONFIG_END accepts (R11, R156). -/
def State.Acceptable (s : State) : Prop :=
  ∃ a, s.sl.assembly = some a ∧ a.rejected = false ∧ lawOrdered a.config.law = true

section
variable {s u : State} {accepted : Prop}

/-- Without an assembly nothing is to be settled. -/
theorem settles_none (ha : s.sl.assembly = none) (hn : ¬accepted) : s.Settles accepted s where
  cs := rfl
  seq := rfl
  fe := rfl
  slot := rfl
  touch := rfl
  ownMask := rfl
  link := rfl
  asserters := rfl
  station := rfl
  busOff := rfl
  queue := rfl
  assembly := ha
  same _ _ := rfl
  changed _ h := absurd ⟨rfl, rfl⟩ h
  config _ h := absurd h hn
  kept _ := ⟨rfl, rfl, rfl, rfl⟩
  rejected h := by rw [ha] at h; cases h

/-- An assembly is discarded and CONFIG_REJECTED set (R154, R156). -/
theorem settles_rejected (hn : ¬accepted) : s.Settles accepted { s.setFlag .configRejected with sl.assembly := none } where
  cs := rfl
  seq := rfl
  fe := rfl
  slot := rfl
  touch := rfl
  ownMask := rfl
  link := rfl
  asserters := rfl
  station := rfl
  busOff := rfl
  queue := rfl
  assembly := rfl
  same _ _ := rfl
  changed _ h := absurd ⟨rfl, rfl⟩ h
  config _ h := absurd h hn
  kept _ := ⟨rfl, rfl, rfl, rfl⟩
  rejected _ _ := Table.get_set_self ..

theorem settles_accepted {a : Assembly} (ha : s.sl.assembly = some a) (hacc : accepted) :
    s.Settles accepted (s.acceptConfig a.config) where
  cs := acceptConfig_cs ..
  seq := acceptConfig_seq ..
  fe := acceptConfig_fe ..
  slot := by rw [acceptConfig_pi]
  touch := by rw [acceptConfig_pi]
  ownMask := by rw [State.ownMask, acceptConfig_pi]; rfl
  link := acceptConfig_link ..
  asserters := acceptConfig_asserters ..
  station := by rw [acceptConfig_sl]
  busOff := by rw [State.busOff, acceptConfig_sl]; rfl
  queue := by rw [acceptConfig_sl]
  assembly := by rw [acceptConfig_sl]
  same c h := by
    rw [State.mode, State.linkOf, State.config, acceptConfig_sl] at h
    rw [acceptConfig_takeover, acceptTakeover_same h.1 h.2]
  changed c h := by
    rw [State.mode, State.linkOf, State.config, acceptConfig_sl] at h
    rw [acceptConfig_takeover]
    exact acceptTakeover_not_latched h _
  config b _ hb := by
    obtain rfl : a = b := Option.some.inj (ha.symm.trans hb)
    rw [State.config, acceptConfig_sl]
  kept h := absurd hacc h
  rejected _ h := absurd hacc h

theorem closeAssembly_accepted {a : Assembly} (ha : s.sl.assembly = some a) (hr : a.rejected = false)
    (ho : lawOrdered a.config.law = true) : s.closeAssembly = s.acceptConfig a.config := by
  unfold State.closeAssembly
  simp only [ha, hr, ho, Bool.not_true, Bool.or_false, Bool.false_eq_true, if_false]

theorem settles_closeAssembly (s : State) : s.Settles s.Acceptable s.closeAssembly := by
  cases ha : s.sl.assembly with
  | none =>
    have hn : ¬s.Acceptable := fun ⟨a, h, _⟩ => by rw [ha] at h; cases h
    have hclose : s.closeAssembly = s := by unfold State.closeAssembly; simp only [ha]
    rw [hclose]
    exact settles_none ha hn
  | some a =>
    by_cases hacc : a.rejected = false ∧ lawOrdered a.config.law = true
    · rw [closeAssembly_accepted ha hacc.1 hacc.2]
      exact settles_accepted ha ⟨a, ha, hacc⟩
    · have hn : ¬s.Acceptable := fun ⟨b, hb, h⟩ => by
        obtain rfl : a = b := Option.some.inj (ha.symm.trans hb)
        exact hacc h
      have hclose : s.closeAssembly = { s.setFlag .configRejected with sl.assembly := none } := by
        have hbad : (a.rejected || !lawOrdered a.config.law) = true := by
          simpa [imp_iff_not_or] using hacc
        unfold State.closeAssembly
        simp only [ha, hbad, if_true]
      rw [hclose]
      exact settles_rejected hn

theorem heard_ownMask (s : State) (p : Station) : (s.heard p).ownMask = s.ownMask := by
  simp only [State.ownMask, State.heard_pi]

theorem settles_of_heard {p : Station} (h : (s.heard p).Settles accepted u) : s.Settles accepted u := by
  have hmode : (s.heard p).mode = s.mode := by funext c; simp only [State.mode, State.heard_config]
  have hlink : (s.heard p).linkOf = s.linkOf := by funext c; simp only [State.linkOf, State.heard_config]
  obtain ⟨cs, seq, fe, slot, touch, ownMask, link, asserters, station, busOff, queue, assembly, same, changed, config, kept,
    rejected⟩ := h
  rw [hmode, hlink] at same changed
  simp only [State.heard_cs, State.heard_seq, State.heard_fe, State.heard_pi, State.heard_tk, State.heard_sg,
    State.heard_sl_station, State.heard_sl_queue, State.heard_sl_assembly, State.heard_config, heard_ownMask,
    State.busOff, State.heard_sl_txErrors] at *
  exact ⟨cs, seq, fe, slot, touch, ownMask, link, asserters, station, busOff, queue, assembly, same, changed, config, kept,
    rejected⟩

end

/-! ## The three ends of the window (R154, R155) -/

section
variable {s : State} {p target : Station}

theorem execConfigEnd_joining (h0 : p ≠ 0) (ht : s.addressed target = true) (hj : s.sl.state = .joining) :
    execConfigEnd p target s = .next ((s.heard p).closeAssembly.endJoining.commit s) := by
  rw [execConfigEnd, State.take_eq, State.takeConfig, State.receiveAddressed_taken h0 ht, State.heard_sl_state, if_pos hj]

/-- Every end of the window settles the assembly and then ends JOINING. -/
theorem exec_windowEnd {i : Instr} (hw : s.WindowLegal) (hj : s.sl.state = .joining)
    (hi : (i = .windowTimerExpiry ∧ s.sl.windowTimer ≠ .stopped) ∨ (i = .limitTimerExpiry ∧ s.sl.limitTimer ≠ .stopped) ∨
      (i = .configEnd p target ∧ p ≠ 0 ∧ s.addressed target = true)) :
    ∃ u, exec i s = .next (u.endJoining.commit s) ∧
      s.Settles (∃ a, i = .configEnd p target ∧ s.sl.assembly = some a ∧ a.rejected = false ∧
        lawOrdered a.config.law = true) u := by
  rcases hi with ⟨rfl, hrun⟩ | ⟨rfl, hrun⟩ | ⟨rfl, h0, ht⟩
  · have hlimit : s.sl.limitTimer = .stopped := not_not.mp fun h => hrun ((hw.joining hj).mpr h)
    have hnone : s.sl.assembly = none := by
      cases ha : s.sl.assembly with
      | none => rfl
      | some a => exact absurd hlimit (hw.assembly (by rw [ha]; rfl))
    exact ⟨s, State.takeWhen_enabled (bne_iff_ne.mpr hrun) _, settles_none hnone nofun⟩
  · exact ⟨_, State.takeWhen_enabled (bne_iff_ne.mpr hrun) _, settles_rejected nofun⟩
  · refine ⟨_, execConfigEnd_joining h0 ht hj, ?_⟩
    have hsettles := settles_of_heard (settles_closeAssembly (s.heard p))
    have hacc : (s.heard p).Acceptable = ∃ a, Instr.configEnd p target = .configEnd p target ∧ s.sl.assembly = some a ∧
        a.rejected = false ∧ lawOrdered a.config.law = true := by
      simp only [State.Acceptable, State.heard_sl_assembly, true_and]
    rwa [hacc] at hsettles

end

section
variable {s u : State} {accepted : Prop}

/-- Before RUNNING there is no current cue and no follow timer, so the rejoin leaves the adopted cue alone (R57, R59). -/
theorem rejoinedSeq_eq (hw : s.WindowLegal) (hj : s.sl.state = .joining) (hu : u.seq = s.seq) :
    u.rejoinedSeq =
      { s.seq with
        held := s.seq.adoptedHeld
        currentCue := s.seq.adoptedCue
        goStamp := if s.seq.adoptedCue = 0 then s.seq.goStamp else some s.seq.frameCount
        follow := none
        adoptedCue := 0
        adoptedHeld := false
        adoptionSource := none
        cueSettled := false
        heldSettled := false } := by
  obtain ⟨-, hcue, hfollow⟩ := hw.still hj
  rw [State.rejoinedSeq, hu, hcue, hfollow]
  by_cases h : s.seq.adoptedCue = 0
  · simp only [h, if_true]
  · simp only [h, if_false]

/-- A channel of FE at the rejoin of an adopted cue (R49, R59, R70): it starts from the latched level where its mode and link
stand, and from the cue level otherwise. -/
theorem rejoinedFade_spec (hu : s.Settles accepted u) (c : Channel) :
    (u.mode c = .safe → u.rejoinedFade c = s.fe.chan.get c) ∧
    (u.mode c ≠ .safe →
      (u.rejoinedFade c).cueMute = s.cs.trackedMute c s.seq.adoptedCue ∧
      (u.config.gotoTime = 0 → (u.rejoinedFade c).slot = none ∧
        (u.rejoinedFade c).cueLevel = s.cs.trackedLevel c s.seq.adoptedCue) ∧
      (u.config.gotoTime ≠ 0 → ∃ r, (u.rejoinedFade c).slot = some r ∧ r.cue = s.seq.adoptedCue ∧
        r.target = s.cs.trackedLevel c s.seq.adoptedCue ∧ r.duration = u.config.gotoTime ∧ r.elapsed = 0 ∧
        r.curve = .linear ∧ (u.rejoinedFade c).cueLevel = r.start ∧
        r.start =
          if (s.tk.chan.get c).state = .latched ∧ u.mode c = s.mode c ∧ u.linkOf c = s.linkOf c then
            (s.tk.chan.get c).manual
          else (s.fe.chan.get c).cueLevel)) := by
  have hstart :
      (if (u.tk.chan.get c).state = .latched then (u.tk.chan.get c).manual else (s.fe.chan.get c).cueLevel) =
        if (s.tk.chan.get c).state = .latched ∧ u.mode c = s.mode c ∧ u.linkOf c = s.linkOf c then
          (s.tk.chan.get c).manual
        else (s.fe.chan.get c).cueLevel := by
    by_cases h : u.mode c = s.mode c ∧ u.linkOf c = s.linkOf c
    · simp only [hu.same c h, h, and_self, and_true]
    · rw [if_neg (hu.changed c h), if_neg fun k => h k.2]
  rw [← hstart, State.rejoinedFade, hu.cs, hu.seq, hu.fe]
  refine ⟨fun hm => if_pos hm, fun hm => ?_⟩
  rw [if_neg hm]
  by_cases ht : u.config.gotoTime = 0
  · simp only [ht, if_true]
    exact ⟨trivial, fun _ => ⟨trivial, trivial⟩, fun h => absurd rfl h⟩
  · simp only [ht, if_false]
    exact ⟨trivial, False.elim, fun _ => ⟨_, rfl, rfl, rfl, rfl, rfl, rfl, rfl, rfl⟩⟩

end

/-- The takeover states where no assembly is accepted (R76, R107). -/
theorem rejoinedTakeover_kept {s u : State} (hseq : u.seq = s.seq) (hconfig : u.config = s.config) (htk : u.tk = s.tk)
    (c : Channel) : u.rejoinedTakeover c = s.rejoinedTakeover c := by
  have hmode : u.mode c = s.mode c := by rw [State.mode, hconfig]; rfl
  rw [State.rejoinedTakeover, hseq, hmode, htk]; rfl

/-- Settles O48: the assembly is settled, and the end of JOINING does the rest. -/
theorem windowEnds : Obligations.WindowEnds := by
  intro i p target s hw hj hi accepted
  obtain ⟨u, hexec, hu⟩ := exec_windowEnd hw hj hi
  have hmode : (u.endJoining.commit s).mode = u.mode := by
    funext c; simp only [State.mode, State.commit_config, endJoining_config]
  have hlinkOf : (u.endJoining.commit s).linkOf = u.linkOf := by
    funext c; simp only [State.linkOf, State.commit_config, endJoining_config]
  have hwaiting : (if u.seq.adoptedCue = 0 then u.fe.waiting else []) = [] := by
    rw [hu.fe, (hw.fades hj).1, ite_self]
  have hcue : u.rejoinedSeq.currentCue = s.seq.adoptedCue := by rw [rejoinedSeq_eq hw hj hu.seq]
  refine ⟨_, hexec, ?_⟩
  rw [hmode, hlinkOf]
  simp only [State.commit_cs, State.commit_seq, State.commit_fe, State.commit_pi, State.commit_tk, State.commit_sg,
    State.commit_sl, State.commit_config, endJoining_cs, endJoining_state, endJoining_timers, endJoining_assembly,
    endJoining_config, endJoining_seq, endJoining_waiting, endJoining_takeover, endJoining_link, endJoining_sg,
    endJoining_locked, rejoinedSeq_eq hw hj hu.seq, hwaiting, hu.cs, hu.link, hu.asserters, hu.assembly]
  refine ⟨trivial, trivial, trivial, trivial, trivial, hu.config, fun hn => (hu.kept hn).1, fun hs hn => ?flag, trivial,
    trivial, fun hc => ?idle, fun hc c => ?fade, trivial, trivial, fun hn => ⟨?locked, ?groups, fun c => ?takeover⟩,
    fun hl => ?accepts, fun hl => ?stays, fun h0 hb hroom hq => ?presence⟩
  case flag => rw [commit_flag, endJoining_flag u _ (hu.rejected hs hn), Bool.true_or]
  case idle => rw [endJoining_fe_idle u (by rw [hu.seq]; exact hc), hu.fe]
  case fade =>
    rw [endJoining_fade, hu.seq, if_neg hc]
    exact rejoinedFade_spec hu c
  case locked => exact (hu.kept hn).2.1
  case groups => exact (hu.kept hn).2.2.1
  case takeover =>
    obtain ⟨hconfig, -, -, htk⟩ := hu.kept hn
    exact rejoinedTakeover_kept hu.seq hconfig htk c
  case accepts =>
    rw [endJoining_pi, if_neg (by rw [hl]; decide), ← hu.slot, ← hu.touch]
    exact ⟨fun k => by simp only [Panel.accepting, Table.get_mapAt], fun c => by simp only [Panel.accepting, Table.get_mapAt]⟩
  case stays =>
    rw [endJoining_pi, if_pos hl]
    exact ⟨hu.slot, hu.touch⟩
  case presence =>
    rw [← hu.station] at h0
    rw [← hu.busOff] at hb
    rw [← hu.queue] at hroom hq
    have hjoins := endJoining_presence h0 hb hroom hq
    rwa [hcue, hu.seq, hu.ownMask] at hjoins

section
variable {s : State} {k : Configuration} {c : Channel}

theorem acceptConfig_mode (s : State) (k : Configuration) (c : Channel) :
    (s.acceptConfig k).mode c = (k.chan.get c).mode := by
  rw [State.mode, State.config, acceptConfig_sl]

/-- A channel whose mode and link stand keeps its record, but that the GOTO of an adopted cue takes it out of LATCHED (R107,
R122). -/
theorem rejoined_same (hm : (k.chan.get c).mode = (s.config.chan.get c).mode)
    (hl : (k.chan.get c).link = (s.config.chan.get c).link) :
    (s.acceptConfig k).rejoinedTakeover c =
      if s.seq.adoptedCue ≠ 0 ∧ (k.chan.get c).mode ≠ .safe ∧ (s.tk.chan.get c).state = .latched then
        { s.tk.chan.get c with state := .cue }
      else s.tk.chan.get c := by
  rw [State.rejoinedTakeover, acceptConfig_takeover, acceptTakeover_same hm hl, acceptConfig_mode, acceptConfig_seq]

/-- A channel whose mode or link changes is not LATCHED after the acceptance, so the GOTO leaves it (R122). -/
theorem rejoined_changed
    (h : ¬((k.chan.get c).mode = (s.config.chan.get c).mode ∧ (k.chan.get c).link = (s.config.chan.get c).link)) :
    (s.acceptConfig k).rejoinedTakeover c = (s.underConfig k).acceptTakeover s.config c (s.tk.chan.get c) := by
  rw [State.rejoinedTakeover, acceptConfig_takeover]
  exact if_neg fun hn => acceptTakeover_not_latched h _ hn.2.2

theorem rejoined_safe
    (h : ¬((k.chan.get c).mode = (s.config.chan.get c).mode ∧ (k.chan.get c).link = (s.config.chan.get c).link))
    (hm : (k.chan.get c).mode = .safe) :
    (s.acceptConfig k).rejoinedTakeover c = ⟨.safeManual, off, none, (s.tk.chan.get c).mark⟩ := by
  rw [rejoined_changed h, acceptTakeover_changed h, hm]
  split
  · rfl
  · exact if_neg fun hn => hn.1 rfl

theorem rejoined_free
    (h : ¬((k.chan.get c).mode = (s.config.chan.get c).mode ∧ (k.chan.get c).link = (s.config.chan.get c).link))
    (hm : (k.chan.get c).mode ≠ .safe) (hfree : ∀ l, (k.chan.get c).link = some l → (s.tk.link.get l).held = false) :
    (s.acceptConfig k).rejoinedTakeover c = ⟨.cue, off, none, (s.tk.chan.get c).mark⟩ := by
  have hreset : resetTakeover (k.chan.get c).mode = .cue := if_neg hm
  rw [rejoined_changed h, acceptTakeover_changed h, hreset]
  split
  · rfl
  · next l hl => exact if_neg fun hn => by rw [hfree l hl] at hn; exact absurd hn.2 nofun

theorem rejoined_held {l : LinkNo}
    (h : ¬((k.chan.get c).mode = (s.config.chan.get c).mode ∧ (k.chan.get c).link = (s.config.chan.get c).link))
    (hm : (k.chan.get c).mode ≠ .safe) (hl : (k.chan.get c).link = some l) (hheld : (s.tk.link.get l).held = true) :
    (s.acceptConfig k).rejoinedTakeover c = ⟨.touched, (s.tk.link.get l).level, none, (s.tk.chan.get c).mark⟩ := by
  rw [rejoined_changed h, acceptTakeover_changed h, hl]
  exact if_pos ⟨hm, hheld⟩

end

/-- Settles O49: the records as the acceptance leaves them, and then the rejoin. -/
theorem acceptanceApplied : Obligations.AcceptanceApplied := by
  intro p target a s h0 ht hj ha hr ho
  refine ⟨_, execConfigEnd_joining h0 ht hj, ?_⟩
  have hassembly : (s.heard p).sl.assembly = some a := by rw [State.heard_sl_assembly]; exact ha
  have hu := settles_accepted (accepted := True) hassembly trivial
  have hlocked : ((s.heard p).acceptConfig a.config).pi.locked =
      if s.pi.lockTaken then s.pi.locked else a.config.lockAtStart := by
    rw [acceptConfig_pi, State.heard_pi]
  rw [closeAssembly_accepted hassembly hr ho]
  simp only [State.commit_pi, State.commit_tk, State.commit_sg, State.commit_config, endJoining_config, endJoining_locked,
    endJoining_link, endJoining_sg, endJoining_takeover, acceptConfig_link, acceptConfig_asserters, acceptConfig_master,
    State.heard_tk, State.heard_sg, State.heard_config, hlocked]
  refine ⟨hu.config a trivial hassembly, trivial, trivial, trivial, fun c => ⟨fun hm hl => ?same, fun h =>
    ⟨fun hm => ?safe, fun hm hfree => ?free, fun l hm hl hheld => ?held⟩⟩, fun _ => trivial⟩
  case same =>
    have hrecord := rejoined_same (s := s.heard p) (k := a.config) (c := c) (by rwa [State.heard_config])
      (by rwa [State.heard_config])
    rwa [State.heard_seq, State.heard_tk] at hrecord
  case safe =>
    have hrecord := rejoined_safe (s := s.heard p) (by rwa [State.heard_config]) hm
    rwa [State.heard_tk] at hrecord
  case free =>
    have hrecord := rejoined_free (s := s.heard p) (by rwa [State.heard_config]) hm (by rwa [State.heard_tk])
    rwa [State.heard_tk] at hrecord
  case held =>
    have hrecord := rejoined_held (s := s.heard p) (by rwa [State.heard_config]) hm hl (by rwa [State.heard_tk])
    rwa [State.heard_tk] at hrecord

end Sys2Proof.Machine

/-! SUPPORT. The Fade Engine's records and pending list under the operations of chapter 4: what a fade that begins, advances or
completes leaves, and the order of the list; it settles O25 and O26. -/

namespace Sys2Proof.Machine

/-! ## Fade records (R62, R64, R70, R73) -/

namespace FadeChannel

variable {ch : FadeChannel} {r : FadeRecord}

theorem complete_idle (h : ch.slot = none) : ch.complete = ch := by rw [complete, h]

theorem complete_due (h : ch.slot = some r) (hdue : r.duration ≤ r.elapsed) :
    ch.complete = { ch with cueLevel := r.target, slot := none } := by
  simp only [complete, h, if_pos hdue]

theorem complete_running (h : ch.slot = some r) (hrun : r.elapsed < r.duration) : ch.complete = ch := by
  simp only [complete, h, if_neg (Nat.not_le.mpr hrun)]

theorem advance_running (h : ch.slot = some r) (hrun : r.elapsed + 1 < r.duration) :
    ch.advance =
      { ch with
        cueLevel := FadeRecord.level { r with elapsed := r.elapsed + 1 }
        slot := some { r with elapsed := r.elapsed + 1 } } := by
  simp only [advance, h]
  exact complete_running (r := { r with elapsed := r.elapsed + 1 }) rfl hrun

theorem advance_due (h : ch.slot = some r) (hdue : r.duration ≤ r.elapsed + 1) :
    ch.advance = { ch with cueLevel := r.target, slot := none } := by
  simp only [advance, h]
  exact complete_due (r := { r with elapsed := r.elapsed + 1 }) rfl hdue

end FadeChannel

/-! ## The pending list counted down (R74) -/

theorem undueSteps_countDown (q : List PendingStep) :
    undueSteps (countDown q) =
      (q.filter fun p => decide (1 < p.remaining)).map fun p => { p with remaining := p.remaining - 1 } := by
  rw [undueSteps, countDown, List.filter_map]
  refine congrArg (List.map _) (List.filter_congr fun p _ => ?_)
  change (!decide (p.remaining - 1 = 0)) = _
  rw [← decide_not, decide_eq_decide]
  omega

theorem dueSteps_countDown (q : List PendingStep) :
    dueSteps (countDown q) = (q.filter fun p => decide (p.remaining ≤ 1)).map fun p => { p with remaining := 0 } := by
  have hdue : (q.filter fun p => decide (p.remaining - 1 = 0)) = q.filter fun p => decide (p.remaining ≤ 1) :=
    List.filter_congr fun p _ => by simp [Nat.sub_eq_zero_iff_le]
  rw [dueSteps, countDown, List.filter_map]
  refine Eq.trans (congrArg (List.map _) hdue) (List.map_congr_left fun p hp => ?_)
  have hle : p.remaining ≤ 1 := of_decide_eq_true (List.mem_filter.mp hp).2
  rw [Nat.sub_eq_zero_of_le hle]

/-- An advance in two parts: every record moves and the list counts down, then the due steps start in list order (R73, R74). -/
theorem advanceFades_eq (s : State) :
    s.advanceFades =
      ((s.fe.waiting.filter fun p => decide (p.remaining ≤ 1)).map fun p => { p with remaining := 0 }).foldl State.startStep
        { s with
          fe.chan := s.fe.chan.mapAt fun _ ch => ch.advance
          fe.waiting :=
            (s.fe.waiting.filter fun p => decide (1 < p.remaining)).map fun p => { p with remaining := p.remaining - 1 } } := by
  rw [← dueSteps_countDown, ← undueSteps_countDown]
  rfl

/-! ## Advances and due steps as commands -/

theorem exec_advance_held {s : State} (h : s.seq.held = true) : exec .advance s = .next (s.commit s) := by
  change execAdvance s = _
  simp only [execAdvance, State.take, if_pos h]

theorem exec_advance_free {s : State} (h : s.seq.held = false) : exec .advance s = .next (s.advanceFades.commit s) := by
  change execAdvance s = _
  simp only [execAdvance, State.take, h, Bool.false_eq_true, if_false]

/-- Settles O25: an advance is the map of `FadeChannel.advance` over the records and a fold of step starts. -/
theorem advanceMovesFades : Obligations.AdvanceMovesFades := by
  refine fun s => ⟨exec_advance_held, fun hfree => ⟨s.fe.chan.mapAt fun _ ch => ch.advance, s.advanceFades, fun c => ?_, ?_,
    exec_advance_free hfree⟩⟩
  · dsimp only
    rw [Table.get_mapAt]
    cases hslot : (s.fe.chan.get c).slot with
    | none => exact advance_idle hslot
    | some r =>
      dsimp only
      split
      · next hrun => exact FadeChannel.advance_running hslot hrun
      · next hdue => exact FadeChannel.advance_due hslot (Nat.not_lt.mp hdue)
  · rw [advanceFades_eq]
    exact State.stepsStart_foldl _ _

theorem exec_fadeComplete_due {c : Channel} {s : State} {r : FadeRecord} (h : (s.fe.chan.get c).slot = some r)
    (hdue : r.duration ≤ r.elapsed) :
    exec (.fadeComplete c) s = .next ((s.modifyFe c FadeChannel.complete).commit s) := by
  change execFadeComplete c s = _
  simp only [execFadeComplete, h, hdue, State.takeWhen, State.take, decide_true, if_true]

/-- A command without its due record names no event (log 4, log 5). -/
theorem exec_fadeComplete_rests {c : Channel} {s : State}
    (h : ∀ r, (s.fe.chan.get c).slot = some r → r.elapsed < r.duration) : exec (.fadeComplete c) s = .next s := by
  change execFadeComplete c s = _
  cases hslot : (s.fe.chan.get c).slot with
  | none => simp only [execFadeComplete, hslot, State.takeWhen, Bool.false_eq_true, if_false]
  | some r =>
    have hrun : ¬r.duration ≤ r.elapsed := Nat.not_le.mpr (h r hslot)
    simp only [execFadeComplete, hslot, hrun, State.takeWhen, decide_false, Bool.false_eq_true, if_false]

/-- Whether an entry is a due one of channel `c` (R74). -/
def PendingStep.dueOn (c : Channel) (p : PendingStep) : Bool := decide (p.channel = c) && decide (p.remaining = 0)

theorem PendingStep.dueOn_iff {c : Channel} {p : PendingStep} : p.dueOn c = true ↔ p.channel = c ∧ p.remaining = 0 := by
  simp [PendingStep.dueOn]

theorem exec_pendingStepStart_eq (c : Channel) (s : State) :
    exec (.pendingStepStart c) s =
      s.takeWhen (s.fe.waiting.any (PendingStep.dueOn c)) fun s =>
        (s.fe.waiting.filter (PendingStep.dueOn c)).foldl State.startStep
          { s with fe.waiting := s.fe.waiting.filter fun p => !p.dueOn c } := rfl

/-- The one due entry of a channel leaves the list and its step starts (R74). -/
theorem exec_pendingStepStart_due {c : Channel} {s : State} {p : PendingStep} {before after : List PendingStep}
    (hsplit : s.fe.waiting = before ++ p :: after) (hothers : ∀ q ∈ before ++ after, q.channel ≠ c) (hp : p.dueOn c = true) :
    exec (.pendingStepStart c) s =
      .next ((State.startStep { s with fe.waiting := before ++ after } p).commit s) := by
  have hrest : ∀ q ∈ before ++ after, ¬q.dueOn c = true := fun q hq h => hothers q hq (PendingStep.dueOn_iff.mp h).1
  have hbefore := fun q hq => hrest q (List.mem_append_left after hq)
  have hafter := fun q hq => hrest q (List.mem_append_right before hq)
  have hdue : (before ++ p :: after).filter (PendingStep.dueOn c) = [p] := by
    rw [List.filter_append, List.filter_eq_nil_iff.mpr hbefore, List.filter_cons_of_pos hp, List.filter_eq_nil_iff.mpr hafter]
    rfl
  have hleft : ((before ++ p :: after).filter fun q => !q.dueOn c) = before ++ after := by
    rw [List.filter_append, List.filter_cons_of_neg (by simp [hp]), ← List.filter_append]
    exact List.filter_eq_self.mpr fun q hq => by simpa using hrest q hq
  have hany : (before ++ p :: after).any (PendingStep.dueOn c) = true := by simp [hp]
  rw [exec_pendingStepStart_eq, hsplit, hany]
  simp only [State.takeWhen, State.take, if_true, hsplit, hdue, hleft, List.foldl_cons, List.foldl_nil]

/-- A command without its due entry names no event (log 4, log 5). -/
theorem exec_pendingStepStart_rests {c : Channel} {s : State} (h : ∀ p ∈ s.fe.waiting, ¬(p.channel = c ∧ p.remaining = 0)) :
    exec (.pendingStepStart c) s = .next s := by
  have hany : s.fe.waiting.any (PendingStep.dueOn c) = false :=
    List.any_eq_false.mpr fun p hp hdue => h p hp (PendingStep.dueOn_iff.mp hdue)
  rw [exec_pendingStepStart_eq, hany]
  rfl

/-- Settles O26: the due record completes on its channel alone, and the due entry's step is started as any other. -/
theorem dueStepStartsAndFadeCompletes : Obligations.DueStepStartsAndFadeCompletes := by
  refine fun c s => ⟨fun r hslot hdue => ?complete, exec_fadeComplete_rests,
    fun p before after hsplit hothers hc hdue => ?start, exec_pendingStepStart_rests⟩
  case complete =>
    refine ⟨_, exec_fadeComplete_due hslot hdue, fun d => ?_⟩
    rw [Table.get_modify]
    by_cases hd : d = c
    · subst hd
      rw [if_pos rfl, if_pos rfl, FadeChannel.complete_due hslot hdue]
    · rw [if_neg (Ne.symm hd), if_neg hd]
  case start =>
    exact ⟨_, State.stepStarts_startStep _ p, exec_pendingStepStart_due hsplit hothers (PendingStep.dueOn_iff.mpr ⟨hc, hdue⟩)⟩

end Sys2Proof.Machine

/-! SUPPORT. The commands that leave FE's channels and pending list as they are: the relation `SameFades`, one lemma an operation, and
every command but those that play, advance or reset. -/

namespace Sys2Proof.Machine

/-- An operation that leaves the channels and the pending list of FE. -/
structure State.SameFades (s t : State) : Prop where
  chan : t.fe.chan = s.fe.chan
  waiting : t.fe.waiting = s.fe.waiting

namespace State.SameFades

variable {s t u : State}

theorem refl (s : State) : s.SameFades s := ⟨rfl, rfl⟩

theorem trans (h : s.SameFades t) (k : t.SameFades u) : s.SameFades u := ⟨k.chan.trans h.chan, k.waiting.trans h.waiting⟩

theorem of_fe (h : t.fe = s.fe) : s.SameFades t := ⟨congrArg FadeEngine.chan h, congrArg FadeEngine.waiting h⟩

theorem of_watched (h : t.watched = s.watched) : s.SameFades t := ⟨congrArg Watched.fades h, congrArg Watched.waiting h⟩

theorem ite {c : Prop} [Decidable c] (ht : s.SameFades t) (hu : s.SameFades u) : s.SameFades (if c then t else u) := by
  split
  · exact ht
  · exact hu

end State.SameFades

section
variable {s t : State} {work : State → State} {enabled : Bool}

theorem sameFades_take (h : s.take work = .next t) (hw : s.SameFades (work s)) : s.SameFades t := by
  obtain rfl : (work s).commit s = t := Host.Outcome.next.inj h
  exact hw.trans (.of_fe (State.commit_fe ..))

theorem sameFades_takeWhen (h : s.takeWhen enabled work = .next t) (hw : s.SameFades (work s)) : s.SameFades t := by
  cases enabled with
  | true => exact sameFades_take h hw
  | false =>
    obtain rfl : s = t := Host.Outcome.next.inj h
    exact .refl s

end

section
variable (s : State)

/-! ## Reception (R143) -/

theorem sameFades_countIgnored : s.SameFades s.countIgnored := .of_fe rfl

theorem sameFades_clash (c : Prop) [Decidable c] :
    s.SameFades (if c then s.countReceived.beginClash else s.countReceived) := .ite (.of_fe rfl) (.of_fe rfl)

theorem sameFades_receive (p : Station) (body : State → State) (hb : ∀ t : State, t.SameFades (body t)) :
    s.SameFades (s.receive p body) :=
  .ite ((sameFades_clash s _).trans (sameFades_countIgnored _)) (.trans (.of_fe (State.heard_fe s p)) (hb _))

theorem sameFades_receiveAddressed (p target : Station) (body : State → State) (hb : ∀ t : State, t.SameFades (body t)) :
    s.SameFades (s.receiveAddressed p target body) :=
  sameFades_receive s p _ fun t => .ite (hb t) (.refl t)

theorem sameFades_refuseLoad (r : Reason) : s.SameFades (s.refuseLoad r) := .of_fe (State.refuseLoad_fe s r)

theorem sameFades_takeConfig (p target : Station) (body : State → State) (hb : ∀ t : State, t.SameFades (body t)) :
    s.SameFades (s.takeConfig p target body) :=
  sameFades_receiveAddressed s p target _ fun t => .ite (hb t) (.ite (.refl t) (sameFades_refuseLoad t _))

/-! ## Takeover and links (chapter 6) -/

theorem takeHold_fe (l : LinkNo) (c : Channel) : (s.takeHold l c).fe = s.fe := by
  rw [State.takeHold, holdBegin_fe, queueLink_fe, modifyLink_fe]

theorem driveLink_fe (l : LinkNo) (c : Channel) : (s.driveLink l c).fe = s.fe := by
  rw [State.driveLink, levelChange_fe, queueLink_fe, modifyLink_fe]

theorem leaveList_fe (l : LinkNo) (c : Channel) : (s.leaveList l c).fe = s.fe := by
  have h := congrArg State.fe (s.leaveList_fe_update s.fe l c)
  exact h

theorem touchBegin_fe (c : Channel) : (s.touchBegin c).fe = s.fe := by
  unfold State.touchBegin
  dsimp only
  split
  · rfl
  · exact takeHold_fe ..

theorem touchEnd_fe (c : Channel) : (s.touchEnd c).fe = s.fe := by
  unfold State.touchEnd
  split
  · rfl
  · split
    · exact leaveList_fe ..
    · rfl

theorem faderChange_fe (c : Channel) : (s.faderChange c).fe = s.fe := by
  unfold State.faderChange
  split
  · rfl
  · split
    · exact driveLink_fe ..
    · rfl

theorem sameFades_acceptTouch (l : LinkNo) (t : Nat) (p : Option Station) (held : Bool) (level : Level) :
    s.SameFades
      (if ((s.countForeign l).tk.link.get l).acceptsTouch t p then (s.countForeign l).acceptTouch l t p held level
      else s.countForeign l) :=
  .trans (.of_watched (watched_countForeign s l)) (.ite (.of_fe (acceptTouch_fe ..)) (.of_fe rfl))

theorem sameFades_acceptRelease (l : LinkNo) (t : Nat) (p : Option Station) (level : Level) :
    s.SameFades
      (if ((s.countForeign l).tk.link.get l).acceptsRelease t p then (s.countForeign l).acceptRelease l t p level
      else s.countForeign l) :=
  .trans (.of_watched (watched_countForeign s l)) (.ite (.of_fe (acceptRelease_fe ..)) (.of_fe rfl))

/-! ## Panel Input (chapter 5) -/

theorem endTouch_fe (c : Channel) (s : State) : (State.endTouch c s).fe = s.fe := by
  unfold State.endTouch
  split
  · exact touchEnd_fe ..
  · rfl

theorem sameFades_endTouch (c : Channel) : s.SameFades (State.endTouch c s) := .of_fe (endTouch_fe c s)

theorem sameFades_beginTouch (c : Channel) : s.SameFades (s.beginTouch c) := .of_fe (touchBegin_fe ..)

theorem sameFades_lockPanel : s.SameFades s.lockPanel := .ite (.of_fe (forEach_field State.fe _ endTouch_fe _)) (.of_fe rfl)

theorem beginAccepting_fe : s.beginAccepting.fe = s.fe := by simp only [State.beginAccepting]

theorem sameFades_unlockPanel : s.SameFades s.unlockPanel := by
  have hunlocked : s.SameFades { s with pi.locked := false, pi.matchPos := 0, pi.unlockTimer := .stopped } := .of_fe rfl
  exact .ite (hunlocked.trans (.of_fe (beginAccepting_fe _))) hunlocked

theorem sameFades_matchKey (key : Fin 35) : s.SameFades (s.matchKey key) := by
  have hmatch : ∀ pos, s.SameFades (s.matchAt pos) := fun pos => .ite (sameFades_unlockPanel s) (.of_fe rfl)
  exact .ite (hmatch _) (.ite (hmatch _) (.of_fe rfl))

theorem sameFades_pressKey (key : Fin 35) (body : State → State) (hb : ∀ t : State, t.SameFades (body t)) :
    s.SameFades (s.pressKey key body) := by
  have hpressed : s.SameFades { s with pi.keyDown := s.pi.keyDown.set key true } := .of_fe rfl
  exact .ite hpressed (.ite (hpressed.trans (sameFades_matchKey _ key)) (hpressed.trans (hb _)))

theorem sameFades_countReading (k : FaderSlot) (rail : Bool) : s.SameFades (s.countReading k rail) := by
  have hcounted : s.SameFades (s.modifySlot k fun x => x.count rail s.config.faultCount) := .of_fe rfl
  unfold State.countReading
  dsimp only
  split
  · exact hcounted
  next c _ =>
    have hrearmed : s.SameFades ((s.modifySlot k fun x => x.count rail s.config.faultCount).modifyTouch c fun t =>
        { t with rearm := true }) := .of_fe rfl
    exact .ite (hcounted.trans (sameFades_endTouch ..)) (.ite (hrearmed.trans (.of_watched (watched_handAction ..))) hcounted)

theorem sameFades_motionTouch (c : Channel) (catchUp : Bool) : s.SameFades (s.motionTouch c catchUp) := by
  have hbegin : s.SameFades (if !(s.pi.touch.get c).touched && !catchUp then s.beginTouch c else s) :=
    .ite (sameFades_beginTouch s c) (.of_fe rfl)
  exact .ite (hbegin.trans (.ite (.of_fe rfl) (.of_fe rfl))) (.of_fe rfl)

theorem sameFades_handReading (k : FaderSlot) (first changed catchUp : Bool) :
    s.SameFades (s.handReading k first changed catchUp) := by
  unfold State.handReading
  split
  · exact .ite (.of_watched (watched_slotLevel ..)) (.of_fe rfl)
  · next c _ _ =>
    exact .trans (.ite (.of_fe (faderChange_fe s c)) (.of_fe rfl)) (sameFades_motionTouch ..)
  · exact .of_fe rfl

theorem sameFades_acceptReading (k : FaderSlot) (n : Nat) : s.SameFades (s.acceptReading k n) := by
  have hslot : s.SameFades (s.modifySlot k fun x =>
      { x with accepted := some n, level := lawLevel s.config.law n, catchUp := false }) := .of_fe rfl
  exact hslot.trans (sameFades_handReading ..)

theorem sameFades_readFader (k : FaderSlot) (raw : Nat) : s.SameFades (s.readFader k raw) := by
  have hcount := sameFades_countReading s k (isRail (calibrate raw s.pi.calOffset))
  exact .ite (hcount.trans (sameFades_acceptReading ..)) hcount

theorem sameFades_readReference (raw : Nat) : s.SameFades (s.readReference raw) := .ite (.of_fe rfl) (.of_fe rfl)

theorem sameFades_toggleAssertion (k : Fin 8) : s.SameFades (s.toggleAssertion k) := by
  unfold State.toggleAssertion
  split
  · exact .of_fe rfl
  · exact .of_fe (State.enqueue_fe ..)

theorem sameFades_stopKeyRequest : s.SameFades s.stopKeyRequest := .ite (.of_fe rfl) (.of_fe (State.enqueue_fe ..))

/-! ## The store, the configuration and the Show Link (chapters 2 and 8) -/

theorem sameFades_checkKey (cue : Cue) (channel : Fin 32) (body : Channel → State) (hb : ∀ c, s.SameFades (body c)) :
    s.SameFades (s.checkKey cue channel body) := by
  refine .ite (sameFades_refuseLoad s _) ?_
  split
  · exact sameFades_refuseLoad s _
  · exact hb _

theorem sameFades_checkCue (cue : Cue) (body : State) (hb : s.SameFades body) : s.SameFades (s.checkCue cue body) :=
  .ite (sameFades_refuseLoad s _) hb

theorem sameFades_takeItem (code index : Nat) (value : BitVec 16) : s.SameFades (s.takeItem code index value) := by
  unfold State.takeItem
  split
  · exact sameFades_refuseLoad s _
  · split
    · exact (sameFades_refuseLoad s _).trans (.of_fe rfl)
    · exact .of_fe rfl

theorem closeAssembly_fe : s.closeAssembly.fe = s.fe := by
  unfold State.closeAssembly
  split
  · rfl
  · split
    · rfl
    · exact acceptConfig_fe ..

theorem sameFades_takePresence (p : Station) (joining hold : Bool) (cue : Cue) (mask : BitVec 16) :
    s.SameFades (s.takePresence p joining hold cue mask) := by
  have hrecord : s.SameFades ((s.recordPresence p joining hold cue).replaceMask p mask) := .of_fe rfl
  exact .ite (hrecord.trans (.of_fe (joiningPeer_fe ..))) (.ite (hrecord.trans (.ite (.of_fe rfl) (.of_fe rfl))) hrecord)

theorem sameFades_losePeer (p : Station) : s.SameFades (s.losePeer p) := by
  refine State.SameFades.trans ?_ (.of_fe (releaseHeldBy_fe _ p))
  exact .ite (.of_fe rfl) (.of_fe rfl)

theorem sameFades_txError (kind : TxErrorKind) :
    s.SameFades
      (let left := s.sl.queue.filterMap TxEntry.fail
      let s1 := { s with sl.queue := left }
      let s2 := if left.length < s.sl.queue.length then s1.countDrop else s1
      if s.raisesErrors kind then s2.raiseTxErrors else s2) := by
  have hq : s.SameFades (if (s.sl.queue.filterMap TxEntry.fail).length < s.sl.queue.length then
      State.countDrop { s with sl.queue := s.sl.queue.filterMap TxEntry.fail }
      else { s with sl.queue := s.sl.queue.filterMap TxEntry.fail }) := .ite (.of_fe rfl) (.of_fe rfl)
  exact .ite (hq.trans (.of_watched (watched_raiseTxErrors _))) hq

/-! ## The gain port (chapter 9) -/

theorem sameFades_readReport (gin : BitVec 32) : s.SameFades (s.readReport gin) := by
  unfold State.readReport
  split <;> exact .of_fe rfl

theorem sameFades_endTransfer (t : Transfer) : s.SameFades (s.endTransfer t) := by
  cases t with
  | poll => exact .of_fe rfl
  | level => exact .ite (.of_fe rfl) (.of_fe rfl)

end

/-! ## Every other command -/

/-- The commands that may change what FE holds: those that play a cue, move the fades on, end the window or reset. -/
def movesFades : Instr → Bool
  | .powerOn .. | .resetLine .. | .restart .. | .go .. | .goto .. | .configEnd .. | .frameCount | .followExpiry | .advance
  | .fadeComplete .. | .pendingStepStart .. | .goKeyPress | .backKeyPress | .windowTimerExpiry | .limitTimerExpiry => true
  | _ => false

/-- What FE holds stands through every other command. -/
theorem exec_sameFades (i : Instr) (s t : State) (h : exec i s = .next t) (hi : movesFades i = false) : s.SameFades t := by
  cases i with
  | powerOn | resetLine | restart | go | goto | configEnd | frameCount | followExpiry | advance | fadeComplete
  | pendingStepStart | goKeyPress | backKeyPress | windowTimerExpiry | limitTimerExpiry => cases hi
  | hold p =>
    change execHold p s = .next t at h
    exact sameFades_take h (sameFades_receive s _ _ fun u => .ite (.of_fe rfl) (.of_fe rfl))
  | resume p =>
    change execResume p s = .next t at h
    exact sameFades_take h (sameFades_receive s _ _ fun u => .ite (.of_fe rfl) (.of_fe rfl))
  | linkTouch p l stamp toucher held level =>
    change execLinkTouch p l stamp toucher held level s = .next t at h
    exact sameFades_take h
      (sameFades_receive s _ _ fun u => .ite (sameFades_countIgnored u) (sameFades_acceptTouch u _ _ _ _ _))
  | linkState p l stamp toucher held level =>
    change execLinkState p l stamp toucher held level s = .next t at h
    exact sameFades_take h (sameFades_receive s _ _ fun u => sameFades_acceptTouch u _ _ _ _ _)
  | linkRelease p l stamp toucher held level =>
    change execLinkRelease p l stamp toucher held level s = .next t at h
    exact sameFades_take h
      (sameFades_receive s _ _ fun u => .ite (sameFades_countIgnored u) (sameFades_acceptRelease u _ _ _ _))
  | malformedLink p l =>
    change execMalformedLink p l s = .next t at h
    exact sameFades_take h (sameFades_receive s _ _ sameFades_countIgnored)
  | muteGroup p g asserted =>
    change execMuteGroup p g asserted s = .next t at h
    exact sameFades_take h (sameFades_receive s _ _ fun u => .ite (sameFades_countIgnored u) (.of_fe rfl))
  | groupLevel p m level =>
    change execGroupLevel p m level s = .next t at h
    exact sameFades_take h (sameFades_receive s _ _ fun u => .ite (.of_fe rfl) (sameFades_countIgnored u))
  | presence p joining held cue mask summary =>
    change execPresence p joining held cue mask summary s = .next t at h
    exact sameFades_take h
      (sameFades_receive s _ _ fun u => .ite (sameFades_countIgnored u) (sameFades_takePresence u _ _ _ _ _))
  | statusRequest p target =>
    change execStatusRequest p target s = .next t at h
    exact sameFades_take h
      (sameFades_receiveAddressed s _ _ _ fun u => .ite (.of_fe rfl) (.of_watched (watched_answerStatus u)))
  | statusReply p =>
    change execStatusReply p s = .next t at h
    exact sameFades_take h (sameFades_receive s _ _ .refl)
  | panelLock p target lock =>
    change execPanelLock p target lock s = .next t at h
    refine sameFades_take h (sameFades_receiveAddressed s _ _ _ fun u => ?_)
    have hu : u.SameFades { u with pi.lockTaken := true } := .of_fe rfl
    exact hu.trans (.ite (sameFades_lockPanel _) (.ite (sameFades_unlockPanel _) (.of_fe rfl)))
  | configBegin p target =>
    change execConfigBegin p target s = .next t at h
    exact sameFades_take h (sameFades_takeConfig s _ _ _ fun _ => .of_fe rfl)
  | configItem p target code index value =>
    change execConfigItem p target code index value s = .next t at h
    exact sameFades_take h (sameFades_takeConfig s _ _ _ fun u => sameFades_takeItem u _ _ _)
  | stepLoad p target cue channel level fade delay curve mute =>
    change execStepLoad p target cue channel level fade delay curve mute s = .next t at h
    exact sameFades_take h (sameFades_receiveAddressed s _ _ _ fun u => sameFades_checkKey u _ _ _ fun c =>
      .ite (.of_fe rfl) (sameFades_refuseLoad u _))
  | stepDelete p target cue channel =>
    change execStepDelete p target cue channel s = .next t at h
    exact sameFades_take h (sameFades_receiveAddressed s _ _ _ fun u => sameFades_checkKey u _ _ _ fun c => .of_fe rfl)
  | headerLoad p target cue present follow =>
    change execHeaderLoad p target cue present follow s = .next t at h
    exact sameFades_take h (sameFades_receiveAddressed s _ _ _ fun u => sameFades_checkCue u _ _
      (.ite (.of_fe rfl) (sameFades_refuseLoad u _)))
  | headerDelete p target cue =>
    change execHeaderDelete p target cue s = .next t at h
    exact sameFades_take h (sameFades_receiveAddressed s _ _ _ fun u => sameFades_checkCue u _ _ (.of_fe rfl))
  | cueErase p target cue =>
    change execCueErase p target cue s = .next t at h
    exact sameFades_take h (sameFades_receiveAddressed s _ _ _ fun u => sameFades_checkCue u _ _ (.of_fe rfl))
  | bankSet p target bank remoteGo localGo kind =>
    change execBankSet p target bank remoteGo localGo kind s = .next t at h
    refine sameFades_take h (sameFades_receiveAddressed s _ _ _ fun u => ?_)
    split
    · exact sameFades_refuseLoad u _
    · exact .of_fe rfl
  | tableClear p target =>
    change execTableClear p target s = .next t at h
    exact sameFades_take h (sameFades_receiveAddressed s _ _ _ fun _ => .of_fe rfl)
  | ignoredFrame frame =>
    change execIgnoredFrame frame s = .next t at h
    refine sameFades_take h ?_
    cases frame with
    | senderZero | unknownKind | tooFewBytes => exact (sameFades_clash s _).trans (sameFades_countIgnored _)
    | extended | remote => exact .of_fe rfl
  | receiveError =>
    change execReceiveError s = .next t at h
    exact sameFades_take h (.of_fe rfl)
  | recoveryTimer =>
    change execRecoveryTimer s = .next t at h
    exact sameFades_take h (.of_fe rfl)
  | glideTimer =>
    change execGlideTimer s = .next t at h
    exact sameFades_take h (.of_fe rfl)
  | keyRelease key =>
    change execKeyRelease key s = .next t at h
    exact sameFades_take h (.of_fe rfl)
  | gainRefreshExpiry =>
    change execGainRefreshExpiry s = .next t at h
    exact sameFades_take h (.of_fe rfl)
  | indicatorTimerExpiry =>
    change execIndicatorTimerExpiry s = .next t at h
    exact sameFades_take h (.of_fe rfl)
  | groupRefreshExpiry =>
    change execGroupRefreshExpiry s = .next t at h
    exact sameFades_take h (.of_watched (watched_queueLevels _))
  | presenceTimerExpiry =>
    change execPresenceTimerExpiry s = .next t at h
    exact sameFades_take h (.of_fe (State.enqueue_fe ..))
  | recessiveRun =>
    change execRecessiveRun s = .next t at h
    exact sameFades_takeWhen h (.ite (.of_watched (watched_endLinkOff s)) (.of_fe rfl))
  | linkOffEnd =>
    change execLinkOffEnd s = .next t at h
    exact sameFades_takeWhen h (.of_watched (watched_endLinkOff s))
  | frameOffer =>
    change execFrameOffer s = .next t at h
    exact sameFades_takeWhen h (.of_fe rfl)
  | lostArbitration =>
    change execLostArbitration s = .next t at h
    exact sameFades_takeWhen h (.of_fe rfl)
  | txError kind =>
    change execTxError kind s = .next t at h
    exact sameFades_takeWhen h (sameFades_txError s kind)
  | txSuccess =>
    change execTxSuccess s = .next t at h
    exact sameFades_takeWhen h (.of_fe rfl)
  | returnGlideEnd c =>
    change execReturnGlideEnd c s = .next t at h
    exact sameFades_takeWhen h (.of_fe rfl)
  | recoveryGlideEnd c =>
    change execRecoveryGlideEnd c s = .next t at h
    exact sameFades_takeWhen h (.of_fe rfl)
  | calibrationReading reading =>
    change execCalibrationReading reading s = .next t at h
    have hscan : s.SameFades (s.scanOn 0) := .of_fe rfl
    exact sameFades_takeWhen h (hscan.trans (sameFades_readReference ..))
  | faderReading slot reading =>
    change execFaderReading slot reading s = .next t at h
    have hscan : s.SameFades (s.scanOn (slot.val + 1)) := .of_fe rfl
    exact sameFades_takeWhen h (hscan.trans (sameFades_readFader ..))
  | spareSlotReading slot =>
    change execSpareSlotReading slot s = .next t at h
    exact sameFades_takeWhen h (.of_fe rfl)
  | touchLineActive c =>
    change execTouchLineActive c s = .next t at h
    have hline : s.SameFades (s.modifyTouch c fun t => { t with lineActive := true }) := .of_fe rfl
    exact sameFades_takeWhen h (.ite (hline.trans (sameFades_beginTouch ..)) hline)
  | touchLineInactive c =>
    change execTouchLineInactive c s = .next t at h
    have hline : s.SameFades (s.modifyTouch c fun t => { t with lineActive := false, rearm := false }) := .of_fe rfl
    exact sameFades_takeWhen h (.ite (hline.trans (sameFades_endTouch ..)) hline)
  | quietTimerExpiry c =>
    change execQuietTimerExpiry c s = .next t at h
    have hquiet : s.SameFades (s.modifyTouch c fun t => { t with quiet := .stopped }) := .of_fe rfl
    exact sameFades_takeWhen h (hquiet.trans (sameFades_endTouch ..))
  | stopKeyPress =>
    change execStopKeyPress s = .next t at h
    exact sameFades_takeWhen h (sameFades_pressKey s _ _ sameFades_stopKeyRequest)
  | muteKeyPress c =>
    change execMuteKeyPress c s = .next t at h
    exact sameFades_takeWhen h (sameFades_pressKey s _ _ fun _ => .of_fe rfl)
  | groupKeyPress k =>
    change execGroupKeyPress k s = .next t at h
    exact sameFades_takeWhen h (sameFades_pressKey s _ _ fun u => sameFades_toggleAssertion u k)
  | unlockTimerExpiry =>
    change execUnlockTimerExpiry s = .next t at h
    exact sameFades_takeWhen h (.of_fe rfl)
  | staleTimerExpiry m =>
    change execStaleTimerExpiry m s = .next t at h
    exact sameFades_takeWhen h (.of_fe rfl)
  | aloneTimerExpiry =>
    change execAloneTimerExpiry s = .next t at h
    exact sameFades_takeWhen h (.of_fe rfl)
  | clashTimerExpiry =>
    change execClashTimerExpiry s = .next t at h
    exact sameFades_takeWhen h (.of_fe rfl)
  | silenceTimerExpiry p =>
    change execSilenceTimerExpiry p s = .next t at h
    exact sameFades_takeWhen h (sameFades_losePeer s p)
  | burstTimerExpiry =>
    change execBurstTimerExpiry s = .next t at h
    exact sameFades_takeWhen h (.of_fe rfl)
  | levelTransfer =>
    change execLevelTransfer s = .next t at h
    unfold execLevelTransfer at h
    split at h
    · exact sameFades_take h (.of_fe rfl)
    · cases h; exact .of_fe rfl
  | transferComplete gin =>
    change execTransferComplete gin s = .next t at h
    unfold execTransferComplete at h
    split at h
    · cases h; exact .of_fe rfl
    · cases h
      exact ((sameFades_readReport s gin).trans (.of_fe (State.commit_fe ..))).trans (sameFades_endTransfer _ _)

end Sys2Proof.Machine

/-! SUPPORT. The invariant of the Fade Engine (R62, R64, R65): how fades, steps, GO, GOTO, the rejoin and the advance keep it, and every
command with them; it settles O54. -/

namespace Sys2Proof.Machine

/-! ## Fade records between events (R62, R64, R70, R73) -/

namespace FadeChannel.Legal

variable {ch : FadeChannel}

theorem of_idle (h : ch.slot = none) : ch.Legal := by constructor <;> simp [h]

theorem of_slot {r : FadeRecord} (h : ch.slot = some r) (helapsed : r.elapsed < r.duration) (hduration : r.duration ≤ 65535)
    (hcue : r.cue ≠ 0) (hlevel : ch.cueLevel = r.level) : ch.Legal := by
  constructor <;> (rw [h]; rintro _ ⟨⟩; assumption)

/-- The level of a fade that has just begun is its start (R5, R6). -/
theorem begin {cue : Cue} {fade : Nat} (hcue : cue ≠ 0) (hfade : fade ≤ 65535) (start target : Level) (curve : Curve) :
    (ch.begin cue start target fade curve).Legal := by
  unfold FadeChannel.begin
  split
  · exact of_idle rfl
  · next hne =>
    refine of_slot rfl (Nat.pos_of_ne_zero hne) hfade hcue ?_
    simp only [FadeRecord.level, progress_zero, shape_zero, interpolate_zero]

theorem mute (h : ch.Legal) (b : Bool) : ({ ch with cueMute := b } : FadeChannel).Legal :=
  ⟨h.elapsed, h.duration, h.cue, h.level⟩

theorem complete (h : ch.Legal) : ch.complete.Legal := by
  cases hslot : ch.slot with
  | none => rw [complete_idle hslot]; exact h
  | some r => rw [complete_running hslot (h.elapsed r hslot)]; exact h

theorem advance (h : ch.Legal) : ch.advance.Legal := by
  cases hslot : ch.slot with
  | none => rw [advance_idle hslot]; exact h
  | some r =>
    rcases Nat.lt_or_ge (r.elapsed + 1) r.duration with hrun | hdue
    · rw [advance_running hslot hrun]
      exact of_slot rfl hrun (h.duration r hslot) (h.cue r hslot) rfl
    · rw [advance_due hslot hdue]
      exact of_idle rfl

end FadeChannel.Legal

/-! ## The order of the pending list (R65) -/

namespace PendingStep

theorem before_iff (a b : PendingStep) :
    a.before b = true ↔ a.remaining < b.remaining ∨ (a.remaining = b.remaining ∧ a.channel.val < b.channel.val) := by
  simp only [before, Bool.or_eq_true, Bool.and_eq_true, decide_eq_true_eq]

theorem before_trans {a b c : PendingStep} (hab : a.before b = true) (hbc : b.before c = true) : a.before c = true := by
  rw [before_iff] at *
  omega

/-- Two entries of different channels stand in one order or the other. -/
theorem before_of_not_before {a b : PendingStep} (h : b.before a = false) (hne : a.channel ≠ b.channel) : a.before b = true := by
  have hnot : ¬(b.before a = true) := by simp [h]
  have hval : a.channel.val ≠ b.channel.val := fun e => hne (Fin.ext e)
  rw [before_iff] at *
  omega

/-- The order stands while both delays fall by one (R74). -/
theorem before_pred {a b : PendingStep} (h : a.before b = true) (ha : 1 ≤ a.remaining) :
    PendingStep.before { a with remaining := a.remaining - 1 } { b with remaining := b.remaining - 1 } = true := by
  rw [before_iff] at *
  simp only
  omega

/-- The fields of a step that is handed to FE, its delay perhaps 0 (R17, R65). -/
structure Handed (p : PendingStep) : Prop where
  cue : p.cue ≠ 0
  fade : p.fade ≤ 65535
  delay : p.remaining ≤ 2047

end PendingStep

theorem CueStep.Legal.handed {st : CueStep} (h : st.Legal) (priority : Bool) : (st.handed priority).Handed :=
  ⟨h.cue, h.fade, h.delay⟩

/-- A new entry keeps the order: it precedes none of the entries before its place and so stands behind them, and it precedes the first
entry after its place and so all of them. -/
theorem placePending_ordered {p : PendingStep} {q : List PendingStep} (h : q.Pairwise fun a b => a.before b = true)
    (hchannel : ∀ x ∈ q, x.channel ≠ p.channel) : (placePending p q).Pairwise fun a b => a.before b = true := by
  obtain ⟨a, b, rfl, ha, hb, hsplit⟩ := placePending_split p q
  obtain ⟨horderA, horderB, hacross⟩ := List.pairwise_append.mp h
  have hleft : ∀ x ∈ a, x.before p = true := fun x hx =>
    PendingStep.before_of_not_before (ha x hx) (hchannel x (List.mem_append_left b hx))
  have hright : ∀ y ∈ b, p.before y = true := by
    cases b with
    | nil => exact nofun
    | cons z b =>
      have hz : p.before z = true := hb z rfl
      intro y hy
      rcases List.mem_cons.mp hy with rfl | hy
      · exact hz
      · exact PendingStep.before_trans hz ((List.pairwise_cons.mp horderB).1 y hy)
  rw [hsplit]
  refine List.pairwise_append.mpr ⟨horderA, List.pairwise_cons.mpr ⟨hright, horderB⟩, fun x hx y hy => ?_⟩
  rcases List.mem_cons.mp hy with rfl | hy
  · exact hleft x hx
  · exact hacross x hx y hy

theorem placePending_channels {p : PendingStep} {q : List PendingStep} (h : (q.map PendingStep.channel).Nodup)
    (hchannel : ∀ x ∈ q, x.channel ≠ p.channel) : ((placePending p q).map PendingStep.channel).Nodup := by
  obtain ⟨a, b, rfl, -, -, hsplit⟩ := placePending_split p q
  have hnew : p.channel ∉ (a ++ b).map PendingStep.channel := fun hin => by
    obtain ⟨x, hx, hxp⟩ := List.mem_map.mp hin
    exact hchannel x hx hxp
  rw [hsplit]
  exact ((List.perm_middle.map PendingStep.channel).nodup_iff).mpr (List.nodup_cons.mpr ⟨hnew, h⟩)

namespace PendingLegal

variable {q : List PendingStep}

theorem nil : PendingLegal [] := ⟨.nil, .nil, nofun, nofun⟩

theorem sublist {l : List PendingStep} (h : PendingLegal q) (hl : l.Sublist q) : PendingLegal l where
  order := h.order.sublist hl
  channels := h.channels.sublist (hl.map _)
  remaining p hp := h.remaining p (hl.subset hp)
  fields p hp := h.fields p (hl.subset hp)

theorem handed (h : PendingLegal q) {p : PendingStep} (hp : p ∈ q) : p.Handed :=
  ⟨(h.fields p hp).1, (h.fields p hp).2, (h.remaining p hp).2⟩

/-- An entry of a channel that has none joins at the place it calls for (R67). -/
theorem place (h : PendingLegal q) {p : PendingStep} (hp : p.Handed) (hdelay : p.remaining ≠ 0)
    (hchannel : ∀ x ∈ q, x.channel ≠ p.channel) : PendingLegal (placePending p q) := by
  refine ⟨placePending_ordered h.order hchannel, placePending_channels h.channels hchannel, fun x hx => ?_, fun x hx => ?_⟩
  · rcases mem_placePending hx with rfl | hx
    · exact ⟨Nat.pos_of_ne_zero hdelay, hp.delay⟩
    · exact h.remaining x hx
  · rcases mem_placePending hx with rfl | hx
    · exact ⟨hp.cue, hp.fade⟩
    · exact h.fields x hx

/-- The entries with more than a frame to run, counted down (R74). -/
theorem countDown (h : PendingLegal q) :
    PendingLegal
      ((q.filter fun p => decide (1 < p.remaining)).map fun p => { p with remaining := p.remaining - 1 }) := by
  have hleft := h.sublist (List.filter_sublist (p := fun p => decide (1 < p.remaining)))
  refine ⟨?_, ?_, fun p hp => ?_, fun p hp => ?_⟩
  · exact List.pairwise_map.mpr
      (hleft.order.imp_of_mem fun ha _ hab => PendingStep.before_pred hab (hleft.remaining _ ha).1)
  · rw [List.map_map]
    exact hleft.channels
  · obtain ⟨x, hx, rfl⟩ := List.mem_map.mp hp
    have hmore : 1 < x.remaining := of_decide_eq_true (List.mem_filter.mp hx).2
    have hmost := (hleft.remaining x hx).2
    dsimp only
    omega
  · obtain ⟨x, hx, rfl⟩ := List.mem_map.mp hp
    exact hleft.fields x hx

end PendingLegal

/-! ## Fades and steps (chapter 4) -/

namespace State.FadesLegal

variable {s t : State}

theorem same (h : s.FadesLegal) (hst : s.SameFades t) : t.FadesLegal :=
  ⟨fun c => by rw [hst.chan]; exact h.chan c, by rw [hst.waiting]; exact h.waiting⟩

theorem withWaiting (h : s.FadesLegal) {q : List PendingStep} (hq : PendingLegal q) :
    State.FadesLegal { s with fe.waiting := q } := ⟨h.chan, hq⟩

theorem modifyFe (h : s.FadesLegal) {c : Channel} {f : FadeChannel → FadeChannel}
    (hf : (s.fe.chan.get c).Legal → (f (s.fe.chan.get c)).Legal) : (s.modifyFe c f).FadesLegal := by
  refine ⟨fun d => ?_, h.waiting⟩
  show ((s.fe.chan.modify c f).get d).Legal
  rw [Table.get_modify]
  split
  · next e => subst e; exact hf (h.chan c)
  · exact h.chan d

theorem startFade (h : s.FadesLegal) {cue : Cue} {fade : Nat} (hcue : cue ≠ 0) (hfade : fade ≤ 65535) (c : Channel)
    (target : Level) (curve : Curve) (priority : Bool) : (s.startFade c cue target fade curve priority).FadesLegal :=
  (h.modifyFe fun _ => .begin hcue hfade ..).same (.of_fe (State.notice_fe ..))

theorem startStep (h : s.FadesLegal) {p : PendingStep} (hp : p.Handed) : (s.startStep p).FadesLegal := by
  unfold State.startStep
  dsimp only
  split
  · exact h.modifyFe fun hc => hc.mute _
  · exact (h.startFade hp.cue hp.fade ..).modifyFe fun hc => hc.mute _

theorem startSteps (h : s.FadesLegal) {l : List PendingStep} (hl : ∀ p ∈ l, p.Handed) :
    (l.foldl State.startStep s).FadesLegal := by
  induction l generalizing s with
  | nil => exact h
  | cons p l ih => exact ih (h.startStep (hl p List.mem_cons_self)) fun x hx => hl x (List.mem_cons_of_mem p hx)

/-- The channel's entry leaves first, so that a step that joins the list is its channel's only one (R67). -/
theorem takeStep (h : s.FadesLegal) {p : PendingStep} (hp : p.Handed) : (s.takeStep p).FadesLegal := by
  have hrest : PendingLegal (s.fe.waiting.filter fun e => !decide (e.channel = p.channel)) :=
    h.waiting.sublist List.filter_sublist
  unfold State.takeStep
  dsimp only
  split
  · exact (h.withWaiting hrest).startStep hp
  · next hdelay => exact h.withWaiting (hrest.place hp hdelay fun x hx => by simpa using (List.mem_filter.mp hx).2)

theorem takeSteps (h : s.FadesLegal) {l : List PendingStep} (hl : ∀ p ∈ l, p.Handed) :
    (l.foldl State.takeStep s).FadesLegal := by
  induction l generalizing s with
  | nil => exact h
  | cons p l ih => exact ih (h.takeStep (hl p List.mem_cons_self)) fun x hx => hl x (List.mem_cons_of_mem p hx)

theorem handSteps (h : s.FadesLegal) (hs : s.cs.Legal) (n : Cue) : (s.handSteps n).FadesLegal := by
  rw [State.handSteps_eq]
  refine h.takeSteps fun p hp => ?_
  obtain ⟨st, hst, rfl⟩ := List.mem_map.mp hp
  exact (hs.steps st (List.mem_of_mem_filter (List.mem_of_mem_filter hst))).handed _

theorem advanceFades (h : s.FadesLegal) : s.advanceFades.FadesLegal := by
  rw [advanceFades_eq]
  refine startSteps ⟨fun c => ?_, h.waiting.countDown⟩ fun p hp => ?_
  · rw [Table.get_mapAt]
    exact (h.chan c).advance
  · obtain ⟨x, hx, rfl⟩ := List.mem_map.mp hp
    have hx := h.waiting.handed (List.mem_of_mem_filter hx)
    exact ⟨hx.cue, hx.fade, Nat.zero_le _⟩

theorem gotoRequest (h : s.FadesLegal) {n : Cue} {fade : Nat} (hn : n ≠ 0) (hfade : fade ≤ 65535) :
    (s.gotoRequest n fade).FadesLegal := by
  refine forEach_keeps State.FadesLegal _ (fun c t ht => ?_) _ (h.withWaiting .nil)
  unfold State.gotoChannel
  split
  · exact ht
  · exact (ht.startFade hn hfade ..).modifyFe fun hc => hc.mute _

/-! ## GO, GOTO and the sequencer (chapter 3) -/

theorem takeGo (h : s.FadesLegal) (hs : s.cs.Legal) (n : Cue) (cause : Cause) (isLocal : Bool) :
    (s.takeGo n cause isLocal).FadesLegal := by
  have hsteps : ∀ q : Sequencer, (State.handSteps { s with seq := q } n).FadesLegal := fun q =>
    handSteps (s := { s with seq := q }) ⟨h.chan, h.waiting⟩ hs n
  unfold State.takeGo
  dsimp only
  split
  · exact (hsteps _).same (.of_fe (State.enqueue_fe ..))
  · exact hsteps _

theorem expireFollow (h : s.FadesLegal) (hs : s.cs.Legal) : s.expireFollow.FadesLegal := by
  have hdisarmed : State.FadesLegal { s with seq.follow := none } := ⟨h.chan, h.waiting⟩
  unfold State.expireFollow
  dsimp only
  split
  · exact hdisarmed
  · split
    · exact hdisarmed.takeGo hs ..
    · exact hdisarmed.same (.of_fe (State.refuseGo_fe _))

theorem followChain (h : s.FadesLegal) (hs : s.cs.Legal) (fuel : Nat) : (s.followChain fuel).FadesLegal := by
  induction fuel generalizing s with
  | zero => exact h
  | succ fuel ih =>
    unfold State.followChain
    split
    · have hcs : s.expireFollow.cs = s.cs := (moves_expireFollow (H := True) s).cs
      exact ih (h.expireFollow hs) (hcs ▸ hs)
    · exact h

theorem runFollow (h : s.FadesLegal) (hs : s.cs.Legal) : s.runFollow.FadesLegal := h.followChain hs _

theorem runGo (h : s.FadesLegal) (hs : s.cs.Legal) (n : Cue) (cause : Cause) (isLocal : Bool) :
    (s.runGo n cause isLocal).FadesLegal :=
  (h.takeGo hs n cause isLocal).runFollow (by rw [State.takeGo_cs]; exact hs)

theorem takeGoto (h : s.FadesLegal) {n : Cue} {fade : Nat} (hn : n ≠ 0) (hfade : fade ≤ 65535) :
    (s.takeGoto n fade).FadesLegal :=
  gotoRequest (s := { s with
      seq.held := false, seq.currentCue := n, seq.goStamp := some s.seq.frameCount, seq.follow := none })
    ⟨h.chan, h.waiting⟩ hn hfade

end State.FadesLegal

/-- A listed cue is not cue 0 (R18). -/
theorem CueStore.Legal.previous_ne_zero {cs : CueStore} (h : cs.Legal) {c n : Cue} (hn : cs.previous c = some n) : n ≠ 0 := by
  obtain ⟨⟨r, hr, rfl⟩, -⟩ := CueStore.previous_eq_some.mp hn
  exact (h.headers r hr).1

/-! ## The relation -/

/-- An operation that keeps FE's invariant in a state whose store and configuration are in range. -/
def State.KeepsFades (s t : State) : Prop := s.cs.Legal → s.ConfigLegal → s.FadesLegal → t.FadesLegal

namespace State.KeepsFades

variable {s t u : State}

theorem of_same (h : s.SameFades t) : s.KeepsFades t := fun _ _ hf => hf.same h

theorem refl (s : State) : s.KeepsFades s := .of_same (.refl s)

/-- An operation that leaves FE, and keeps the store and the configuration, before one that keeps FE's invariant. -/
theorem after_same (m : s.Keeps t) (h : s.SameFades t) (k : t.KeepsFades u) : s.KeepsFades u := fun hs hc hf =>
  k (m.store hs) (m.config hc) (hf.same h)

/-- An operation that leaves FE, after one that keeps its invariant. -/
theorem then_same (h : s.KeepsFades t) (k : t.SameFades u) : s.KeepsFades u := fun hs hc hf => (h hs hc hf).same k

theorem ite {c : Prop} [Decidable c] (ht : c → s.KeepsFades t) (hu : ¬c → s.KeepsFades u) :
    s.KeepsFades (if c then t else u) := by
  split
  · next h => exact ht h
  · next h => exact hu h

end State.KeepsFades

section
variable {s t : State} {work : State → State} {enabled : Bool}

theorem keepsFades_take (h : s.take work = .next t) (hw : s.KeepsFades (work s)) : s.KeepsFades t := by
  obtain rfl : (work s).commit s = t := Host.Outcome.next.inj h
  exact hw.then_same (.of_fe (State.commit_fe ..))

theorem keepsFades_takeWhen (h : s.takeWhen enabled work = .next t) (hw : s.KeepsFades (work s)) : s.KeepsFades t := by
  cases enabled with
  | true => exact keepsFades_take h hw
  | false =>
    obtain rfl : s = t := Host.Outcome.next.inj h
    exact .refl s

end

section
variable (s : State)

theorem keepsFades_receive (p : Station) (body : State → State) (hb : ∀ t : State, t.KeepsFades (body t)) :
    s.KeepsFades (s.receive p body) :=
  .ite (fun _ => .of_same ((sameFades_clash s _).trans (sameFades_countIgnored _))) fun _ =>
    .after_same (moves_heard s p).keeps (.of_fe (State.heard_fe s p)) (hb _)

theorem keepsFades_receiveAddressed (p target : Station) (body : State → State)
    (hb : ∀ t : State, t.KeepsFades (body t)) : s.KeepsFades (s.receiveAddressed p target body) :=
  keepsFades_receive s p _ fun t => .ite (fun _ => hb t) fun _ => .refl t

theorem keepsFades_takeConfig (p target : Station) (body : State → State) (hb : ∀ t : State, t.KeepsFades (body t)) :
    s.KeepsFades (s.takeConfig p target body) :=
  keepsFades_receiveAddressed s p target _ fun t =>
    .ite (fun _ => hb t) fun _ => .of_same (.ite (.refl t) (sameFades_refuseLoad t _))

theorem keepsFades_pressKey (key : Fin 35) (body : State → State) (hb : ∀ t : State, t.KeepsFades (body t)) :
    s.KeepsFades (s.pressKey key body) := by
  have hmoves : s.Moves True { s with pi.keyDown := s.pi.keyDown.set key true } := .of_eq rfl rfl id
  have hpressed : s.SameFades { s with pi.keyDown := s.pi.keyDown.set key true } := .of_fe rfl
  exact .ite (fun _ => .of_same hpressed) fun _ =>
    .ite (fun _ => .of_same (hpressed.trans (sameFades_matchKey _ key))) fun _ => .after_same hmoves.keeps hpressed (hb _)

theorem keepsFades_goKeyRequest : s.KeepsFades s.goKeyRequest := by
  have hstamp : s.SameFades { s with seq.keyStamp := some s.seq.frameCount } := .of_fe rfl
  have hresume : s.SameFades { s with seq.keyStamp := some s.seq.frameCount, seq.held := false } := .of_fe rfl
  refine .ite (fun _ => .refl s) fun _ =>
    .ite (fun _ => .of_same (hresume.trans (.of_fe (State.enqueue_fe ..)))) fun _ => ?_
  split
  · exact .of_same (hstamp.trans (.of_fe (State.refuseGo_fe _)))
  · exact .ite (fun _ hs _ hf => (hf.same hstamp).runGo hs ..) fun _ =>
      .of_same (hstamp.trans (.of_fe (State.refuseGo_fe _)))

theorem keepsFades_backKeyRequest : s.KeepsFades s.backKeyRequest := by
  unfold State.backKeyRequest
  split
  · exact .of_same (.of_fe (State.refuseGo_fe s))
  · next n hn =>
    refine .ite (fun _ => .then_same (fun hs hc hf => ?_) (.of_fe (State.enqueue_fe ..))) fun _ =>
      .of_same (.of_fe (State.refuseGo_fe s))
    exact hf.takeGoto (hs.previous_ne_zero hn) hc.inForce.backTime

/-- The rejoin is a GOTO of the adopted cue over the GOTO time, if a cue has been adopted (R59). -/
theorem keepsFades_rejoin : s.KeepsFades s.rejoin := by
  have hgoto : s.KeepsFades (if s.seq.adoptedCue = 0 then s else s.takeGoto s.seq.adoptedCue s.config.gotoTime) :=
    .ite (fun _ => .refl s) fun hn _ hc hf => hf.takeGoto hn hc.inForce.gotoTime
  exact hgoto.then_same (.of_fe rfl)

theorem keepsFades_endJoining : s.KeepsFades s.endJoining := by
  have hclosed : s.Moves True s.windowClosed := .of_eq rfl rfl id
  have hrejoin : s.KeepsFades s.windowClosed.rejoin := .after_same hclosed.keeps (.of_fe rfl) (keepsFades_rejoin _)
  refine (hrejoin.then_same (u := if s.windowClosed.rejoin.pi.locked then s.windowClosed.rejoin
    else s.windowClosed.rejoin.beginAccepting) (.ite (.refl _) (.of_fe (beginAccepting_fe _)))).then_same ?_
  exact .of_fe (State.enqueue_fe ..)

theorem afterReset_fadesLegal (station : Station) (rate : BitRate) (k : Configuration) (store : CueStore) (offset : Int)
    (pending : List Instr) : (afterReset station rate k store offset pending).FadesLegal := by
  have hreset : (resetBlocks station rate k store offset pending).FadesLegal :=
    ⟨fun c => .of_idle (congrArg FadeChannel.slot (Table.get_const _ c)), .nil⟩
  rw [afterReset_eq]
  exact hreset.same (.of_fe ((State.enqueue_fe ..).trans (State.settle_fe _)))

end

/-! ## Every command -/

/-- What any command keeps. -/
theorem exec_keepsFades (i : Instr) (s t : State) (h : exec i s = .next t) : s.KeepsFades t := by
  cases i with
  | powerOn a b | resetLine a b =>
    obtain rfl : coldReset a b s = t := Host.Outcome.next.inj h
    exact fun _ _ _ => afterReset_fadesLegal ..
  | restart p target =>
    change execRestart p target s = .next t at h
    unfold execRestart at h
    split at h
    · cases h; exact fun _ _ _ => afterReset_fadesLegal ..
    · exact .of_same (sameFades_take h (sameFades_receiveAddressed s _ _ _ .refl))
  | go p n cause =>
    change execGo p n cause s = .next t at h
    exact keepsFades_take h (keepsFades_receive s _ _ fun u =>
      .ite (fun _ => .of_same (sameFades_countIgnored u)) fun _ => .ite (fun _ => .of_same (.of_fe rfl)) fun _ =>
        .ite (fun _ => .of_same (sameFades_countIgnored u)) fun _ hs _ hf => hf.runGo hs ..)
  | goto p n fade reason =>
    change execGoto p n fade reason s = .next t at h
    refine keepsFades_take h (keepsFades_receive s _ _ fun u =>
      .ite (fun _ => .of_same (sameFades_countIgnored u)) fun hn => .ite (fun _ => .of_same (.of_fe rfl)) fun _ =>
        .ite (fun _ => .of_same (sameFades_countIgnored u)) fun _ _ _ hf => ?_)
    exact hf.takeGoto (not_or.mp hn).1 (Nat.le_of_lt_succ fade.isLt)
  | configEnd p target =>
    change execConfigEnd p target s = .next t at h
    exact keepsFades_take h (keepsFades_takeConfig s _ _ _ fun u =>
      .after_same (keeps_closeAssembly u) (.of_fe (closeAssembly_fe u)) (keepsFades_endJoining _))
  | frameCount =>
    change execFrameCount s = .next t at h
    have hcount : ∀ q : Sequencer, s.SameFades { s with seq := q, fe.frameTimer := .running Config.frameMs } :=
      fun q => ⟨rfl, rfl⟩
    exact keepsFades_take h (.ite (fun _ => .of_same (hcount _)) fun _ hs _ hf => (hf.same (hcount _)).runFollow hs)
  | followExpiry =>
    change execFollowExpiry s = .next t at h
    exact keepsFades_takeWhen h fun hs _ hf => hf.runFollow hs
  | advance =>
    change execAdvance s = .next t at h
    exact keepsFades_take h (.ite (fun _ => .refl s) fun _ _ _ hf => hf.advanceFades)
  | fadeComplete c =>
    change execFadeComplete c s = .next t at h
    exact keepsFades_takeWhen h fun _ _ hf => hf.modifyFe fun hc => hc.complete
  | pendingStepStart c =>
    change execPendingStepStart c s = .next t at h
    exact keepsFades_takeWhen h fun _ _ hf => (hf.withWaiting (hf.waiting.sublist List.filter_sublist)).startSteps fun p hp =>
      hf.waiting.handed (List.mem_of_mem_filter hp)
  | goKeyPress =>
    change execGoKeyPress s = .next t at h
    exact keepsFades_takeWhen h (keepsFades_pressKey s _ _ keepsFades_goKeyRequest)
  | backKeyPress =>
    change execBackKeyPress s = .next t at h
    exact keepsFades_takeWhen h (keepsFades_pressKey s _ _ keepsFades_backKeyRequest)
  | windowTimerExpiry =>
    change execWindowTimerExpiry s = .next t at h
    exact keepsFades_takeWhen h (keepsFades_endJoining s)
  | limitTimerExpiry =>
    change execLimitTimerExpiry s = .next t at h
    have hreject : s.Keeps { s.setFlag .configRejected with sl.assembly := none } :=
      (moves_setFlag s _).keeps.trans (keeps_assembly _ none (by simp))
    exact keepsFades_takeWhen h (.after_same hreject (.of_fe rfl) (keepsFades_endJoining _))
  | _ => exact .of_same (exec_sameFades _ s t h rfl)

/-- Settles O54: the front command keeps FE's invariant, whose order of the pending list is the one stated. -/
theorem fadesKept : Obligations.FadesKept := by
  refine ⟨PendingStep.before_iff, fun s t hs hc hf h => ?_⟩
  have ht : t.FadesLegal := by
    unfold step at h
    split at h
    · obtain rfl : s = t := Host.Outcome.next.inj h
      exact hf
    · next i rest _ =>
      exact exec_keepsFades i { s with pending := rest } t h hs (State.configLegal_congr (s := s) rfl rfl hc) ⟨hf.chan, hf.waiting⟩
  exact ⟨ht, ht.waiting.order.imp fun {a b} => (PendingStep.before_iff a b).mp⟩

end Sys2Proof.Machine

/-! SUPPORT. The end of a touch, the panel lock, the unlock matcher, the MUTE and the group keys (R88 to R99, R131, R132); it settles
O28, O35, O36 and O37. -/

namespace Sys2Proof

variable {n : Nat} {α : Type}

theorem Table.set_set_self (t : Table n α) (i : Fin n) (a b : α) : Table.set (Table.set t i a) i b = Table.set t i b :=
  Table.ext fun j => by
    simp only [Table.get_set]
    split <;> rfl

theorem Table.set_get_self (t : Table n α) (i : Fin n) : Table.set t i (t.get i) = t :=
  Table.ext fun j => by
    rw [Table.get_set]
    split
    · next h => rw [h]
    · rfl

end Sys2Proof

namespace Sys2Proof.Machine

/-- Two outcomes of an event whose work comes to the same state. -/
theorem next_commit_congr {u w : State} (h : u = w) (s : State) :
    (Host.Outcome.next (u.commit s) : Host.Outcome State Fault Refusal) = .next (w.commit s) := by rw [h]

/-! ## The end of a touch (R89 to R91) -/

theorem endTouch_untouched {s : State} {c : Channel} (h : (s.pi.touch.get c).touched = false) : State.endTouch c s = s :=
  if_neg (by rw [h]; decide)

/-- A change of a channel's touch record and the end of its touch: TK takes the touch end with the record as both leave it. -/
theorem touchEnds_endTouch {s : State} {c : Channel} (f : TouchState → TouchState)
    (h : (f (s.pi.touch.get c)).touched = true) :
    State.TouchEnds
      { s with pi.touch := s.pi.touch.set c { f (s.pi.touch.get c) with touched := false, quiet := .stopped } } c
      (State.endTouch c (s.modifyTouch c f)) := by
  have hrecord : (s.modifyTouch c f).pi.touch.get c = f (s.pi.touch.get c) := Table.get_modify_self ..
  have hended := (State.touchIsEnded_endTouch (s.modifyTouch c f) c).2 (by rw [hrecord]; exact h)
  rw [hrecord] at hended
  have htable : (s.modifyTouch c f).pi.touch.set c { f (s.pi.touch.get c) with touched := false, quiet := .stopped } =
      s.pi.touch.set c { f (s.pi.touch.get c) with touched := false, quiet := .stopped } := Table.set_set_self ..
  rw [htable] at hended
  exact hended

/-- The fall of an active touch line (R90). -/
theorem execTouchLineInactive_active {s : State} {c : Channel} (h : (s.pi.touch.get c).lineActive = true) :
    execTouchLineInactive c s =
      .next (State.commit
        (if s.source c = .line then
          State.endTouch c (s.modifyTouch c fun t => { t with lineActive := false, rearm := false })
        else s.modifyTouch c fun t => { t with lineActive := false, rearm := false }) s) :=
  State.takeWhen_enabled h _

theorem execQuietTimerExpiry_running {s : State} {c : Channel} (h : (s.pi.touch.get c).quiet ≠ .stopped) :
    execQuietTimerExpiry c s =
      .next ((State.endTouch c (s.modifyTouch c fun t => { t with quiet := .stopped })).commit s) :=
  State.takeWhen_enabled (by simpa using h) _

/-- Settles O28: the fall of the line and the quiet timer each change the touch record and then end the touch, if there is one. -/
theorem touchEnds : Obligations.TouchEnds := by
  intro c s t0 withTouch
  refine ⟨fun ha ht hs => ?line, fun ha h => ?noTouch, fun ha => State.takeWhen_idle ha _, fun hq ht => ?quiet,
    fun hq => State.takeWhen_idle (by simpa using hq) _⟩
  case line =>
    refine ⟨_, touchEnds_endTouch (fun t => { t with lineActive := false, rearm := false }) ht, ?_⟩
    exact (execTouchLineInactive_active ha).trans (by rw [if_pos hs])
  case noTouch =>
    refine (execTouchLineInactive_active ha).trans ?_
    rcases h with ht | hm
    · have huntouched : ((s.modifyTouch c fun t => { t with lineActive := false, rearm := false }).pi.touch.get c).touched =
          false := (congrArg TouchState.touched (Table.get_modify_self ..)).trans ht
      rw [endTouch_untouched huntouched, ite_self]
      rfl
    · rw [if_neg (by rw [hm]; decide)]
      rfl
  case quiet =>
    exact ⟨_, touchEnds_endTouch (fun t => { t with quiet := .stopped }) ht, execQuietTimerExpiry_running hq⟩

/-! ## The panel lock (R88, R97, R99) -/

theorem execPanelLock_from {s : State} {p target : Station} (hp : p ≠ 0) (ht : s.addressed target = true) (lock : Bool) :
    execPanelLock p target lock s =
      .next (State.commit
        (if lock then State.lockPanel { s.heard p with pi.lockTaken := true }
        else if s.pi.locked then State.unlockPanel { s.heard p with pi.lockTaken := true }
        else { s.heard p with pi.lockTaken := true }) s) := by
  rw [execPanelLock, State.take_eq, State.receiveAddressed_taken hp ht]
  simp only [State.heard_pi]

theorem lockPanel_joining (s : State) (hj : s.sl.state = .joining) :
    s.lockPanel = { s with pi.locked := true, pi.matchPos := 0, pi.unlockTimer := .stopped } :=
  if_neg (by rw [hj]; decide)

/-- A lock of a RUNNING station ends its touches in ascending channel order (R88, R97; log 22). -/
theorem lockPanel_running (s : State) (hr : s.sl.state = .running) :
    s.lockPanel =
      (List.finRange 24).foldl (fun t c => State.endTouch c t)
        { s with pi.locked := true, pi.matchPos := 0, pi.unlockTimer := .stopped } :=
  if_pos hr

theorem unlockPanel_joining (s : State) (hj : s.sl.state = .joining) :
    s.unlockPanel = { s with pi.locked := false, pi.matchPos := 0, pi.unlockTimer := .stopped } :=
  if_neg (by rw [hj]; decide)

/-- An unlocked panel of a RUNNING station begins to accept input (R88, R97, R98). -/
theorem unlockPanel_running (s : State) (hr : s.sl.state = .running) :
    s.unlockPanel =
      { s with
        pi.locked := false
        pi.matchPos := 0
        pi.unlockTimer := .stopped
        pi.slot := s.pi.slot.mapAt fun _ x => { x with catchUp := true }
        pi.touch := s.pi.touch.mapAt fun _ x => { x with rearm := true } } :=
  if_pos hr

/-- Settles O37: the message is heard and taken; a lock ends the touches one after another, an unlock sets the marks of R88. -/
theorem panelLockAndUnlockTimer : Obligations.PanelLockAndUnlockTimer := by
  intro s
  refine ⟨fun p target hp ht => ?_, fun h => State.takeWhen_enabled (by simpa using h) _,
    fun h => State.takeWhen_idle (by simpa using h) _⟩
  have hstate : ({ s.heard p with pi.lockTaken := true } : State).sl.state = s.sl.state := s.heard_sl_state p
  refine ⟨?lock, fun hl => ?unlocked, fun hl => ?unlock⟩
  case lock =>
    have hexec : exec (.panelLock p target true) s =
        .next ((State.lockPanel { s.heard p with pi.lockTaken := true }).commit s) := execPanelLock_from hp ht true
    refine ⟨fun hj => ?_, fun hr => ⟨_, State.touchesAreEnded_foldl .., ?_⟩⟩
    · rw [hexec, lockPanel_joining _ (by rw [hstate, hj])]
    · rw [hexec, lockPanel_running _ (by rw [hstate, hr])]
  case unlocked =>
    refine (execPanelLock_from hp ht false).trans ?_
    rw [if_neg (by decide), if_neg (by rw [hl]; decide)]
  case unlock =>
    have hexec : exec (.panelLock p target false) s =
        .next ((State.unlockPanel { s.heard p with pi.lockTaken := true }).commit s) := by
      refine (execPanelLock_from hp ht false).trans ?_
      rw [if_neg (by decide), if_pos hl]
    refine ⟨fun hj => ?_, fun hr => ?_⟩
    · rw [hexec, unlockPanel_joining _ (by rw [hstate, hj])]
    · rw [hexec, unlockPanel_running _ (by rw [hstate, hr])]
      simp only [State.heard_pi]

/-! ## Keys that are not acted on (R93, R94, R98, R99) -/

/-- The presses of the 35 keys, each with its key. -/
def keyPresses : List (Instr × Fin 35) :=
  [(Instr.goKeyPress, goKey), (.backKeyPress, backKey), (.stopKeyPress, stopKey)] ++
    (List.finRange 24).map (fun c => (Instr.muteKeyPress c, muteKey c)) ++
    (List.finRange 8).map (fun k => (Instr.groupKeyPress k, groupKey k))

/-- Every key press is dispatched in the same way; the keys differ in what they do where they are acted on (R93, R94). -/
theorem exec_keyPress {i : Instr} {key : Fin 35} (h : (i, key) ∈ keyPresses) :
    ∃ body : State → State, ∀ s, exec i s = s.takePress key body := by
  simp only [keyPresses, List.mem_append, List.mem_cons, List.mem_map, List.mem_finRange, true_and, List.not_mem_nil, or_false,
    Prod.mk.injEq] at h
  obtain ((⟨rfl, rfl⟩ | ⟨rfl, rfl⟩ | ⟨rfl, rfl⟩) | ⟨c, rfl, rfl⟩) | ⟨k, rfl, rfl⟩ := h
  · exact ⟨State.goKeyRequest, fun _ => rfl⟩
  · exact ⟨State.backKeyRequest, fun _ => rfl⟩
  · exact ⟨State.stopKeyRequest, fun _ => rfl⟩
  · exact ⟨fun s => s.togglePanelMute c, fun _ => rfl⟩
  · exact ⟨fun s => s.toggleAssertion k, fun _ => rfl⟩

section
variable {s : State} {key : Fin 35}

theorem takePress_down (hk : s.pi.keyDown.get key = true) (body : State → State) : s.takePress key body = .next s :=
  State.takeWhen_idle (by rw [hk]; rfl) _

theorem takePress_joining (hk : s.pi.keyDown.get key = false) (hj : s.sl.state = .joining) (body : State → State) :
    s.takePress key body = .next ({ s with pi.keyDown := s.pi.keyDown.set key true }.commit s) := by
  rw [State.takePress, State.takeWhen_enabled (by rw [hk]; rfl), State.pressKey]
  dsimp only
  rw [if_pos hj]

theorem takePress_locked (hk : s.pi.keyDown.get key = false) (hr : s.sl.state = .running) (hl : s.pi.locked = true)
    (body : State → State) :
    s.takePress key body =
      .next ((State.matchKey { s with pi.keyDown := s.pi.keyDown.set key true } key).commit s) := by
  rw [State.takePress, State.takeWhen_enabled (by rw [hk]; rfl), State.pressKey]
  dsimp only
  rw [if_neg (not_joining hr), if_pos hl]

theorem codeMatches_iff (code : Option Nat) : codeMatches code key = true ↔ code = some 0 ∨ code = some (key.val + 1) := by
  simp only [codeMatches, keyCode, Bool.or_eq_true, beq_iff_eq]

/-- The key that the sequence has at the matcher's position (R98). -/
theorem matchKey_next (h : codeMatches s.config.unlockSequence[s.pi.matchPos]? key = true) :
    s.matchKey key = s.matchAt s.pi.matchPos := if_pos h

/-- Another key, with which the sequence begins (R98). -/
theorem matchKey_first (h : ¬codeMatches s.config.unlockSequence[s.pi.matchPos]? key = true)
    (h0 : codeMatches s.config.unlockSequence[0]? key = true) : s.matchKey key = s.matchAt 0 := by
  rw [State.matchKey, if_neg h, if_pos h0]

/-- A wrong key (R98). -/
theorem matchKey_wrong (h : ¬codeMatches s.config.unlockSequence[s.pi.matchPos]? key = true)
    (h0 : ¬codeMatches s.config.unlockSequence[0]? key = true) :
    s.matchKey key = { s with pi.matchPos := 0, pi.unlockTimer := .stopped } := by
  rw [State.matchKey, if_neg h, if_neg h0]

/-- The last code of the sequence unlocks the panel (R98). -/
theorem matchAt_last {pos : Nat} (h : pos + 1 = s.config.unlockSequence.length) : s.matchAt pos = s.unlockPanel := if_pos h

theorem matchAt_before_last {pos : Nat} (h : pos + 1 ≠ s.config.unlockSequence.length) :
    s.matchAt pos = { s with pi.matchPos := pos + 1, pi.unlockTimer := .running 2000 } := if_neg h

end

/-- Settles O35: the press of any key is dispatched by the panel's and the station's state, on a LOCKED panel to the matcher. -/
theorem keysNotActedOn : Obligations.KeysNotActedOn := by
  refine ⟨⟨rfl, rfl, rfl, fun _ => rfl, fun _ => rfl⟩, fun i key s hi => ?_⟩
  obtain ⟨body, hbody⟩ := exec_keyPress hi
  intro pressed codes matchesAt pos unlocked moved
  refine ⟨fun hk => ?_, fun hk => ⟨fun hj => ?_, fun hr hl => ?_⟩, rfl⟩
  · rw [hbody, takePress_down hk]
  · rw [hbody, takePress_joining hk hj]
  · have hexec : ∀ {w}, State.matchKey pressed key = w → exec i s = .next (w.commit s) := fun hw => by
      rw [hbody, takePress_locked hk hr hl]
      exact next_commit_congr hw s
    have hcode : ∀ {n}, codeMatches pressed.config.unlockSequence[n]? key = true ↔ matchesAt n := codeMatches_iff _
    have hunlock : pressed.unlockPanel = unlocked := unlockPanel_running pressed hr
    exact ⟨fun h hlast => hexec ((matchKey_next (hcode.mpr h)).trans ((matchAt_last (s := pressed) hlast).trans hunlock)),
      fun h hlast => hexec ((matchKey_next (hcode.mpr h)).trans (matchAt_before_last hlast)),
      fun h h0 hlast => hexec ((matchKey_first (hcode.not.mpr h) (hcode.mpr h0)).trans
        ((matchAt_last (s := pressed) hlast.symm).trans hunlock)),
      fun h h0 hlast => hexec ((matchKey_first (hcode.not.mpr h) (hcode.mpr h0)).trans (matchAt_before_last (Ne.symm hlast))),
      fun h h0 => hexec (matchKey_wrong (hcode.not.mpr h) (hcode.not.mpr h0))⟩

/-! ## MUTE and group keys (R95, R96, R131, R132) -/

theorem toggleAssertion_unmapped {s : State} {k : Fin 8} (h : s.config.keyMap.get k = none) : s.toggleAssertion k = s := by
  rw [State.toggleAssertion, h]

/-- A change of an own assertion: the asserter set, the MUTE_GROUP, and the masks that wait (R96, R132). -/
theorem toggleAssertion_mapped {s : State} {k : Fin 8} {g : GroupNo} (h : s.config.keyMap.get k = some g) :
    s.toggleAssertion k =
      (let b := !s.pi.ownAssert.get g
       let u :=
        State.enqueue
          { s with
            pi.ownAssert := s.pi.ownAssert.set g b
            sg.asserters := s.sg.asserters.modify g fun t => t.set s.sl.station b }
          (.muteGroup g b)
       { u with sl.queue := u.sl.queue.map fun e => e.updateMask g b }) := by
  rw [State.toggleAssertion, h]
  rfl

/-- An entry of another kind stays as it is (R132). -/
theorem updateMask_other {e : TxEntry} (h : e.msg.kind ≠ 20) (g : GroupNo) (b : Bool) : e.updateMask g b = e := by
  unfold TxEntry.updateMask
  split
  · next hm => exact absurd (congrArg Msg.kind hm) h
  · rfl

theorem updateMask_presence {e : TxEntry} {joining held : Bool} {cue : Cue} {mask : BitVec 16} {summary : BitVec 8}
    (h : e.msg = .presence joining held cue mask summary) (g : GroupNo) (b : Bool) :
    e.updateMask g b =
      { e with
        msg := .presence joining held cue
          (if b then mask ||| BitVec.twoPow 16 g.val else mask &&& ~~~BitVec.twoPow 16 g.val) summary
        amended := e.amended || e.sending.isSome } := by
  rw [TxEntry.updateMask, h]
  rfl

/-- The mask with the bit of one group set or clear. -/
theorem getLsbD_maskWith (mask : BitVec 16) (g h : GroupNo) (b : Bool) :
    BitVec.getLsbD (if b then mask ||| BitVec.twoPow 16 g.val else mask &&& ~~~BitVec.twoPow 16 g.val) h.val =
      if h = g then b else mask.getLsbD h.val := by
  have hbit : (BitVec.twoPow 16 g.val).getLsbD h.val = decide (h = g) := by
    simp only [BitVec.getLsbD_twoPow, g.isLt, decide_true, Bool.true_and, Fin.ext_iff, eq_comm]
  cases b with
  | true =>
    simp only [if_true, BitVec.getLsbD_or, hbit]
    by_cases hg : h = g <;> simp [hg]
  | false =>
    simp only [Bool.false_eq_true, if_false, BitVec.getLsbD_and, BitVec.getLsbD_not, h.isLt, decide_true, Bool.true_and, hbit]
    by_cases hg : h = g <;> simp [hg]

/-- One station's place in one asserter set. -/
theorem get_asserters_modify (sets : Table 16 (Table 32 Bool)) (g h : GroupNo) (own p : Station) (b : Bool) :
    ((sets.modify g fun t => t.set own b).get h).get p = if h = g ∧ p = own then b else (sets.get h).get p := by
  rw [Table.get_modify]
  by_cases hg : g = h
  · subst hg
    simp only [if_true, Table.get_set, true_and, eq_comm]
  · rw [if_neg hg, if_neg fun k => hg k.1.symm]

/-- Settles O36: a press that is acted on toggles one mute, or one assertion with its place in the set and its bit in the masks. -/
theorem muteAndGroupKeys : Obligations.MuteAndGroupKeys := by
  intro s hr hl
  refine ⟨fun c hk => ⟨s.pi.panelMute.modify c fun b => !b, takePress_acted hr hl hk _, fun d => ?_⟩, fun k hk => ?_⟩
  · rw [Table.get_modify]
    by_cases hd : c = d
    · rw [if_pos hd, if_pos hd.symm, hd]
    · rw [if_neg hd, if_neg (Ne.symm hd)]
  · let pressed : State := { s with pi.keyDown := s.pi.keyDown.set (groupKey k) true }
    have hexec : exec (.groupKeyPress k) s = .next ((pressed.toggleAssertion k).commit s) :=
      takePress_acted hr hl hk fun t => t.toggleAssertion k
    refine ⟨fun hmap => hexec.trans (next_commit_congr (toggleAssertion_unmapped (s := pressed) hmap) s), fun g hmap => ?_⟩
    intro b
    exact ⟨s.sg.asserters.modify g fun t => t.set s.sl.station b, fun e => e.updateMask g b,
      fun h p => get_asserters_modify .., fun e => ⟨fun hkind => updateMask_other hkind g b,
        fun joining held cue mask summary hm => ⟨_, fun h => getLsbD_maskWith mask g h b, updateMask_presence hm g b⟩⟩,
      hexec.trans (next_commit_congr (toggleAssertion_mapped (s := pressed) hmap) s)⟩

end Sys2Proof.Machine

/-! SUPPORT. Readings of the sense converter (R82 to R88, R91, R92): how a fader reading is counted and accepted, and what its user
takes; it settles O32, O33 and O34. -/

namespace Sys2Proof.Machine

/-! ## The count of a reading (R84, R86) -/

namespace SlotState

variable {x : SlotState} {rail : Bool} {limit : Nat}

theorem count_same (h : x.faulted = rail) : x.count rail limit = { x with run := 0 } := if_pos h.symm

theorem count_short (h : x.faulted = !rail) (hrun : x.run + 1 < limit) :
    x.count rail limit = { x with run := x.run + 1 } := by
  rw [count, if_neg (by rw [h]; cases rail <;> decide), if_neg (Nat.not_le.mpr hrun)]

theorem count_full (h : x.faulted = !rail) (hrun : limit ≤ x.run + 1) :
    x.count rail limit = { x with faulted := rail, run := 0 } := by
  rw [count, if_neg (by rw [h]; cases rail <;> decide), if_pos hrun]

/-- A travel reading of a NORMAL slot, or the last one that a fault takes to end. -/
theorem count_normal (h : x.faulted = false ∨ limit ≤ x.run + 1) :
    x.count false limit = { x with faulted := false, run := 0 } := by
  cases hx : x.faulted with
  | false => rw [count_same hx, ← hx]
  | true => exact count_full hx (h.resolve_left (by rw [hx]; decide))

end SlotState

/-! ## Calibration and the rails (R9, R84) -/

theorem calibrate_cast (raw : Nat) (offset : Int) : (calibrate raw offset : Int) = max 0 (min (raw + offset) 4095) := by
  simp only [calibrate, clamp]; omega

theorem isRail_iff (n : Nat) : isRail n = true ↔ (n : Int) < 32 ∨ 4063 < (n : Int) := by
  simp only [isRail, Bool.or_eq_true, decide_eq_true_eq]; omega

theorem slotChannel_channelSlot (c : Channel) : slotChannel (channelSlot c) = some c := dif_pos c.isLt

theorem slotChannel_of_master {k : FaderSlot} (h : 24 ≤ k.val) : slotChannel k = none := dif_neg (Nat.not_lt.mpr h)

/-! ## A counted reading (R84, R86, R87) -/

section
variable (s : State)

/-- A reading counted at a master fader slot. -/
theorem countReading_master {k : FaderSlot} (hk : 24 ≤ k.val) {rail : Bool} {y : SlotState}
    (hy : (s.pi.slot.get k).count rail s.config.faultCount = y) :
    s.countReading k rail = { s with pi.slot := s.pi.slot.set k y } := by
  rw [State.countReading_eq, slotChannel_of_master hk, hy]

/-- A reading that leaves the fader NORMAL or FAULTED as it was. -/
theorem countReading_run {k : FaderSlot} {rail : Bool} {y : SlotState}
    (hy : (s.pi.slot.get k).count rail s.config.faultCount = y) (hf : y.faulted = (s.pi.slot.get k).faulted) :
    s.countReading k rail = { s with pi.slot := s.pi.slot.set k y } := by
  subst hy
  exact s.countReading_steady k rail hf

/-- The rail reading with which a channel's fault begins ends its touch (R86, R87). -/
theorem countReading_fault_begins {c : Channel} (hf : (s.pi.slot.get (channelSlot c)).faulted = false)
    (hrun : s.config.faultCount ≤ (s.pi.slot.get (channelSlot c)).run + 1) :
    s.countReading (channelSlot c) true =
      State.endTouch c
        { s with
          pi.slot := s.pi.slot.set (channelSlot c) { s.pi.slot.get (channelSlot c) with faulted := true, run := 0 } } := by
  rw [State.countReading_eq, slotChannel_channelSlot, SlotState.count_full hf hrun]
  dsimp only
  rw [hf, if_pos (by decide)]

/-- The travel reading with which a channel's fault ends sets its re-arm mark and hands the action that follows (R86, R87, R172). -/
theorem countReading_fault_ends {c : Channel} (hf : (s.pi.slot.get (channelSlot c)).faulted = true)
    (hrun : s.config.faultCount ≤ (s.pi.slot.get (channelSlot c)).run + 1) :
    s.countReading (channelSlot c) false =
      State.handAction c
        { s with
          pi.slot := s.pi.slot.set (channelSlot c) { s.pi.slot.get (channelSlot c) with faulted := false, run := 0 }
          pi.touch := s.pi.touch.set c { s.pi.touch.get c with rearm := true } } := by
  rw [State.countReading_eq, slotChannel_channelSlot, SlotState.count_full hf hrun]
  dsimp only
  rw [hf, if_neg (by decide), if_pos (by decide)]

/-! ## A fader reading (R84, R85, R88) -/

/-- What a travel reading of a NORMAL slot needs to be accepted: a panel that accepts input, and a way from the accepted reading beyond
the deadband (R85, R88). -/
def State.Accepts (s : State) (k : FaderSlot) (n : Nat) : Prop :=
  s.sl.state = .running ∧ s.pi.locked = false ∧
    ∀ a, (s.pi.slot.get k).accepted = some a → s.config.deadband < ((n : Int) - (a : Int)).natAbs

variable {k : FaderSlot} {raw : Nat}

/-- A rail reading is counted alone. -/
theorem readFader_rail (h : isRail (calibrate raw s.pi.calOffset) = true) :
    s.readFader k raw = s.countReading k true := by
  rw [State.readFader_eq, h, if_neg fun hc => absurd hc.1 (by decide)]

/-- A travel reading that leaves its slot FAULTED is counted alone. -/
theorem readFader_faulted (h : isRail (calibrate raw s.pi.calOffset) = false)
    (hf : ((s.pi.slot.get k).count false s.config.faultCount).faulted = true) :
    s.readFader k raw = s.countReading k false := by
  rw [State.readFader_eq, h, if_neg fun hc => absurd (hf.symm.trans hc.2.1) (by decide)]

/-- A travel reading that is not accepted is counted alone. -/
theorem readFader_unaccepted (h : isRail (calibrate raw s.pi.calOffset) = false)
    (ha : ¬s.Accepts k (calibrate raw s.pi.calOffset)) : s.readFader k raw = s.countReading k false := by
  rw [State.readFader_eq, h, if_neg fun hc => ha hc.2.2]

theorem readFader_accepted (h : isRail (calibrate raw s.pi.calOffset) = false)
    (hf : (s.pi.slot.get k).faulted = false ∨ s.config.faultCount ≤ (s.pi.slot.get k).run + 1)
    (ha : s.Accepts k (calibrate raw s.pi.calOffset)) :
    s.readFader k raw = (s.countReading k false).acceptReading k (calibrate raw s.pi.calOffset) := by
  rw [State.readFader_eq, h, if_pos ⟨rfl, by rw [SlotState.count_normal hf], ha⟩]

end

theorem execFaderReading_converted {s : State} {k : FaderSlot} (h : s.pi.scanSlot = k.val + 1) (raw : Fin 4096) :
    execFaderReading k raw s = .next (((s.scanOn (k.val + 1)).readFader k raw.val).commit s) :=
  State.takeWhen_enabled (decide_eq_true h.symm) _

theorem converts_false {s : State} {n : Nat} (h : s.pi.scanSlot ≠ n) : s.converts n = false := decide_eq_false (Ne.symm h)

theorem converts_true {s : State} {n : Nat} (h : s.pi.scanSlot = n) : s.converts n = true := decide_eq_true h.symm

theorem readReference_inside (s : State) {raw : Nat} (hlow : 1984 ≤ raw) (hhigh : raw ≤ 2112) :
    s.readReference raw = { s with pi.calOffset := 2048 - (raw : Int), pi.calFault := false } := if_pos ⟨hlow, hhigh⟩

theorem readReference_outside (s : State) {raw : Nat} (h : raw < 1984 ∨ 2112 < raw) :
    s.readReference raw = { s with pi.calFault := true } := if_neg (by omega)

/-- Settles O32: a conversion of the slot that stands next moves the scan on and then reads the slot; a fader reading by its rail or
travel, by the state of its slot and by its count. -/
theorem readingsThatMoveNothing : Obligations.ReadingsThatMoveNothing := by
  intro s first n scanned
  have hscan : ∀ {m}, n = m → s.scanOn m = scanned := fun hm => hm ▸ rfl
  refine ⟨rfl, fun raw => ⟨fun hn hlow hhigh => ?ended, fun hn hout => ?begun,
      fun hn => State.takeWhen_idle (converts_false hn) _⟩,
    fun k => ⟨fun hn => ?spare, fun hn => State.takeWhen_idle (converts_false hn) _⟩, fun k raw => ?fader⟩
  case ended =>
    refine (State.takeWhen_enabled (converts_true hn) _).trans (next_commit_congr ?_ s)
    rw [hscan hn, readReference_inside _ hlow hhigh]
  case begun =>
    refine (State.takeWhen_enabled (converts_true hn) _).trans (next_commit_congr ?_ s)
    rw [hscan hn, readReference_outside _ hout]
  case spare => exact (State.takeWhen_enabled (converts_true hn) _).trans (next_commit_congr (hscan hn) s)
  case fader =>
    intro c rail x withSlot done accepted
    refine ⟨fun hn => State.takeWhen_idle (converts_false hn) _, fun hn => ?_⟩
    have hdone : ∀ {w}, scanned.readFader k raw.val = w → done w := fun hw =>
      (execFaderReading_converted hn raw).trans (next_commit_congr (by rw [hscan hn, hw]) s)
    have hcast : (calibrate raw.val s.pi.calOffset : Int) = c := calibrate_cast ..
    have hrail : isRail (calibrate raw.val scanned.pi.calOffset) = true ↔ rail := by
      show isRail (calibrate raw.val s.pi.calOffset) = true ↔ rail
      rw [isRail_iff, hcast]
    have htravel : ¬rail → isRail (calibrate raw.val scanned.pi.calOffset) = false := fun h =>
      Bool.eq_false_iff.mpr (hrail.not.mpr h)
    have haccepted : ¬accepted → ¬scanned.Accepts k (calibrate raw.val scanned.pi.calOffset) := by
      refine mt fun h => ?_
      obtain ⟨hr, hl, hdeadband⟩ := h
      exact ⟨hr, hl, fun a ha => hcast ▸ hdeadband a ha⟩
    refine ⟨fun hr hf => ?_, fun hr hf hrun => ?_, fun hr hf hrun => ⟨fun hk => ?_, fun d hd => ?_⟩, fun hr hf hrun => ?_,
      fun hr hf ha => ?_, fun hr hf hrun ha => ⟨fun hk => ?_, fun d hd => ?_⟩⟩
    · exact hdone ((readFader_rail _ (hrail.mpr hr)).trans (countReading_run _ (SlotState.count_same hf) rfl))
    · exact hdone ((readFader_rail _ (hrail.mpr hr)).trans (countReading_run _ (SlotState.count_short hf hrun) rfl))
    · exact hdone ((readFader_rail _ (hrail.mpr hr)).trans (countReading_master _ hk (SlotState.count_full hf hrun)))
    · obtain rfl : channelSlot d = k := Fin.ext hd
      exact ⟨_, State.touchIsEnded_endTouch _ d,
        hdone ((readFader_rail _ (hrail.mpr hr)).trans (countReading_fault_begins scanned hf hrun))⟩
    · have hcount := SlotState.count_short (rail := false) hf hrun
      have hfaulted : (x.count false s.config.faultCount).faulted = true := by rw [hcount]; exact hf
      exact hdone ((readFader_faulted _ (htravel hr) hfaulted).trans (countReading_run _ hcount rfl))
    · exact hdone ((readFader_unaccepted _ (htravel hr) (haccepted ha)).trans
        (countReading_run _ (SlotState.count_same hf) rfl))
    · exact hdone ((readFader_unaccepted _ (htravel hr) (haccepted ha)).trans
        (countReading_master _ hk (SlotState.count_full hf hrun)))
    · obtain rfl : channelSlot d = k := Fin.ext hd
      exact ⟨_, State.actionIsHanded_handAction _ d,
        hdone ((readFader_unaccepted _ (htravel hr) (haccepted ha)).trans (countReading_fault_ends scanned hf hrun))⟩

/-! ## An accepted reading of a channel's fader (R84 to R88, R91, R105, R106) -/

/-- The panel with an accepted reading of a channel's fader, and with the re-arm mark set that goes with the end of a fault. -/
def State.withReading (s : State) (c : Channel) (n : Nat) : State :=
  { s with
    pi.slot := s.pi.slot.set (channelSlot c) ⟨some n, lawLevel s.config.law n, false, 0, false⟩
    pi.touch := s.pi.touch.set c
      { s.pi.touch.get c with
        rearm := (s.pi.touch.get c).rearm || (s.pi.slot.get (channelSlot c)).faulted } }

/-- The reading as TK finds it: where it ends a fault, the action that follows has been handed (R87, R172). -/
def State.tested (s : State) (c : Channel) (n : Nat) : State :=
  if (s.pi.slot.get (channelSlot c)).faulted then State.handAction c (s.withReading c n) else s.withReading c n

/-- The reading as TK has taken it: a changed level has been handed over (R85, R106). -/
def State.handedReading (s : State) (c : Channel) (n : Nat) : State :=
  if lawLevel s.config.law n = (s.pi.slot.get (channelSlot c)).level then s.tested c n else (s.tested c n).faderChange c

section
variable (s : State) (c : Channel) (n : Nat)

theorem tested_spec :
    if (s.pi.slot.get (channelSlot c)).faulted then (s.withReading c n).ActionIsHanded c (s.tested c n)
    else s.tested c n = s.withReading c n := by
  unfold State.tested
  split
  · exact State.actionIsHanded_handAction ..
  · rfl

theorem handedReading_spec :
    if lawLevel s.config.law n = (s.pi.slot.get (channelSlot c)).level then s.handedReading c n = s.tested c n
    else (s.tested c n).FaderMoves c (s.handedReading c n) := by
  unfold State.handedReading
  split
  · rfl
  · exact State.faderMoves_faderChange ..

theorem tested_pi : (s.tested c n).pi = (s.withReading c n).pi := by
  unfold State.tested
  split
  · exact State.handAction_pi ..
  · rfl

theorem tested_config : (s.tested c n).config = s.config := by
  unfold State.tested
  split
  · exact State.handAction_config ..
  · rfl

theorem handedReading_pi : (s.handedReading c n).pi = (s.withReading c n).pi := by
  unfold State.handedReading
  split
  · exact tested_pi s c n
  · exact (State.levelsOnly_faderChange ..).pi.trans (tested_pi s c n)

theorem handedReading_config : (s.handedReading c n).config = s.config := by
  unfold State.handedReading
  split
  · exact tested_config s c n
  · exact (State.levelsOnly_faderChange ..).config.trans (tested_config s c n)

/-- The slot after the count of a reading that is accepted, and what the acceptance then makes of the counted state. -/
theorem countReading_accepted
    (hf : (s.pi.slot.get (channelSlot c)).faulted = false ∨
      s.config.faultCount ≤ (s.pi.slot.get (channelSlot c)).run + 1) :
    let u := s.countReading (channelSlot c) false
    u.pi.slot.get (channelSlot c) = { s.pi.slot.get (channelSlot c) with faulted := false, run := 0 } ∧
      { u with
        pi.slot := u.pi.slot.set (channelSlot c) ⟨some n, lawLevel s.config.law n, false, 0, false⟩ } = s.tested c n := by
  refine ⟨(s.countReading_keeps _ false).1.trans (SlotState.count_normal hf), ?_⟩
  unfold State.tested
  cases hx : (s.pi.slot.get (channelSlot c)).faulted with
  | false =>
    rw [countReading_run s (SlotState.count_same hx) rfl, if_neg (by decide)]
    dsimp only
    rw [Table.set_set_self]
    unfold State.withReading
    rw [hx, Bool.or_false, Table.set_get_self]
  | true =>
    rw [countReading_fault_ends s hx (hf.resolve_left (by rw [hx]; decide)), if_pos rfl, State.handAction_pi]
    refine (State.handAction_pi_update _ _ c ?_).symm.trans (congrArg (State.handAction c) ?_)
    · dsimp only
      rw [Table.get_set_self, Table.get_set_self]
    · dsimp only
      rw [Table.set_set_self]
      unfold State.withReading
      rw [hx, Bool.or_true]

theorem acceptReading_counted
    (hf : (s.pi.slot.get (channelSlot c)).faulted = false ∨
      s.config.faultCount ≤ (s.pi.slot.get (channelSlot c)).run + 1) :
    (s.countReading (channelSlot c) false).acceptReading (channelSlot c) n =
      (s.handedReading c n).motionTouch c (s.pi.slot.get (channelSlot c)).catchUp := by
  obtain ⟨hslot, htested⟩ := countReading_accepted s c n hf
  rw [State.acceptReading_channel, hslot, (s.countReading_keeps _ false).2.2]
  dsimp only
  rw [htested]
  unfold State.handedReading
  by_cases h : lawLevel s.config.law n = (s.pi.slot.get (channelSlot c)).level
  · rw [if_pos h, if_neg (by simp [h])]
  · rw [if_neg h, if_pos (by simpa using Ne.symm h)]

end

/-- A travel reading that its slot, the panel and the deadband let through is counted and then accepted (R84, R85, R88). -/
theorem faderReading_accepted {s : State} {k : FaderSlot} {raw : Fin 4096} (hscan : s.pi.scanSlot = k.val + 1)
    (hlow : 32 ≤ calibrate raw.val s.pi.calOffset)
    (hhigh : calibrate raw.val s.pi.calOffset ≤ 4063)
    (hf : (s.pi.slot.get k).faulted = false ∨ s.config.faultCount ≤ (s.pi.slot.get k).run + 1)
    (ha : s.Accepts k (calibrate raw.val s.pi.calOffset)) :
    exec (.faderReading k raw) s =
      .next ((((s.scanOn (k.val + 1)).countReading k false).acceptReading k (calibrate raw.val s.pi.calOffset)).commit s) := by
  have htravel : isRail (calibrate raw.val (s.scanOn (k.val + 1)).pi.calOffset) = false := by
    rw [Bool.eq_false_iff, ne_eq, isRail_iff]
    change ¬((calibrate raw.val s.pi.calOffset : Int) < 32 ∨ 4063 < (calibrate raw.val s.pi.calOffset : Int))
    omega
  exact (execFaderReading_converted hscan raw).trans
    (next_commit_congr (readFader_accepted (s.scanOn (k.val + 1)) htravel hf ha) s)

/-- Settles O33: the reading is counted, its level is handed over, and a MOTION channel's touch begins or goes on. -/
theorem acceptedReadingOfAChannel : Obligations.AcceptedReadingOfAChannel := by
  intro c raw s hscan hr hl k n x level hlow hhigh hf hdeadband t0 read quiet
  let scanned := s.scanOn (c.val + 1)
  have hread : scanned.withReading c n = read := rfl
  refine ⟨scanned.tested c n, scanned.handedReading c n, (scanned.handedReading c n).motionTouch c x.catchUp,
    tested_spec scanned c n, handedReading_spec scanned c n, ?touch, ?exec⟩
  case touch =>
    have hspec := State.motionTouch_spec (scanned.handedReading c n) c x.catchUp
    have hsource : (scanned.handedReading c n).source c = s.source c := by
      unfold State.source; rw [handedReading_config]; rfl
    have htouch : (scanned.handedReading c n).pi.touch.get c = t0 := by
      rw [handedReading_pi, hread]; exact Table.get_set_self ..
    have hquiet : (scanned.handedReading c n).config.quietTime = s.config.quietTime := by rw [handedReading_config]; rfl
    dsimp only at hspec
    rw [hsource, htouch, hquiet] at hspec
    exact hspec
  case exec =>
    exact (faderReading_accepted hscan hlow hhigh hf ⟨hr, hl, hdeadband⟩).trans
      (next_commit_congr (acceptReading_counted scanned c n hf) s)

/-! ## An accepted reading of a master fader slot (R92, R125, R126) -/

/-- Settles O34: the counted reading is accepted, and every master bound to the slot takes its level in turn. -/
theorem acceptedReadingOfAMasterSlot : Obligations.AcceptedReadingOfAMasterSlot := by
  intro k raw s hscan hr hl n x level hlow hhigh hf hdeadband first bound announced read
  let scanned := s.scanOn (k.val + 25)
  have hexec : exec (.faderReading (masterSlot k) raw) s =
      .next (((scanned.countReading (masterSlot k) false).acceptReading (masterSlot k) n).commit s) :=
    faderReading_accepted (k := masterSlot k) hscan hlow hhigh hf ⟨hr, hl, hdeadband⟩
  have hcount : scanned.countReading (masterSlot k) false =
      { scanned with pi.slot := s.pi.slot.set (masterSlot k) { x with faulted := false, run := 0 } } :=
    countReading_master scanned (Nat.le_add_left ..) (SlotState.count_normal hf)
  have haccept : (scanned.countReading (masterSlot k) false).acceptReading (masterSlot k) n =
      if first || (x.level != level) then read.slotLevel k first else read := by
    rw [hcount, State.acceptReading_master]
    dsimp only
    rw [Table.get_set_self, Table.set_set_self]
    rfl
  have hlevel : (read.pi.slot.get (masterSlot k)).level = level := congrArg SlotState.level (Table.get_set_self ..)
  refine ⟨fun hfirst h => hexec.trans (next_commit_congr (haccept.trans ?_) s),
    fun h => hexec.trans (next_commit_congr (haccept.trans ?_) s)⟩
  · exact if_neg (by simp [hfirst, h])
  · rw [if_pos (by rw [Bool.or_eq_true, bne_iff_ne]; exact h.imp_right Ne.symm), State.slotLevel_eq, hlevel]
    rfl

end Sys2Proof.Machine

/-! SUPPORT. The invariant of Takeover and Spread Links by channel and by link (R103, R104, R109, R110, R112, R114, R116, R118): what it
reads of the state, and how it carries over to a state in which a channel, a link or neither has changed. -/

namespace Sys2Proof.Machine

/-! ## The invariant by channel and by link -/

/-- What TK holds for one channel between events (R103, R104, R109, R110). -/
structure State.ChannelSound (s : State) (c : Channel) : Prop where
  legal : (s.tk.chan.get c).Legal (s.mode c)
  mark : (s.tk.chan.get c).mark = true → (s.pi.touch.get c).touched = true

/-- What TK holds for one link between events, and the TOUCHED members that follow it (R104, R112, R114, R116, R118). -/
structure State.LinkSound (s : State) (l : LinkNo) : Prop where
  record : s.LinkLegal l
  list : s.TouchingLegal l
  following : ∀ c, s.follows l c = true → (s.tk.chan.get c).state = .touched →
    (s.tk.link.get l).held = true ∧ (s.tk.chan.get c).manual = (s.tk.link.get l).level

/-- TK between events, with the range of the return time, on which its glides rest (R110). -/
structure State.TakeoverSound (s : State) : Prop where
  returnTime : s.config.returnTime ≤ 1000
  channel : ∀ c, s.ChannelSound c
  link : ∀ l, s.LinkSound l

theorem takeoverSound_iff (s : State) :
    s.TakeoverSound ↔ s.config.returnTime ≤ 1000 ∧ (∀ l, s.LinkLegal l ∧ s.TouchingLegal l) ∧ s.TakeoverLegal := by
  constructor
  · intro h
    exact ⟨h.returnTime, fun l => ⟨(h.link l).record, (h.link l).list⟩,
      fun c => (h.channel c).legal, fun c l => (h.link l).following c, fun c => (h.channel c).mark⟩
  · rintro ⟨hreturn, hlinks, hchan, hfollowing, hmark⟩
    exact ⟨hreturn, fun c => ⟨hchan c, hmark c⟩, fun l => ⟨(hlinks l).1, (hlinks l).2, fun c => hfollowing c l⟩⟩

/-! ## What the invariant reads beside TK -/

/-- `t` has the configuration and the number of `s`, and every peer PRESENT in `s`. -/
structure State.SameNet (s t : State) : Prop where
  config : t.config = s.config
  station : t.sl.station = s.sl.station
  present : ∀ p, s.present p = true → t.present p = true

namespace State.SameNet

variable {s t u : State}

theorem refl (s : State) : s.SameNet s := ⟨rfl, rfl, fun _ h => h⟩

theorem trans (h : s.SameNet t) (k : t.SameNet u) : s.SameNet u :=
  ⟨k.config.trans h.config, k.station.trans h.station, fun p hp => k.present p (h.present p hp)⟩

theorem of_peer (hconfig : t.sl.config = s.sl.config) (hstation : t.sl.station = s.sl.station) (hpeer : t.sl.peer = s.sl.peer) :
    s.SameNet t :=
  ⟨hconfig, hstation, fun p hp => by unfold State.present at hp ⊢; rw [hstation, hpeer]; exact hp⟩

theorem of_levels (h : s.LevelsOnly t) : s.SameNet t := .of_peer h.config h.station h.peer

theorem linkOf (h : s.SameNet t) (c : Channel) : t.linkOf c = s.linkOf c := by simp only [State.linkOf, h.config]

theorem mode (h : s.SameNet t) (c : Channel) : t.mode c = s.mode c := by simp only [State.mode, h.config]

theorem follows (h : s.SameNet t) (l : LinkNo) (c : Channel) : t.follows l c = s.follows l c := by
  simp only [State.follows, h.linkOf, h.mode]

end State.SameNet

/-- A touch of channel `c` that is counted: one that is not disregarded (R109). -/
def State.Counts (s : State) (c : Channel) : Prop := (s.pi.touch.get c).touched = true ∧ (s.tk.chan.get c).mark = false

/-- Channel `c` follows its link in `t` as in `s`: it is at the same fader level, and TOUCHED only where it was, at the same manual
level. -/
structure State.KeepsLevel (s t : State) (c : Channel) : Prop where
  fader : t.faderLevel c = s.faderLevel c
  manual : (t.tk.chan.get c).state = .touched →
    (s.tk.chan.get c).state = .touched ∧ (t.tk.chan.get c).manual = (s.tk.chan.get c).manual

/-- Channel `c` stands to its link in `t` as in `s`: it follows as it did, and its touch is counted where it was. -/
structure State.KeepsPlace (s t : State) (c : Channel) : Prop extends s.KeepsLevel t c where
  counted : t.Counts c ↔ s.Counts c

theorem State.KeepsPlace.of_records {s t : State} {c : Channel} (hfader : t.faderLevel c = s.faderLevel c)
    (htouched : (t.pi.touch.get c).touched = (s.pi.touch.get c).touched) (hchan : t.tk.chan.get c = s.tk.chan.get c) :
    s.KeepsPlace t c where
  fader := hfader
  manual ht := by rw [hchan] at ht ⊢; exact ⟨ht, rfl⟩
  counted := by rw [State.Counts, State.Counts, htouched, hchan]

theorem State.KeepsPlace.of_chan {s t : State} {c : Channel} (hpi : t.pi = s.pi) (h : t.tk.chan.get c = s.tk.chan.get c) :
    s.KeepsPlace t c :=
  .of_records (by simp only [State.faderLevel, hpi]) (by rw [hpi]) h

/-- A link record that may stand in state `s` (R112, R114, R116). -/
structure LinkRecord.Stands (r : LinkRecord) (s : State) : Prop where
  stamp : r.stamp ≤ Config.stampTop
  held : r.held = r.holder.isSome
  holder : ∀ p ∈ r.holder, p = s.sl.station ∨ s.present p = true
  here : r.holder = some s.sl.station ↔ r.touching ≠ []
  zero : r.stamp = 0 → r.lastToucher = none

theorem linkLegal_iff (s : State) (l : LinkNo) : s.LinkLegal l ↔ (s.tk.link.get l).Stands s :=
  ⟨fun h => ⟨h.stamp, h.held, h.holder, h.here, h.zero⟩, fun h => ⟨h.stamp, h.held, h.holder, h.here, h.zero⟩⟩

theorem LinkRecord.Stands.carry {r : LinkRecord} {s t : State} (h : r.Stands s) (hnet : s.SameNet t) : r.Stands t where
  stamp := h.stamp
  held := h.held
  holder p hp := by rw [hnet.station]; exact (h.holder p hp).imp_right (hnet.present p)
  here := by rw [hnet.station]; exact h.here
  zero := h.zero

/-- A record that stands is as legal as it was. -/
theorem State.LinkLegal.carry {s t : State} {l : LinkNo} (h : s.LinkLegal l) (hnet : s.SameNet t)
    (hrecord : t.tk.link.get l = s.tk.link.get l) : t.LinkLegal l := by
  rw [linkLegal_iff] at h ⊢
  rw [hrecord]
  exact h.carry hnet

theorem State.LinkSound.carry {s t : State} {l : LinkNo} (h : s.LinkSound l) (hnet : s.SameNet t)
    (hrecord : t.tk.link.get l = s.tk.link.get l) (hmembers : ∀ c, s.linkOf c = some l → s.KeepsPlace t c) : t.LinkSound l where
  record := h.record.carry hnet hrecord
  list :=
    { once := by rw [hrecord]; exact h.list.once
      member := fun c => by
        rw [hrecord, h.list.member, hnet.linkOf]
        exact and_congr_right fun hc => (hmembers c hc).counted.symm
      driving := fun d hd => by
        rw [hrecord] at hd ⊢
        have hmember := (h.list.member d).mp (List.mem_of_mem_getLast? hd)
        rw [(hmembers d hmember.1).fader]
        exact h.list.driving d hd }
  following c hf ht := by
    rw [hnet.follows] at hf
    have hplace := (hmembers c ((s.follows_iff l c).mp hf).1).manual ht
    rw [hrecord, hplace.2]
    exact h.following c hf hplace.1

namespace State.TakeoverSound

variable {s t : State}

/-- One link has changed, and its members with it; the others and their members stand. -/
theorem of_link (l : LinkNo) (hreturn : s.config.returnTime ≤ 1000) (hnet : s.SameNet t)
    (hothers : ∀ k, k ≠ l → s.LinkSound k) (hrecords : ∀ k, k ≠ l → t.tk.link.get k = s.tk.link.get k)
    (haway : ∀ c, s.linkOf c ≠ some l → s.KeepsPlace t c) (hchannel : ∀ c, t.ChannelSound c) (hlink : t.LinkSound l) :
    t.TakeoverSound where
  returnTime := by rw [hnet.config]; exact hreturn
  channel := hchannel
  link k := by
    by_cases hk : k = l
    · subst hk; exact hlink
    · exact (hothers k hk).carry hnet (hrecords k hk) fun c hc => haway c fun e => hk (Option.some.inj (hc.symm.trans e))

/-- The record of one link is replaced. -/
theorem of_record (l : LinkNo) (r : LinkRecord) (h : s.TakeoverSound) (hnet : s.SameNet t)
    (hrecords : ∀ k, t.tk.link.get k = if l = k then r else s.tk.link.get k)
    (haway : ∀ c, s.linkOf c ≠ some l → s.KeepsPlace t c) (hchannel : ∀ c, t.ChannelSound c) (hr : r.Stands t)
    (hnodup : r.touching.Nodup) (hmember : ∀ c, c ∈ r.touching ↔ s.linkOf c = some l ∧ t.Counts c)
    (hdriving : ∀ d ∈ r.touching.getLast?, r.level = t.faderLevel d)
    (hfollowing : ∀ c, s.follows l c = true → (t.tk.chan.get c).state = .touched →
      r.held = true ∧ (t.tk.chan.get c).manual = r.level) : t.TakeoverSound := by
  have hself : t.tk.link.get l = r := (hrecords l).trans (if_pos rfl)
  refine .of_link l h.returnTime hnet (fun k _ => h.link k) (fun k hk => (hrecords k).trans (if_neg hk.symm)) haway hchannel
    ⟨(linkLegal_iff t l).mpr (by rw [hself]; exact hr), ⟨by rw [hself]; exact hnodup, fun c => ?_, by rw [hself]; exact hdriving⟩,
      fun c hf => ?_⟩
  · rw [hself, hnet.linkOf]; exact hmember c
  · rw [hself]; rw [hnet.follows] at hf; exact hfollowing c hf

/-- The links stand, and every channel that is a member of one stands to it as it did. -/
theorem carry (h : s.TakeoverSound) (hnet : s.SameNet t) (hrecords : t.tk.link = s.tk.link)
    (hmembers : ∀ c l, s.linkOf c = some l → s.KeepsPlace t c) (hchannel : ∀ c, t.ChannelSound c) : t.TakeoverSound where
  returnTime := by rw [hnet.config]; exact h.returnTime
  channel := hchannel
  link l := (h.link l).carry hnet (by rw [hrecords]) fun c => hmembers c l

end State.TakeoverSound

/-- `t` is `s` in all that the invariant of TK reads. -/
structure State.SameTakeover (s t : State) : Prop where
  net : s.SameNet t
  chan : t.tk.chan = s.tk.chan
  link : t.tk.link = s.tk.link
  touched : ∀ c, (t.pi.touch.get c).touched = (s.pi.touch.get c).touched
  fader : ∀ c, t.faderLevel c = s.faderLevel c

namespace State.SameTakeover

variable {s t u : State}

theorem refl (s : State) : s.SameTakeover s := ⟨.refl s, rfl, rfl, fun _ => rfl, fun _ => rfl⟩

theorem trans (h : s.SameTakeover t) (k : t.SameTakeover u) : s.SameTakeover u :=
  ⟨h.net.trans k.net, k.chan.trans h.chan, k.link.trans h.link, fun c => (k.touched c).trans (h.touched c),
    fun c => (k.fader c).trans (h.fader c)⟩

theorem ite {c : Prop} [Decidable c] (ht : s.SameTakeover t) (hu : s.SameTakeover u) :
    s.SameTakeover (if c then t else u) := by
  split
  · exact ht
  · exact hu

/-- TK, PI and SL stand, but for what the invariant does not read of SL. -/
theorem of_blocks (htk : t.tk = s.tk) (hpi : t.pi = s.pi) (hconfig : t.sl.config = s.sl.config)
    (hstation : t.sl.station = s.sl.station) (hpeer : t.sl.peer = s.sl.peer) : s.SameTakeover t where
  net := .of_peer hconfig hstation hpeer
  chan := by rw [htk]
  link := by rw [htk]
  touched c := by rw [hpi]
  fader c := by simp only [State.faderLevel, hpi]

theorem of_watched (htk : t.tk = s.tk) (h : t.watched = s.watched) : s.SameTakeover t where
  net := .of_peer (congrArg Watched.config h) (congrArg Watched.station h) (congrArg Watched.peer h)
  chan := by rw [htk]
  link := by rw [htk]
  touched c := by rw [show t.pi.touch = s.pi.touch from congrArg Watched.touch h]
  fader c := by simp only [State.faderLevel, show t.pi.slot = s.pi.slot from congrArg Watched.slot h]

/-- The touch records and the slots change, but no touch and no fader level. -/
theorem of_panel (pi : Panel) (htouched : ∀ c, (pi.touch.get c).touched = (s.pi.touch.get c).touched)
    (hlevel : ∀ k, (pi.slot.get k).level = (s.pi.slot.get k).level) : s.SameTakeover { s with pi := pi } where
  net := .of_peer rfl rfl rfl
  chan := rfl
  link := rfl
  touched := htouched
  fader c := hlevel (channelSlot c)

theorem keepsPlace (h : s.SameTakeover t) (c : Channel) : s.KeepsPlace t c :=
  .of_records (h.fader c) (h.touched c) (by rw [h.chan])

end State.SameTakeover

theorem State.TakeoverSound.same {s t : State} (hs : s.TakeoverSound) (h : s.SameTakeover t) : t.TakeoverSound :=
  hs.carry h.net h.link (fun c _ _ => h.keepsPlace c) fun c =>
    ⟨by rw [h.chan, h.net.mode]; exact (hs.channel c).legal, by rw [h.chan, h.touched]; exact (hs.channel c).mark⟩

/-! ## A channel's takeover record (R103, R105 to R107, R110) -/

namespace TakeoverChannel

variable {ch : TakeoverChannel} {mode : Mode}

theorem released_mark (ch : TakeoverChannel) (x : Level) (mode : Mode) (r : Nat) : (ch.released x mode r).mark = ch.mark := by
  unfold TakeoverChannel.released
  cases mode with
  | auto => dsimp only; split <;> rfl
  | latch => rfl
  | safe => rfl

theorem released_not_touched (ch : TakeoverChannel) (x : Level) {mode : Mode} (hm : mode ≠ .safe) (r : Nat) :
    (ch.released x mode r).state ≠ .touched := by
  unfold TakeoverChannel.released
  cases mode with
  | auto => dsimp only; split <;> exact nofun
  | latch => exact nofun
  | safe => exact absurd rfl hm

/-- A record without a glide: its state fits the mode. -/
theorem Legal.of_still (hsafe : mode = .safe → (ch.state = .safeManual ∨ ch.state = .overridden) ∧ ch.manual = off)
    (hnot : mode ≠ .safe → ch.state ≠ .safeManual) (hlatched : ch.state = .latched → mode = .latch)
    (hreturning : ch.state ≠ .returning) (hglide : ch.glide = none) : ch.Legal mode where
  safe := hsafe
  notSafe := hnot
  latched := hlatched
  returning h := absurd h hreturning
  glide := by rw [hglide]; exact iff_of_false nofun hreturning
  running g hg := by rw [hglide] at hg; cases hg

theorem Legal.touched (hm : mode ≠ .safe) (x : Level) (mark : Bool) : Legal ⟨.touched, x, none, mark⟩ mode :=
  .of_still (fun h => absurd h hm) (fun _ => nofun) nofun nofun rfl

theorem Legal.released (x : Level) (hm : mode ≠ .safe) {r : Nat} (hr : r ≤ 1000) : (ch.released x mode r).Legal mode := by
  unfold TakeoverChannel.released
  cases mode with
  | auto =>
    dsimp only
    split
    · exact .of_still nofun (fun _ => nofun) nofun nofun rfl
    · next h =>
      refine ⟨nofun, fun _ => nofun, nofun, fun _ => rfl, iff_of_true rfl rfl, ?_⟩
      rintro g ⟨⟩
      exact ⟨Nat.pos_of_ne_zero h, hr⟩
  | latch => exact .of_still nofun (fun _ => nofun) (fun _ => rfl) nofun rfl
  | safe => exact absurd rfl hm

/-- The mark is no part of what a mode asks. -/
theorem Legal.withMark (h : ch.Legal mode) (mark : Bool) : Legal { ch with mark := mark } mode :=
  ⟨h.safe, h.notSafe, h.latched, h.returning, h.glide, h.running⟩

theorem Legal.withManual (h : ch.Legal mode) (hm : mode ≠ .safe) (x : Level) : Legal { ch with manual := x } mode :=
  ⟨fun k => absurd k hm, h.notSafe, h.latched, h.returning, h.glide, h.running⟩

/-- A touch on a SAFE channel leaves it SAFE_MANUAL. -/
theorem Legal.safeTouched (h : ch.Legal .safe) :
    Legal { ch with state := if ch.state = .overridden then .safeManual else ch.state, mark := false } .safe := by
  have hstate : (if ch.state = .overridden then .safeManual else ch.state) = Takeover.safeManual := by
    rcases (h.safe rfl).1 with k | k <;> rw [k] <;> rfl
  have hglide : ch.glide = none := by
    rw [← Option.not_isSome_iff_eq_none, h.glide]
    rcases (h.safe rfl).1 with k | k <;> rw [k] <;> exact nofun
  rw [hstate]
  exact .of_still (fun _ => ⟨.inl rfl, (h.safe rfl).2⟩) (fun k => absurd rfl k) nofun nofun hglide

/-- A TOUCHED channel is in AUTO or LATCH mode. -/
theorem Legal.not_safe (h : ch.Legal mode) (ht : ch.state = .touched) : mode ≠ .safe := fun hm => by
  rcases (h.safe hm).1 with k | k <;> rw [ht] at k <;> cases k

end TakeoverChannel

end Sys2Proof.Machine

/-! SUPPORT. The invariant of TK under touches, fader moves and notices (R105 to R109, R113 to R115, R118): a channel that begins, ends or
is overridden in a touch, and the touching list it joins or leaves. -/

namespace Sys2Proof.Machine

/-! ## Leaving a touching list (R115) -/

/-- TK as between events, but that channel `c` may still stand on the touching list of its link `l`, which it is to leave. -/
structure State.Leaving (s : State) (l : LinkNo) (c : Channel) : Prop where
  returnTime : s.config.returnTime ≤ 1000
  channel : ∀ d, s.ChannelSound d
  others : ∀ k, k ≠ l → s.LinkSound k
  record : s.LinkLegal l
  once : (s.tk.link.get l).touching.Nodup
  listed : ∀ d, d ≠ c → (d ∈ (s.tk.link.get l).touching ↔ s.linkOf d = some l ∧ s.Counts d)
  uncounted : ¬s.Counts c
  driving : ∀ d ∈ (s.tk.link.get l).touching.getLast?, (s.tk.link.get l).level = s.faderLevel d
  following : ∀ d, s.follows l d = true → (s.tk.chan.get d).state = .touched →
    (s.tk.link.get l).held = true ∧ (s.tk.chan.get d).manual = (s.tk.link.get l).level

/-- The last entry of a list stands where another entry is erased. -/
theorem getLast?_erase_of_ne {α : Type} [DecidableEq α] {q : List α} {a : α} (hq : q ≠ []) (ha : q.getLast? ≠ some a) :
    (q.erase a).getLast? = q.getLast? := by
  obtain ⟨init, b, rfl⟩ := (List.eq_nil_or_concat q).resolve_left hq
  rw [List.concat_eq_append] at ha ⊢
  have hb : b ≠ a := fun e => ha (by simp [e])
  rw [List.erase_append]
  split
  · simp
  · rw [List.erase_of_not_mem (by simpa using hb.symm)]

namespace State.Leaving

variable {s w : State} {l : LinkNo} {c : Channel}

theorem mem_rest (h : s.Leaving l c) (d : Channel) :
    d ∈ (s.tk.link.get l).touching.erase c ↔ s.linkOf d = some l ∧ s.Counts d := by
  by_cases hd : d = c
  · subst hd
    exact iff_of_false (h.once.not_mem_erase) fun k => h.uncounted k.2
  · rw [List.mem_erase_of_ne hd]; exact h.listed d hd

/-- What the state after the leaving is to show of link `l`: its members marked and touched as they were, with the rest of the list
in a legal record, driven by its last channel, which the TOUCHED members follow. -/
theorem sound_of (h : s.Leaving l c) (hw : s.LevelsOnly w) (hrecords : ∀ k, k ≠ l → w.tk.link.get k = s.tk.link.get k)
    (haway : ∀ d, s.linkOf d ≠ some l → w.tk.chan.get d = s.tk.chan.get d)
    (hmark : ∀ d, (w.tk.chan.get d).mark = (s.tk.chan.get d).mark)
    (hlegal : ∀ d, (w.tk.chan.get d).Legal (s.mode d))
    (hrest : (w.tk.link.get l).touching = (s.tk.link.get l).touching.erase c)
    (hrecord : w.LinkLegal l)
    (hdriving : ∀ d ∈ ((s.tk.link.get l).touching.erase c).getLast?, (w.tk.link.get l).level = s.faderLevel d)
    (hfollowing : ∀ d, s.follows l d = true → (w.tk.chan.get d).state = .touched →
      (w.tk.link.get l).held = true ∧ (w.tk.chan.get d).manual = (w.tk.link.get l).level) : w.TakeoverSound := by
  have hnet : s.SameNet w := .of_levels hw
  refine .of_link l h.returnTime hnet h.others hrecords (fun d hd => .of_chan hw.pi (haway d hd)) (fun d => ?_) ?_
  · exact ⟨by rw [hnet.mode]; exact hlegal d, by rw [hmark, hw.pi]; exact (h.channel d).mark⟩
  · refine ⟨hrecord, ⟨?_, fun d => ?_, fun d hd => ?_⟩, fun d hd => ?_⟩
    · rw [hrest]; exact h.once.erase c
    · rw [hrest, h.mem_rest, hnet.linkOf, State.Counts, hw.pi, hmark]
    · rw [hrest] at hd
      rw [hdriving d hd, State.faderLevel, State.faderLevel, hw.pi]
    · rw [hnet.follows] at hd; exact hfollowing d hd

/-- The last channel to leave gives up the hold: the members that follow take their release transition. -/
theorem givesUp (h : s.Leaving l c) (hmem : c ∈ (s.tk.link.get l).touching)
    (hempty : (s.tk.link.get l).touching.erase c = []) : (s.leaveList l c).TakeoverSound := by
  have hlevels := s.levelsOnly_leaveList l c
  have hw := (s.leavesList_leaveList l c).2.1 hmem hempty
  generalize s.leaveList l c = w at *
  subst hw
  refine h.sound_of hlevels (fun k hk => ?_) (fun d hd => ?_) (fun d => ?_) (fun d => ?_) ?_ ?_ ?_ (fun d hd ht => ?_)
  · exact (Table.get_set ..).trans (if_neg hk.symm)
  · simp only [Table.get_ofFn, hd, false_and, if_false]
  · simp only [Table.get_ofFn]
    split
    · exact TakeoverChannel.released_mark ..
    · rfl
  · simp only [Table.get_ofFn]
    split
    · next hf => exact .released _ hf.2.1 h.returnTime
    · exact (h.channel d).legal
  · simp only [Table.get_set_self, hempty]
  · constructor <;> simp only [Table.get_set_self]
    · exact h.record.stamp
    · rfl
    · exact nofun
    · exact iff_of_false nofun fun k => k rfl
    · exact h.record.zero
  · rw [hempty]; exact nofun
  · exfalso
    obtain ⟨hlink, hmode⟩ := (s.follows_iff l d).mp hd
    simp only [Table.get_ofFn, hlink, hmode, ne_eq, not_false_eq_true, true_and] at ht
    split at ht
    · exact TakeoverChannel.released_not_touched _ _ hmode _ ht
    · next hnot => exact hnot ht

/-- The driving channel leaves and others stay: the new last channel drives the link and the members that follow. -/
theorem handsOver (h : s.Leaving l c) (hmem : c ∈ (s.tk.link.get l).touching)
    (hstay : (s.tk.link.get l).touching.erase c ≠ []) (hdriver : (s.tk.link.get l).touching.getLast? = some c) :
    (s.leaveList l c).TakeoverSound := by
  obtain ⟨d, hd⟩ := Option.isSome_iff_exists.mp (List.getLast?_isSome.mpr hstay)
  have hhere := h.record.here.mpr (List.ne_nil_of_mem hmem)
  have hlevels := s.levelsOnly_leaveList l c
  have hw := (s.leavesList_leaveList l c).2.2.1 hmem d hd hdriver
  generalize s.leaveList l c = w at *
  subst hw
  refine h.sound_of hlevels (fun k hk => ?_) (fun e he => ?_) (fun e => ?_) (fun e => ?_) ?_ ?_ ?_ (fun e he ht => ?_)
  · exact (Table.get_set ..).trans (if_neg hk.symm)
  · simp only [Table.get_ofFn, he, false_and, if_false]
  · simp only [Table.get_ofFn]
    split <;> rfl
  · simp only [Table.get_ofFn]
    split
    · next hf => exact (h.channel e).legal.withManual hf.2.1 _
    · exact (h.channel e).legal
  · simp only [Table.get_set_self]
  · constructor <;> simp only [Table.get_set_self]
    · exact h.record.stamp
    · exact h.record.held
    · simp only [hhere]; rintro p ⟨⟩; exact .inl (State.enqueue_sl_station ..).symm
    · exact iff_of_true (by rw [hhere, State.enqueue_sl_station]) hstay
    · exact h.record.zero
  · simp only [Table.get_set_self, hd]
    rintro e ⟨⟩; rfl
  · obtain ⟨hlink, hmode⟩ := (s.follows_iff l e).mp he
    simp only [Table.get_ofFn, Table.get_set_self, hlink, hmode, ne_eq, not_false_eq_true, true_and] at ht ⊢
    split at ht
    · next htouched => rw [if_pos htouched]; exact ⟨(h.following e he htouched).1, rfl⟩
    · next hnot => exact absurd ht hnot

/-- A channel that does not drive leaves: the driving channel stays. -/
theorem stays (h : s.Leaving l c) (hmem : c ∈ (s.tk.link.get l).touching)
    (hstay : (s.tk.link.get l).touching.erase c ≠ []) (hdriver : (s.tk.link.get l).touching.getLast? ≠ some c) :
    (s.leaveList l c).TakeoverSound := by
  have hlisted : (s.tk.link.get l).touching ≠ [] := List.ne_nil_of_mem hmem
  have hlevels := s.levelsOnly_leaveList l c
  have hw := (s.leavesList_leaveList l c).2.2.2 hmem hstay hdriver
  generalize s.leaveList l c = w at *
  subst hw
  refine h.sound_of hlevels (fun k hk => ?_) (fun _ _ => rfl) (fun _ => rfl) (fun d => (h.channel d).legal) ?_ ?_ ?_ ?_
  · exact (Table.get_set ..).trans (if_neg hk.symm)
  · simp only [Table.get_set_self]
  · constructor <;> simp only [Table.get_set_self]
    · exact h.record.stamp
    · exact h.record.held
    · exact h.record.holder
    · exact iff_of_true (h.record.here.mpr hlisted) hstay
    · exact h.record.zero
  · simp only [Table.get_set_self, getLast?_erase_of_ne hlisted hdriver]
    exact h.driving
  · simp only [Table.get_set_self]
    exact h.following

/-- The channel leaves the list, if it is on it (R115). -/
theorem leaveList (h : s.Leaving l c) : (s.leaveList l c).TakeoverSound := by
  by_cases hmem : c ∈ (s.tk.link.get l).touching
  · by_cases hempty : (s.tk.link.get l).touching.erase c = []
    · exact h.givesUp hmem hempty
    · by_cases hdriver : (s.tk.link.get l).touching.getLast? = some c
      · exact h.handsOver hmem hempty hdriver
      · exact h.stays hmem hempty hdriver
  · have herase := List.erase_of_not_mem hmem
    rw [(s.leavesList_leaveList l c).1 hmem]
    exact h.sound_of (.refl s) (fun _ _ => rfl) (fun _ _ => rfl) (fun _ => rfl) (fun d => (h.channel d).legal) herase.symm
      h.record (by rw [herase]; exact h.driving) h.following

/-- The state after a leaving is fixed. -/
theorem eq_of_leavesList (hw : s.LeavesList l c w) : w = s.leaveList l c := by
  obtain ⟨hnone, hlast, hdriver, hother⟩ := hw
  obtain ⟨knone, klast, kdriver, kother⟩ := s.leavesList_leaveList l c
  by_cases hmem : c ∈ (s.tk.link.get l).touching
  · by_cases hempty : (s.tk.link.get l).touching.erase c = []
    · exact (hlast hmem hempty).trans (klast hmem hempty).symm
    · by_cases hd : (s.tk.link.get l).touching.getLast? = some c
      · obtain ⟨d, hrest⟩ := Option.isSome_iff_exists.mp (List.getLast?_isSome.mpr hempty)
        exact (hdriver hmem d hrest hd).trans (kdriver hmem d hrest hd).symm
      · exact (hother hmem hempty hd).trans (kother hmem hempty hd).symm
  · exact (hnone hmem).trans (knone hmem).symm

theorem leavesList (h : s.Leaving l c) (hw : s.LeavesList l c w) : w.TakeoverSound := eq_of_leavesList hw ▸ h.leaveList

end State.Leaving

/-! ## A change of one channel (R105 to R109) -/

/-- `t` is `s` in all that the invariant of TK reads, but for channel `c`. -/
structure State.OnlyChannel (s t : State) (c : Channel) : Prop where
  net : s.SameNet t
  link : t.tk.link = s.tk.link
  chan : ∀ d, d ≠ c → t.tk.chan.get d = s.tk.chan.get d
  touched : ∀ d, d ≠ c → (t.pi.touch.get d).touched = (s.pi.touch.get d).touched
  fader : ∀ d, d ≠ c → t.faderLevel d = s.faderLevel d

namespace State.OnlyChannel

variable {s t u : State} {c : Channel} {l : LinkNo}

theorem trans (h : s.OnlyChannel t c) (k : t.OnlyChannel u c) : s.OnlyChannel u c where
  net := h.net.trans k.net
  link := k.link.trans h.link
  chan d hd := (k.chan d hd).trans (h.chan d hd)
  touched d hd := (k.touched d hd).trans (h.touched d hd)
  fader d hd := (k.fader d hd).trans (h.fader d hd)

theorem of_set (s : State) (c : Channel) (ch : TakeoverChannel) :
    s.OnlyChannel { s with tk.chan := s.tk.chan.set c ch } c where
  net := .of_peer rfl rfl rfl
  link := rfl
  chan _ hd := (Table.get_set ..).trans (if_neg hd.symm)
  touched _ _ := rfl
  fader _ _ := rfl

theorem of_touch (s : State) (c : Channel) (t : TouchState) : s.OnlyChannel { s with pi.touch := s.pi.touch.set c t } c where
  net := .of_peer rfl rfl rfl
  link := rfl
  chan _ _ := rfl
  touched _ hd := congrArg TouchState.touched ((Table.get_set ..).trans (if_neg hd.symm))
  fader _ _ := rfl

theorem keepsPlace (h : s.OnlyChannel t c) {d : Channel} (hd : d ≠ c) : s.KeepsPlace t d :=
  .of_records (h.fader d hd) (h.touched d hd) (h.chan d hd)

theorem channelSound (h : s.OnlyChannel t c) (hs : ∀ d, s.ChannelSound d) (hc : t.ChannelSound c) (d : Channel) :
    t.ChannelSound d := by
  by_cases hd : d = c
  · rw [hd]; exact hc
  · exact ⟨by rw [h.chan d hd, h.net.mode]; exact (hs d).legal, by rw [h.chan d hd, h.touched d hd]; exact (hs d).mark⟩

/-- The channel stands to its link as it did, or has none. -/
theorem sound (h : s.OnlyChannel t c) (hs : s.TakeoverSound) (hlinked : s.linkOf c ≠ none → s.KeepsPlace t c)
    (hc : t.ChannelSound c) : t.TakeoverSound := by
  refine hs.carry h.net h.link (fun d l hd => ?_) (h.channelSound hs.channel hc)
  by_cases e : d = c
  · subst e; exact hlinked (by rw [hd]; exact nofun)
  · exact h.keepsPlace e

/-- The touch of the channel is not counted, so that it is to leave the touching list of its link. -/
theorem leaving (h : s.OnlyChannel t c) (hs : s.TakeoverSound) (hl : s.linkOf c = some l) (hself : s.KeepsLevel t c)
    (huncounted : ¬t.Counts c) (hc : t.ChannelSound c) : t.Leaving l c where
  returnTime := by rw [h.net.config]; exact hs.returnTime
  channel := h.channelSound hs.channel hc
  others k hk := (hs.link k).carry h.net (by rw [h.link]) fun d hd => h.keepsPlace (by
    rintro rfl; exact hk (Option.some.inj (hd.symm.trans hl)))
  record := (hs.link l).record.carry h.net (by rw [h.link])
  once := by rw [h.link]; exact (hs.link l).list.once
  listed d hd := by
    rw [h.link, h.net.linkOf, (h.keepsPlace hd).counted]
    exact (hs.link l).list.member d
  uncounted := huncounted
  driving d hd := by
    have hlevel : t.faderLevel d = s.faderLevel d := by
      by_cases e : d = c
      · rw [e]; exact hself.fader
      · exact h.fader d e
    rw [h.link] at hd ⊢
    rw [hlevel]
    exact (hs.link l).list.driving d hd
  following d hf ht := by
    have hlevel : s.KeepsLevel t d := by
      by_cases e : d = c
      · rw [e]; exact hself
      · exact (h.keepsPlace e).toKeepsLevel
    rw [h.net.follows] at hf
    obtain ⟨ht, hmanual⟩ := hlevel.manual ht
    rw [h.link, hmanual]
    exact (hs.link l).following d hf ht

end State.OnlyChannel

theorem State.channelSound_set {s : State} {c : Channel} {ch : TakeoverChannel} (hlegal : ch.Legal (s.mode c))
    (hmark : ch.mark = true → (s.pi.touch.get c).touched = true) :
    State.ChannelSound { s with tk.chan := s.tk.chan.set c ch } c := by
  suffices ((s.tk.chan.set c ch).get c).Legal (s.mode c) ∧
      (((s.tk.chan.set c ch).get c).mark = true → (s.pi.touch.get c).touched = true) from ⟨this.1, this.2⟩
  rw [Table.get_set_self]
  exact ⟨hlegal, hmark⟩

/-! ## Notices, and touches that end (R106 to R109, R115) -/

namespace State.TakeoverSound

variable {s t u : State} {c : Channel} {l : LinkNo}

/-- A target-start notice with a clear mark: LATCHED becomes CUE (R107). -/
theorem notice_clear (h : s.TakeoverSound) (c : Channel) : (s.notice c false).TakeoverSound := by
  have hlegal := (h.channel c).legal
  rw [(s.noticeTaken_notice c false).1 rfl]
  refine (State.OnlyChannel.of_set s c _).sound h (fun _ => ⟨⟨rfl, fun ht => ?_⟩, ?_⟩)
    (State.channelSound_set ?_ (h.channel c).mark)
  · simp only [Table.get_set_self] at ht ⊢
    split at ht
    · cases ht
    · exact ⟨ht, trivial⟩
  · simp only [State.Counts, Table.get_set_self]
  · by_cases hl : (s.tk.chan.get c).state = .latched
    · have hnot : s.mode c ≠ .safe := by rw [hlegal.latched hl]; exact nofun
      have hglide : (s.tk.chan.get c).glide = none := by
        have := hlegal.glide.not.mpr (by rw [hl]; exact nofun)
        simpa using this
      simp only [if_pos hl]
      exact .of_still (fun hm => absurd hm hnot) (fun _ => nofun) nofun nofun hglide
    · simp only [if_neg hl]
      exact hlegal

/-- A target-start notice with a set mark: the channel is OVERRIDDEN and its touch is no longer counted (R108, R109). -/
theorem notice_set (h : s.TakeoverSound) (c : Channel) : (s.notice c true).TakeoverSound := by
  have honly := State.OnlyChannel.of_set s c
    ⟨.overridden, (s.tk.chan.get c).manual, none, (s.tk.chan.get c).mark || (s.pi.touch.get c).touched⟩
  have hsound := State.channelSound_set (s := s) (c := c)
    (ch := ⟨.overridden, (s.tk.chan.get c).manual, none, (s.tk.chan.get c).mark || (s.pi.touch.get c).touched⟩)
    (.of_still (fun hm => ⟨.inr rfl, ((h.channel c).legal.safe hm).2⟩) (fun _ => nofun) nofun nofun rfl)
    fun hm => (Bool.or_eq_true_iff.mp hm).elim (h.channel c).mark id
  obtain ⟨hunlinked, hlinked⟩ := (s.noticeTaken_notice c true).2 rfl
  cases hc : s.linkOf c with
  | none => rw [hunlinked hc]; exact honly.sound h (fun k => absurd hc k) hsound
  | some l =>
    refine (honly.leaving h hc ⟨rfl, fun ht => ?_⟩ ?_ hsound).leavesList (hlinked l hc)
    · simp only [Table.get_set_self] at ht; cases ht
    · simp only [State.Counts, Table.get_set_self, Bool.or_eq_false_iff]
      rintro ⟨ht, -, hf⟩
      exact Bool.false_ne_true (hf.symm.trans ht)

theorem notice (h : s.TakeoverSound) (c : Channel) (priority : Bool) : (s.notice c priority).TakeoverSound := by
  cases priority with
  | false => exact h.notice_clear c
  | true => exact h.notice_set c

/-- The end of a touch (R89, R106, R109, R115). -/
theorem endTouch (h : s.TakeoverSound) (c : Channel) : (State.endTouch c s).TakeoverSound := by
  obtain ⟨hidle, htouch⟩ := s.touchIsEnded_endTouch c
  cases ht : (s.pi.touch.get c).touched with
  | false => rw [hidle ht]; exact h
  | true =>
    obtain ⟨hmark, hunlinked, hlinked⟩ := htouch ht
    have honly := State.OnlyChannel.of_touch s c { s.pi.touch.get c with touched := false, quiet := .stopped }
    have hlegal := (h.channel c).legal
    cases hm : (s.tk.chan.get c).mark with
    | true =>
      rw [hmark hm]
      refine (honly.trans (.of_set ..)).sound h (fun _ => ⟨⟨rfl, fun ht => ?_⟩, ?_⟩)
        (State.channelSound_set (hlegal.withMark false) nofun)
      · simp only [Table.get_set_self] at ht ⊢
        exact ⟨ht, trivial⟩
      · simp only [State.Counts, Table.get_set_self, hm]
        exact iff_of_false (fun k => Bool.false_ne_true k.1) (fun k => Bool.false_ne_true k.2.symm)
    | false =>
      cases hc : s.linkOf c with
      | none =>
        rw [hunlinked hm hc]
        refine (honly.trans (.of_set ..)).sound h (fun k => absurd hc k) (State.channelSound_set ?_ fun k => ?_)
        · dsimp only
          split
          · next k => exact .released _ (hlegal.not_safe k) h.returnTime
          · exact hlegal
        · dsimp only at k
          split at k
          · rw [TakeoverChannel.released_mark, hm] at k; cases k
          · rw [hm] at k; cases k
      | some l =>
        refine (honly.leaving h hc ⟨rfl, fun ht => ⟨ht, rfl⟩⟩ ?_ ⟨hlegal, fun k => ?_⟩).leavesList (hlinked hm l hc)
        · simp only [State.Counts, Table.get_set_self, Bool.false_eq_true, false_and, not_false_eq_true]
        · exact absurd (k.symm.trans hm) (by decide)

end State.TakeoverSound

end Sys2Proof.Machine

/-! SUPPORT. The invariant of TK under fader moves and touches that begin (R105, R106, R113 to R115, R118). -/

namespace Sys2Proof.Machine

namespace State.TakeoverSound

variable {s u : State} {c : Channel} {l : LinkNo}

/-- An untouched channel bears no mark (R109). -/
theorem no_mark (h : s.TakeoverSound) (ht : (s.pi.touch.get c).touched = false) : (s.tk.chan.get c).mark = false := by
  cases hm : (s.tk.chan.get c).mark with
  | false => rfl
  | true => exact absurd ((h.channel c).mark hm) (by rw [ht]; exact nofun)

/-- The fader of a channel that does not drive its link has moved (R115). -/
theorem of_moved (h : s.TakeoverSound) (honly : s.OnlyChannel u c) (htk : u.tk = s.tk) (htouch : u.pi.touch = s.pi.touch)
    (hl : s.linkOf c = some l) (hdriver : (s.tk.link.get l).touching.getLast? ≠ some c) : u.TakeoverSound := by
  have hcounted : ∀ d, u.Counts d ↔ s.Counts d := fun d => by rw [State.Counts, State.Counts, htk, htouch]
  refine .of_record l (s.tk.link.get l) h honly.net (fun k => ?_) (fun d hd => honly.keepsPlace (by rintro rfl; exact hd hl))
    (fun d => ⟨by rw [htk, honly.net.mode]; exact (h.channel d).legal, by rw [htk, htouch]; exact (h.channel d).mark⟩)
    (((linkLegal_iff s l).mp (h.link l).record).carry honly.net) (h.link l).list.once (fun d => ?_) (fun d hd => ?_) ?_
  · rw [htk]; split
    · next e => rw [e]
    · rfl
  · rw [hcounted]; exact (h.link l).list.member d
  · rw [honly.fader d (by rintro rfl; exact hdriver hd)]
    exact (h.link l).list.driving d hd
  · rw [htk]; exact (h.link l).following

/-- The fader of the channel that drives a link has moved: the link and the TOUCHED members that follow move with it (R115). -/
theorem of_driven (h : s.TakeoverSound) (honly : s.OnlyChannel u c) (htk : u.tk = s.tk) (htouch : u.pi.touch = s.pi.touch)
    (hl : s.linkOf c = some l) (hdriver : (s.tk.link.get l).touching.getLast? = some c) : (u.faderChange c).TakeoverSound := by
  have hlevels := u.levelsOnly_faderChange c
  have hw := ((u.faderMoves_faderChange c).2 l (by rw [honly.net.linkOf]; exact hl)).2 (by rw [htk]; exact hdriver)
  generalize u.faderChange c = w at *
  have hnet := honly.net.trans (.of_levels hlevels)
  have hfader : ∀ d, w.faderLevel d = u.faderLevel d := fun d => by simp only [State.faderLevel, hlevels.pi]
  have hchans : ∀ d, w.tk.chan.get d = if s.linkOf d = some l ∧ s.mode d ≠ .safe ∧ (s.tk.chan.get d).state = .touched then
      { s.tk.chan.get d with manual := u.faderLevel c } else s.tk.chan.get d := fun d => by
    rw [hw]
    simp only [Table.get_ofFn, htk, honly.net.linkOf, honly.net.mode]
  have hmark : ∀ d, (w.tk.chan.get d).mark = (s.tk.chan.get d).mark := fun d => by
    rw [hchans]
    split <;> rfl
  have hrecord := (h.link l).record
  refine .of_record l { s.tk.link.get l with level := u.faderLevel c } h hnet (fun k => ?_) (fun d hd => ?_) (fun d => ⟨?_, ?_⟩)
    (LinkRecord.Stands.carry ⟨hrecord.stamp, hrecord.held, hrecord.holder, hrecord.here, hrecord.zero⟩ hnet) (h.link l).list.once
    (fun d => ?_) (fun d hd => ?_) (fun d hf ht => ?_)
  · rw [hw]
    simp only [Table.get_set, htk]
  · have e : d ≠ c := by rintro rfl; exact hd hl
    exact .of_records ((hfader d).trans (honly.fader d e)) (by rw [hlevels.pi, htouch]) (by rw [hchans, if_neg fun k => hd k.1])
  · rw [hnet.mode, hchans]
    split
    · next k => exact (h.channel d).legal.withManual k.2.1 _
    · exact (h.channel d).legal
  · rw [hmark, hlevels.pi, htouch]; exact (h.channel d).mark
  · rw [State.Counts, hmark, hlevels.pi, htouch]; exact (h.link l).list.member d
  · obtain rfl : d = c := Option.some.inj (hd.symm.trans hdriver)
    exact (hfader d).symm
  · obtain ⟨hlink, hmode⟩ := (s.follows_iff l d).mp hf
    rw [hchans] at ht ⊢
    split at ht
    · next k => rw [if_pos k]; exact ⟨((h.link l).following d hf k.2.2).1, rfl⟩
    · next k => exact absurd ⟨hlink, hmode, ht⟩ k

/-- The fader of a channel has moved (R106, R115). -/
theorem faderChange (h : s.TakeoverSound) (honly : s.OnlyChannel u c) (htk : u.tk = s.tk) (htouch : u.pi.touch = s.pi.touch) :
    (u.faderChange c).TakeoverSound := by
  obtain ⟨hunlinked, hlinked⟩ := u.faderMoves_faderChange c
  rw [honly.net.linkOf] at hunlinked hlinked
  cases hl : s.linkOf c with
  | none =>
    rw [hunlinked hl]
    have hlegal := (h.channel c).legal
    refine (honly.trans (.of_set ..)).sound h (fun k => absurd hl k) (State.channelSound_set ?_ ?_)
    · rw [htk, honly.net.mode]
      split
      · next k => exact hlegal.withManual (hlegal.not_safe k.1) _
      · exact hlegal
    · have hmark := (h.channel c).mark
      rw [htk, htouch]
      split <;> exact hmark
  | some l =>
    obtain ⟨hother, -⟩ := hlinked l hl
    by_cases hdriver : (s.tk.link.get l).touching.getLast? = some c
    · exact h.of_driven honly htk htouch hl hdriver
    · rw [hother (by rw [htk]; exact hdriver)]
      exact h.of_moved honly htk htouch hl hdriver

/-! ## Touches that begin (R105, R113, R114, R118) -/

/-- A touch begin takes the hold of the channel's link: every member that follows is TOUCHED at the fader level. -/
theorem touchBegin_linked (h : s.TakeoverSound) (honly : s.OnlyChannel u c) (htk : u.tk = s.tk)
    (hbefore : (s.pi.touch.get c).touched = false) (hafter : (u.pi.touch.get c).touched = true) (hl : s.linkOf c = some l) :
    (u.touchBegin c).TakeoverSound := by
  have hmark := h.no_mark hbefore
  have hunlisted : c ∉ (s.tk.link.get l).touching := fun k =>
    Bool.false_ne_true (hbefore.symm.trans (((h.link l).list.member c).mp k).2.1)
  have hlevels := u.levelsOnly_touchBegin c
  have hw := (u.touchBegins_touchBegin c).2 l (by rw [honly.net.linkOf]; exact hl)
  generalize u.touchBegin c = w at *
  have hnet := honly.net.trans (.of_levels hlevels)
  have hfader : ∀ d, w.faderLevel d = u.faderLevel d := fun d => by simp only [State.faderLevel, hlevels.pi]
  have hchans : ∀ d, w.tk.chan.get d = if s.linkOf d = some l ∧ s.mode d ≠ .safe then
        ⟨.touched, u.faderLevel c, none, (s.tk.chan.get d).mark⟩
      else if d = c then { s.tk.chan.get d with
        state := if (s.tk.chan.get d).state = .overridden then .safeManual else (s.tk.chan.get d).state, mark := false }
      else s.tk.chan.get d := fun d => by
    rw [hw]
    simp only [Table.get_ofFn, honly.net.linkOf, honly.net.mode, htk]
    by_cases e : d = c
    · subst e; simp only [hmark, if_true]
    · simp only [if_neg e]
  have hmarks : ∀ d, (w.tk.chan.get d).mark = (s.tk.chan.get d).mark := fun d => by
    rw [hchans]
    split
    · rfl
    · split
      · next e => rw [e, hmark]
      · rfl
  have htouched : ∀ d, (w.pi.touch.get d).touched = if d = c then true else (s.pi.touch.get d).touched := fun d => by
    rw [hlevels.pi]
    split
    · next e => rw [e]; exact hafter
    · next e => exact honly.touched d e
  have hrecord := (h.link l).record
  refine .of_record l
    ⟨if s.sl.station = 0 then (s.tk.link.get l).stamp else min ((s.tk.link.get l).stamp + 1) 16777215,
      some s.sl.station, u.faderLevel c, true, if s.sl.station = 0 then (s.tk.link.get l).lastToucher else some s.sl.station,
      (s.tk.link.get l).touching ++ [c]⟩
    h hnet (fun k => ?_) (fun d hd => ?_) (fun d => ⟨?_, ?_⟩) (LinkRecord.Stands.carry (s := s) ⟨?_, rfl, ?_, ?_, ?_⟩ hnet) ?_
    (fun d => ?_) (fun d hd => ?_) (fun d hf _ => ?_)
  · rw [hw]
    simp only [Table.get_set, htk, honly.net.station, List.erase_of_not_mem hunlisted]
  · have e : d ≠ c := by rintro rfl; exact hd hl
    exact .of_records ((hfader d).trans (honly.fader d e)) (by rw [htouched, if_neg e])
      (by rw [hchans, if_neg fun k => hd k.1, if_neg e])
  · rw [hnet.mode, hchans]
    split
    · next k => exact .touched k.2 ..
    · next k =>
      split
      · next e =>
        subst e
        have hsafe : s.mode d = .safe := not_not.mp fun hm => k ⟨hl, hm⟩
        have hlegal := (h.channel d).legal
        rw [hsafe] at hlegal ⊢
        exact hlegal.safeTouched
      · exact (h.channel d).legal
  · rw [hmarks, htouched]
    intro k
    rw [(h.channel d).mark k, ite_self]
  · dsimp only
    split
    · exact hrecord.stamp
    · exact Nat.min_le_right ..
  · rintro p ⟨⟩; exact .inl rfl
  · exact iff_of_true rfl (by simp)
  · dsimp only
    split
    · exact hrecord.zero
    · intro k; omega
  · exact List.nodup_append.mpr ⟨(h.link l).list.once, List.nodup_singleton c, fun a ha b hb => by
      rw [List.mem_singleton.mp hb]; rintro rfl; exact hunlisted ha⟩
  · rw [State.Counts, hmarks, htouched, List.mem_append, List.mem_singleton]
    by_cases e : d = c
    · subst e
      exact iff_of_true (.inr rfl) ⟨hl, if_pos rfl, hmark⟩
    · rw [if_neg e, or_iff_left e]; exact (h.link l).list.member d
  · rw [List.getLast?_append, List.getLast?_singleton] at hd
    cases hd
    exact (hfader c).symm
  · rw [hchans, if_pos ((s.follows_iff l d).mp hf)]
    exact ⟨rfl, rfl⟩

/-- The begin of a touch of an untouched channel. -/
theorem beginTouch (h : s.TakeoverSound) (ht : (s.pi.touch.get c).touched = false) : (s.beginTouch c).TakeoverSound := by
  have honly := State.OnlyChannel.of_touch s c { s.pi.touch.get c with touched := true }
  cases hl : s.linkOf c with
  | some l =>
    have htouched : ((s.pi.touch.set c { s.pi.touch.get c with touched := true }).get c).touched = true := by
      rw [Table.get_set_self]
    exact h.touchBegin_linked honly rfl ht htouched hl
  | none =>
    have hlegal := (h.channel c).legal
    have hw := (State.touchBegins_touchBegin (s.modifyTouch c fun t => { t with touched := true }) c).1 hl
    change (State.touchBegin (s.modifyTouch c fun t => { t with touched := true }) c).TakeoverSound
    rw [hw]
    refine (honly.trans (.of_set ..)).sound h (fun k => absurd hl k) (State.channelSound_set ?_ ?_)
    · change TakeoverChannel.Legal (if s.mode c = .safe then _ else _) (s.mode c)
      split
      · next k => rw [k] at hlegal ⊢; exact hlegal.safeTouched
      · next k => exact .touched k ..
    · split <;> exact nofun

end State.TakeoverSound

end Sys2Proof.Machine

/-! SUPPORT. The invariant of TK under accepted LINK messages and under the release of a station's links (R116 to R120). -/

namespace Sys2Proof.Machine

/-! ## An accepted RELEASE (R117) -/

/-- A RELEASE is accepted as a STATE is that says that the link is not held: the two differ in when they are accepted. -/
theorem acceptRelease_eq_acceptTouch (s : State) (l : LinkNo) (stamp : Nat) (p : Option Station) (x : Level) :
    s.acceptRelease l stamp p x = s.acceptTouch l stamp p false x := by
  have hnamed : s.namedHolder p false = none := by
    unfold State.namedHolder
    cases p <;> simp
  unfold State.acceptRelease State.acceptTouch
  simp only [hnamed, Option.isSome_none, Bool.false_eq_true, if_false]

/-! ## What makes a message acceptable (R116, R117) -/

theorem present_iff (s : State) (p : Station) :
    s.present p = true ↔ p ≠ 0 ∧ p ≠ s.sl.station ∧ (s.sl.peer.get p).state = .present := by
  simp [State.present, and_assoc]

/-- A station PRESENT in `s` is so in `u` if its entry says so still. -/
theorem present_of_entry {s u : State} {p : Station} (hstation : u.sl.station = s.sl.station)
    (hentry : (s.sl.peer.get p).state = .present → (u.sl.peer.get p).state = .present) (h : s.present p = true) :
    u.present p = true := by
  rw [present_iff] at h ⊢
  rw [hstation]
  exact ⟨h.1, h.2.1, hentry h.2.2⟩

theorem State.namedHolder_present {s : State} {p : Option Station} {held : Bool} {n : Station}
    (h : s.namedHolder p held = some n) : s.present n = true := by
  cases p with
  | none => cases h
  | some m =>
    unfold State.namedHolder at h
    dsimp only at h
    split at h
    · next k => cases h; exact ((Bool.and_eq_true ..).mp k).2
    · cases h

/-- A record of stamp 0 accepts no stamp of 0: it has no last toucher. -/
theorem State.LinkLegal.accepts_pos {s : State} {l : LinkNo} (h : s.LinkLegal l) {stamp : Nat} {p : Option Station}
    (ha : (s.tk.link.get l).acceptsTouch stamp p = true ∨ (s.tk.link.get l).acceptsRelease stamp p = true) : stamp ≠ 0 := by
  rintro rfl
  by_cases hz : (s.tk.link.get l).stamp = 0
  · have hlast := h.zero hz
    rcases ha with ha | ha
    · simp [LinkRecord.acceptsTouch, hz, hlast] at ha
    · simp only [LinkRecord.acceptsRelease, hz, hlast] at ha
      cases p <;> simp at ha
  · rcases ha with ha | ha
    · simp [LinkRecord.acceptsTouch, Ne.symm hz] at ha
    · simp [LinkRecord.acceptsRelease, Ne.symm hz] at ha

/-! ## The members of a link whose record has changed (R118, R119) -/

section
variable {s : State} {l : LinkNo} {stamp : Nat} {p : Option Station} {held : Bool} {x : Level}

theorem State.lostMark_away {c : Channel} (h : s.TakeoverSound) (hc : s.linkOf c ≠ some l) : s.lostMark l c = s.tk.chan.get c := by
  have hunlisted : c ∉ (s.tk.link.get l).touching := fun k => hc (((h.link l).list.member c).mp k).1
  simp only [State.lostMark, hunlisted, decide_false, Bool.and_false, Bool.or_false]

theorem State.lostMark_legal {c : Channel} (h : s.TakeoverSound) : (s.lostMark l c).Legal (s.mode c) :=
  (h.channel c).legal.withMark _

theorem TakeoverChannel.Legal.releasedAt {ch : TakeoverChannel} {mode : Mode} (hm : mode ≠ .safe) {r : Nat} (hr : r ≤ 1000) :
    (ch.releaseAt x mode r).Legal mode := by
  unfold TakeoverChannel.releaseAt
  rw [TakeoverChannel.release_eq]
  exact .released _ hm hr

theorem TakeoverChannel.releaseAt_not_touched (ch : TakeoverChannel) {mode : Mode} (hm : mode ≠ .safe) (r : Nat) :
    (ch.releaseAt x mode r).state ≠ .touched := by
  unfold TakeoverChannel.releaseAt
  rw [TakeoverChannel.release_eq]
  exact TakeoverChannel.released_not_touched _ _ hm r

theorem acceptTouch_legal (h : s.TakeoverSound) (c : Channel) :
    ((s.acceptTouch l stamp p held x).tk.chan.get c).Legal (s.mode c) := by
  have hlost := s.lostMark_legal (l := l) (c := c) h
  cases hf : s.follows l c with
  | false => rw [acceptTouch_bystander hf]; exact hlost
  | true =>
    have hmode := ((s.follows_iff l c).mp hf).2
    rw [acceptTouch_channel]
    simp only [hf, if_true, Bool.true_and]
    split
    · split
      · exact .touched hmode ..
      · split
        · exact hlost.withManual hmode x
        · exact hlost
    · split
      · split
        · exact .releasedAt hmode h.returnTime
        · exact hlost
      · exact hlost

/-- A member that follows is TOUCHED after an accepted message only at the level of the link, which is held. -/
theorem acceptTouch_following (h : s.TakeoverSound) {c : Channel} (hf : s.follows l c = true)
    (ht : ((s.acceptTouch l stamp p held x).tk.chan.get c).state = .touched) :
    (s.namedHolder p held).isSome = true ∧ ((s.acceptTouch l stamp p held x).tk.chan.get c).manual = x := by
  have hmode := ((s.follows_iff l c).mp hf).2
  cases hn : (s.namedHolder p held).isSome with
  | true =>
    refine ⟨rfl, ?_⟩
    cases hb : s.holdBegins l stamp p with
    | true => rw [acceptTouch_begins hf hn hb]; rfl
    | false =>
      rw [acceptTouch_moves hf hn hb] at ht ⊢
      split
      · rfl
      · next k => rw [if_neg k] at ht; exact absurd ht k
  | false =>
    exfalso
    by_cases k : (s.tk.chan.get c).state = .touched
    · rw [acceptTouch_releases hf hn ((h.link l).following c hf k).1 k] at ht
      exact TakeoverChannel.releaseAt_not_touched _ hmode _ ht
    · rw [acceptTouch_rests hn (.inr k)] at ht
      exact k ht

theorem State.TakeoverSound.acceptTouch (h : s.TakeoverSound) (hstamp : stamp ≤ Config.stampTop) (hpos : stamp ≠ 0) :
    (s.acceptTouch l stamp p held x).TakeoverSound := by
  have htk := acceptTouch_only_tk s l stamp p held x
  have hlink := acceptTouch_link s l stamp p held x
  have hmark := fun c => acceptTouch_mark (s := s) (l := l) (stamp := stamp) (p := p) (held := held) (x := x) (c := c)
  have hlegal := acceptTouch_legal (l := l) (stamp := stamp) (p := p) (held := held) (x := x) h
  have hfollowing := fun c => acceptTouch_following (l := l) (stamp := stamp) (p := p) (held := held) (x := x) (c := c) h
  have haway : ∀ c, s.linkOf c ≠ some l → (s.acceptTouch l stamp p held x).tk.chan.get c = s.tk.chan.get c := fun c hc => by
    rw [acceptTouch_bystander (by rw [← Bool.not_eq_true, s.follows_iff]; exact fun k => hc k.1), State.lostMark_away h hc]
  generalize s.acceptTouch l stamp p held x = w at *
  have hpi : w.pi = s.pi := by rw [htk]
  have hnet : s.SameNet w := by rw [htk]; exact .of_peer rfl rfl rfl
  have hempty : (s.touchedRecord l stamp p held x).touching = [] := by
    unfold State.touchedRecord
    dsimp only
    split
    · rfl
    · next k =>
      refine not_not.mp fun hne => k ?_
      simpa only [State.holdsLink, beq_iff_eq] using (h.link l).record.here.mpr hne
  have hcounted : ∀ c, s.linkOf c = some l → ¬w.Counts c := fun c hc hcount => by
    rw [State.Counts, hpi, hmark, State.lostMark, Bool.or_eq_false_iff] at hcount
    obtain ⟨ht, hm, hkept⟩ := hcount
    have hmem := ((h.link l).list.member c).mpr ⟨hc, ht, hm⟩
    have hhere := (h.link l).record.here.mpr (List.ne_nil_of_mem hmem)
    simp [State.holdsLink, hhere, hmem] at hkept
  refine .of_record l (s.touchedRecord l stamp p held x) h hnet hlink (fun c hc => .of_chan hpi (haway c hc))
    (fun c => ⟨by rw [hnet.mode]; exact hlegal c, fun hm => ?_⟩)
    ⟨hstamp, rfl, fun n hn => .inr (hnet.present n (State.namedHolder_present hn)), ?_, fun hz => absurd hz hpos⟩
    (by rw [hempty]; exact List.nodup_nil) (fun c => ?_) (fun d hd => ?_) hfollowing
  · rw [hmark] at hm
    rw [hpi]
    rcases Bool.or_eq_true_iff.mp hm with k | k
    · exact (h.channel c).mark k
    · exact (((h.link l).list.member c).mp (of_decide_eq_true ((Bool.and_eq_true ..).mp k).2)).2.1
  · rw [hempty, hnet.station]
    exact iff_of_false (fun k => ((present_iff s _).mp (State.namedHolder_present k)).2.1 rfl) fun k => k rfl
  · rw [hempty]
    exact iff_of_false List.not_mem_nil fun k => hcounted c k.1 k.2
  · rw [hempty] at hd; cases hd

theorem State.TakeoverSound.acceptRelease (h : s.TakeoverSound) (hstamp : stamp ≤ Config.stampTop) (hpos : stamp ≠ 0) :
    (s.acceptRelease l stamp p x).TakeoverSound := by
  rw [acceptRelease_eq_acceptTouch]
  exact h.acceptTouch hstamp hpos

end

/-! ## The release of the links of a station (R120) -/

/-- A record that another station gives up, which need then no longer be PRESENT, still stands. -/
theorem LinkRecord.Stands.givenUpBy {r : LinkRecord} {s t : State} {p : Station} (h : r.Stands s) (hp : p ≠ s.sl.station)
    (hstation : t.sl.station = s.sl.station) (hpresent : ∀ q, q ≠ p → s.present q = true → t.present q = true) :
    (r.givenUpBy p).Stands t := by
  unfold LinkRecord.givenUpBy
  split
  · next k =>
    have hhere := h.here
    rw [k] at hhere
    exact ⟨h.stamp, rfl, nofun, iff_of_false nofun (hhere.not.mp fun e => hp (Option.some.inj e)), h.zero⟩
  · next k =>
    refine ⟨h.stamp, h.held, fun q hq => ?_, by rw [hstation]; exact h.here, h.zero⟩
    rw [hstation]
    exact (h.holder q hq).imp_right (hpresent q fun e => k (e ▸ hq))

theorem LinkRecord.givenUpBy_driven (r : LinkRecord) (p : Station) :
    (r.givenUpBy p).touching = r.touching ∧ (r.givenUpBy p).level = r.level := by
  unfold LinkRecord.givenUpBy
  split <;> exact ⟨rfl, rfl⟩

/-- The links of another station are released; that station need no longer be PRESENT. -/
theorem State.TakeoverSound.releaseHeldBy {s u : State} (h : s.TakeoverSound) {p : Station} (hp : p ≠ s.sl.station)
    (htk : u.tk = s.tk) (hpi : u.pi = s.pi) (hconfig : u.config = s.config) (hstation : u.sl.station = s.sl.station)
    (hpresent : ∀ q, q ≠ p → s.present q = true → u.present q = true) : (u.releaseHeldBy p).TakeoverSound := by
  have hlevels := u.levelsOnly_releaseHeldBy p
  have hlink := releaseHeldBy_link u p
  have hchan := releaseHeldBy_channel u p
  generalize u.releaseHeldBy p = w at *
  have hwconfig := hlevels.config.trans hconfig
  have hwpi := hlevels.pi.trans hpi
  have hlinkOf : ∀ c, u.linkOf c = s.linkOf c := fun c => by simp only [State.linkOf, hconfig]
  have hmode : ∀ c, u.mode c = s.mode c := fun c => by simp only [State.mode, hconfig]
  have hwlinkOf : ∀ c, w.linkOf c = s.linkOf c := fun c => by simp only [State.linkOf, hwconfig]
  have hwmode : ∀ c, w.mode c = s.mode c := fun c => by simp only [State.mode, hwconfig]
  simp only [hlinkOf, hmode, hconfig, htk] at hlink hchan
  have hmark : ∀ c, (w.tk.chan.get c).mark = (s.tk.chan.get c).mark := fun c => by
    rw [hchan]
    split
    · rfl
    · split
      · exact TakeoverChannel.released_mark ..
      · rfl
  have hlegal : ∀ c, (w.tk.chan.get c).Legal (s.mode c) := fun c => by
    rw [hchan]
    split
    · exact (h.channel c).legal
    · split
      · next k => exact .released _ k.2.1 h.returnTime
      · exact (h.channel c).legal
  refine ⟨by rw [hwconfig]; exact h.returnTime,
    fun c => ⟨by rw [hwmode]; exact hlegal c, by rw [hmark, hwpi]; exact (h.channel c).mark⟩, fun l => ?_⟩
  obtain ⟨hlist, hlevel⟩ := (s.tk.link.get l).givenUpBy_driven p
  rw [← hlink] at hlist hlevel
  refine ⟨(linkLegal_iff w l).mpr ?_, ⟨by rw [hlist]; exact (h.link l).list.once, fun c => ?_, fun d hd => ?_⟩, fun c hf ht => ?_⟩
  · rw [hlink]
    refine ((linkLegal_iff s l).mp (h.link l).record).givenUpBy hp (hlevels.station.trans hstation) fun q hq k => ?_
    rw [State.present, hlevels.station, hlevels.peer]
    exact hpresent q hq k
  · rw [hlist, hwlinkOf, hwpi, hmark]; exact (h.link l).list.member c
  · rw [hlist] at hd
    rw [hlevel, (h.link l).list.driving d hd]
    simp only [State.faderLevel, hwpi]
  · obtain ⟨hc, hm⟩ := (w.follows_iff l c).mp hf
    rw [hwlinkOf] at hc
    rw [hwmode] at hm
    rw [hchan, hc] at ht ⊢
    dsimp only at ht ⊢
    rw [hlink, LinkRecord.givenUpBy]
    split at ht
    · exact absurd ht (TakeoverChannel.released_not_touched _ _ hm _)
    · next k =>
      rw [if_neg k, if_neg fun e => k ⟨e, hm, ht⟩]
      exact (h.link l).following c ((s.follows_iff l c).mpr ⟨hc, hm⟩) ht

end Sys2Proof.Machine

/-! SUPPORT. The invariant of TK under the plays of cues, the panel, the glide timer and the end of the window (R42, R57, R59, R68, R76,
R87 to R92, R110, R122, R123). -/

namespace Sys2Proof.Machine

/-! ## Operations that TK has no part in -/

section
variable (s : State)

theorem sameTakeover_enqueue (m : Msg) : s.SameTakeover (s.enqueue m) := .of_watched (s.enqueue_tk m) (watched_enqueue s m)

/-- What SEQ and FE hold is not read. -/
theorem sameTakeover_plays (seq : Sequencer) (fe : FadeEngine) : s.SameTakeover { s with seq := seq, fe := fe } :=
  .of_blocks rfl rfl rfl rfl rfl

theorem sameTakeover_refuseGo : s.SameTakeover s.refuseGo := .of_blocks rfl rfl rfl rfl rfl

theorem sameTakeover_refuseLoad (r : Reason) : s.SameTakeover (s.refuseLoad r) :=
  .of_watched (s.refuseLoad_tk r) (watched_refuseLoad s r)

theorem sameTakeover_countIgnored : s.SameTakeover s.countIgnored := .of_blocks rfl rfl rfl rfl rfl

theorem sameTakeover_countForeign (l : LinkNo) : s.SameTakeover (s.countForeign l) := .ite (.refl s) (sameTakeover_countIgnored s)

theorem sameTakeover_modifyTouch (c : Channel) {f : TouchState → TouchState} (hf : ∀ t, (f t).touched = t.touched) :
    s.SameTakeover (s.modifyTouch c f) :=
  .of_panel _ (fun d => by rw [Table.get_modify]; split <;> simp only [hf]) fun _ => rfl

theorem sameTakeover_modifySlot (k : FaderSlot) {f : SlotState → SlotState}
    (hf : (f (s.pi.slot.get k)).level = (s.pi.slot.get k).level) : s.SameTakeover (s.modifySlot k f) :=
  .of_panel _ (fun _ => rfl) fun j => by
    rw [Table.get_modify]
    split
    · next e => subst e; exact hf
    · rfl

/-- The slot of a master fader is no channel's. -/
theorem sameTakeover_otherSlot {k : FaderSlot} (hk : slotChannel k = none) (f : SlotState → SlotState) :
    s.SameTakeover (s.modifySlot k f) where
  net := .of_peer rfl rfl rfl
  chan := rfl
  link := rfl
  touched _ := rfl
  fader c := congrArg SlotState.level ((Table.get_modify ..).trans (if_neg (slotChannel_none hk c)))

theorem State.OnlyChannel.of_slot (c : Channel) (f : SlotState → SlotState) : s.OnlyChannel (s.modifySlot (channelSlot c) f) c where
  net := .of_peer rfl rfl rfl
  link := rfl
  chan _ _ := rfl
  touched _ _ := rfl
  fader _ hd := congrArg SlotState.level
    ((Table.get_modify ..).trans (if_neg fun e => hd (channelSlot_injective e).symm))

theorem slotMaster_ge {k : FaderSlot} {m : Fin 4} (h : slotMaster k = some m) : 24 ≤ k.val := by
  unfold slotMaster at h
  split at h
  · assumption
  · cases h

/-- Of PI only the touches and the slots are read. -/
theorem sameTakeover_pi {pi : Panel} (htouch : pi.touch = s.pi.touch) (hslot : pi.slot = s.pi.slot) :
    s.SameTakeover { s with pi := pi } :=
  .of_panel pi (fun _ => by rw [htouch]) fun _ => by rw [hslot]

theorem sameTakeover_beginAccepting : s.SameTakeover s.beginAccepting :=
  .of_panel _ (fun c => by simp only [Table.get_mapAt]) fun k => by simp only [Table.get_mapAt]

theorem sameTakeover_unlockPanel : s.SameTakeover s.unlockPanel := by
  have hunlocked : s.SameTakeover { s with pi.locked := false, pi.matchPos := 0, pi.unlockTimer := .stopped } :=
    sameTakeover_pi s rfl rfl
  exact .ite (hunlocked.trans (sameTakeover_beginAccepting _)) hunlocked

theorem sameTakeover_matchKey (key : Fin 35) : s.SameTakeover (s.matchKey key) := by
  have hmatch : ∀ n, s.SameTakeover (s.matchAt n) := fun n => .ite (sameTakeover_unlockPanel s) (sameTakeover_pi s rfl rfl)
  exact .ite (hmatch _) (.ite (hmatch 0) (sameTakeover_pi s rfl rfl))

theorem sameTakeover_slotLevel (k : Fin 4) (first : Bool) : s.SameTakeover (s.slotLevel k first) := by
  refine .of_watched (forEach_field State.tk _ (fun m t => ?_) s) (watched_slotLevel s k first)
  have hqueue : ∀ u : State, (u.queueLevel m).tk = u.tk := fun u => by
    unfold State.queueLevel
    split
    · exact State.enqueue_tk ..
    · rfl
  unfold State.takeSlotLevel
  dsimp only
  split
  · split
    · exact hqueue _
    · rfl
  · rfl

end

namespace State.TakeoverSound

variable {s t : State}

/-! ## Fades, steps, GO and GOTO (R42, R68, R76) -/

theorem startFade (h : s.TakeoverSound) (c : Channel) (cue : Cue) (target : Level) (fade : Nat) (curve : Curve) (priority : Bool) :
    (s.startFade c cue target fade curve priority).TakeoverSound :=
  notice (h.same (sameTakeover_plays s s.seq _)) c priority

theorem startStep (h : s.TakeoverSound) (p : PendingStep) : (s.startStep p).TakeoverSound := by
  unfold State.startStep
  dsimp only
  split
  · exact h.same (sameTakeover_plays s s.seq _)
  · exact (h.startFade ..).same (sameTakeover_plays _ _ _)

theorem startSteps (h : s.TakeoverSound) (l : List PendingStep) : (l.foldl State.startStep s).TakeoverSound := by
  induction l generalizing s with
  | nil => exact h
  | cons p l ih => exact ih (h.startStep p)

theorem takeStep (h : s.TakeoverSound) (p : PendingStep) : (s.takeStep p).TakeoverSound := by
  unfold State.takeStep
  dsimp only
  split
  · exact startStep (h.same (sameTakeover_plays s s.seq _)) p
  · exact h.same (sameTakeover_plays s s.seq _)

theorem takeSteps (h : s.TakeoverSound) (l : List PendingStep) : (l.foldl State.takeStep s).TakeoverSound := by
  induction l generalizing s with
  | nil => exact h
  | cons p l ih => exact ih (h.takeStep p)

theorem handSteps (h : s.TakeoverSound) (n : Cue) : (s.handSteps n).TakeoverSound := by
  rw [State.handSteps_eq]
  exact h.takeSteps _

theorem takeGo (h : s.TakeoverSound) (n : Cue) (cause : Cause) (isLocal : Bool) : (s.takeGo n cause isLocal).TakeoverSound := by
  have hsteps : ∀ q : Sequencer, (State.handSteps { s with seq := q } n).TakeoverSound := fun q =>
    handSteps (h.same (sameTakeover_plays s q s.fe)) n
  unfold State.takeGo
  dsimp only
  split
  · exact (hsteps _).same (sameTakeover_enqueue ..)
  · exact hsteps _

theorem expireFollow (h : s.TakeoverSound) : s.expireFollow.TakeoverSound := by
  have hdisarmed : State.TakeoverSound { s with seq.follow := none } := h.same (sameTakeover_plays s _ s.fe)
  unfold State.expireFollow
  dsimp only
  split
  · exact hdisarmed
  · split
    · exact hdisarmed.takeGo ..
    · exact hdisarmed.same (sameTakeover_refuseGo _)

theorem followChain (h : s.TakeoverSound) (fuel : Nat) : (s.followChain fuel).TakeoverSound := by
  induction fuel generalizing s with
  | zero => exact h
  | succ fuel ih =>
    unfold State.followChain
    split
    · exact ih h.expireFollow
    · exact h

theorem runFollow (h : s.TakeoverSound) : s.runFollow.TakeoverSound := h.followChain _

theorem runGo (h : s.TakeoverSound) (n : Cue) (cause : Cause) (isLocal : Bool) : (s.runGo n cause isLocal).TakeoverSound :=
  (h.takeGo n cause isLocal).runFollow

theorem gotoRequest (h : s.TakeoverSound) (n : Cue) (fade : Nat) : (s.gotoRequest n fade).TakeoverSound := by
  refine forEach_keeps State.TakeoverSound _ (fun c t ht => ?_) _ (h.same (sameTakeover_plays s s.seq _))
  unfold State.gotoChannel
  split
  · exact ht
  · exact (ht.startFade ..).same (sameTakeover_plays _ _ _)

theorem takeGoto (h : s.TakeoverSound) (n : Cue) (fade : Nat) : (s.takeGoto n fade).TakeoverSound :=
  gotoRequest (h.same (sameTakeover_plays s _ s.fe)) n fade

theorem goKeyRequest (h : s.TakeoverSound) : s.goKeyRequest.TakeoverSound := by
  have hseq : ∀ q : Sequencer, State.TakeoverSound { s with seq := q } := fun q => h.same (sameTakeover_plays s q s.fe)
  unfold State.goKeyRequest
  dsimp only
  split
  · exact h
  · split
    · exact (hseq _).same (sameTakeover_enqueue ..)
    · split
      · exact (hseq _).same (sameTakeover_refuseGo _)
      · split
        · exact (hseq _).runGo ..
        · exact (hseq _).same (sameTakeover_refuseGo _)

theorem backKeyRequest (h : s.TakeoverSound) : s.backKeyRequest.TakeoverSound := by
  unfold State.backKeyRequest
  split
  · exact h.same (sameTakeover_refuseGo s)
  · split
    · exact (h.takeGoto ..).same (sameTakeover_enqueue ..)
    · exact h.same (sameTakeover_refuseGo s)

theorem advanceFades (h : s.TakeoverSound) : s.advanceFades.TakeoverSound := by
  rw [advanceFades_eq]
  exact startSteps (h.same (sameTakeover_plays s s.seq _)) _

/-! ## The panel (R84 to R92, R97) -/

theorem lockPanel (h : s.TakeoverSound) : s.lockPanel.TakeoverSound := by
  have hlocked : State.TakeoverSound { s with pi.locked := true, pi.matchPos := 0, pi.unlockTimer := .stopped } :=
    h.same (sameTakeover_pi s rfl rfl)
  unfold State.lockPanel
  dsimp only
  split
  · exact forEach_keeps State.TakeoverSound _ (fun c t ht => ht.endTouch c) _ hlocked
  · exact hlocked

theorem beginAccepting (h : s.TakeoverSound) : s.beginAccepting.TakeoverSound := h.same (sameTakeover_beginAccepting s)

theorem countReading (h : s.TakeoverSound) (k : FaderSlot) (rail : Bool) : (s.countReading k rail).TakeoverSound := by
  have hcounted : State.TakeoverSound (s.modifySlot k fun x => x.count rail s.config.faultCount) := by
    refine h.same (sameTakeover_modifySlot s k ?_)
    unfold SlotState.count
    split
    · rfl
    · split <;> rfl
  unfold State.countReading
  dsimp only
  split
  · exact hcounted
  · next c _ =>
    split
    · exact hcounted.endTouch _
    · split
      · have hrearmed := hcounted.same (sameTakeover_modifyTouch _ c (f := fun t => { t with rearm := true }) fun _ => rfl)
        refine hrearmed.same (.of_watched ?_ (watched_handAction ..))
        unfold State.handAction
        split <;> rfl
      · exact hcounted

theorem motionTouch (h : s.TakeoverSound) (c : Channel) (catchUp : Bool) : (s.motionTouch c catchUp).TakeoverSound := by
  have hbegin : State.TakeoverSound (if !(s.pi.touch.get c).touched && !catchUp then s.beginTouch c else s) := by
    split
    · next k => exact h.beginTouch (by simpa using ((Bool.and_eq_true ..).mp k).1)
    · exact h
  unfold State.motionTouch
  dsimp only
  generalize (if !(s.pi.touch.get c).touched && !catchUp then s.beginTouch c else s) = u at *
  split
  · split
    · exact hbegin.same (sameTakeover_modifyTouch u c (f := fun t => { t with quiet := .running (u.config.quietTime * 10) })
        fun _ => rfl)
    · exact hbegin
  · exact h

/-- An accepted reading: the fader level of a channel moves where the level differs from the one before (R85, R92). -/
theorem acceptReading (h : s.TakeoverSound) (k : FaderSlot) (n : Nat) : (s.acceptReading k n).TakeoverSound := by
  unfold State.acceptReading State.handReading
  dsimp only
  split
  · next m hm =>
    have hslot := sameTakeover_otherSlot s (slotChannel_of_master (slotMaster_ge hm))
    split
    · exact h.same ((hslot _).trans (sameTakeover_slotLevel ..))
    · exact h.same (hslot _)
  · next c _ hc =>
    obtain rfl := slotChannel_eq hc
    refine motionTouch ?_ _ _
    split
    · exact h.faderChange (.of_slot s c _) rfl rfl
    · next hsame =>
      have hlevel : (s.pi.slot.get (channelSlot c)).level = lawLevel s.config.law n := by simpa using hsame
      exact h.same (sameTakeover_modifySlot s _ hlevel.symm)
  · next hc => exact h.same (sameTakeover_otherSlot s hc _)

theorem readFader (h : s.TakeoverSound) (k : FaderSlot) (raw : Nat) : (s.readFader k raw).TakeoverSound := by
  unfold State.readFader
  dsimp only
  split
  · exact (h.countReading ..).acceptReading ..
  · exact h.countReading ..

end State.TakeoverSound

/-! ## Return glides (R110) -/

/-- A record that has come to rest, or stands: it is as legal as it was, marked as it was, and TOUCHED only if it stands. -/
structure TakeoverChannel.Rests (ch u : TakeoverChannel) (mode : Mode) : Prop where
  legal : u.Legal mode
  mark : u.mark = ch.mark
  touched : u.state = .touched → u = ch

namespace TakeoverChannel

variable {ch : TakeoverChannel} {mode : Mode}

theorem Legal.stands (h : ch.Legal mode) : ch.Rests ch mode := ⟨h, rfl, fun _ => rfl⟩

/-- A glide that has reached its duration has ended; another runs on (R110). -/
theorem Legal.glides (h : ch.Legal mode) {g : Glide} (hg : ch.glide.isSome = true) (hd : g.duration ≤ 1000) :
    ch.Rests ({ ch with glide := some g } : TakeoverChannel).endGlide mode := by
  have hreturning := h.glide.mp hg
  have hauto := h.returning hreturning
  unfold TakeoverChannel.endGlide
  dsimp only
  split
  · rw [hauto]
    exact ⟨.of_still nofun (fun _ => nofun) nofun nofun rfl, rfl, nofun⟩
  · next hrun =>
    refine ⟨⟨h.safe, h.notSafe, h.latched, h.returning, iff_of_true rfl hreturning, ?_⟩, rfl, fun k => ?_⟩
    · rintro r ⟨⟩
      exact ⟨Nat.lt_of_not_le hrun, hd⟩
    · exact absurd (hreturning.symm.trans k) nofun

theorem Legal.endGlide (h : ch.Legal mode) : ch.Rests ch.endGlide mode := by
  cases hg : ch.glide with
  | none => simpa only [TakeoverChannel.endGlide, hg] using h.stands
  | some g =>
    have hsame : ({ ch with glide := some g } : TakeoverChannel) = ch := by rw [← hg]
    have hends := h.glides (g := g) (by rw [hg]; rfl) (h.running g hg).2
    rwa [hsame] at hends

theorem Legal.advanceGlide (h : ch.Legal mode) : ch.Rests ch.advanceGlide mode := by
  unfold TakeoverChannel.advanceGlide
  split
  · exact h.stands
  · next g hg => exact h.glides (by rw [hg]; rfl) (h.running g hg).2

end TakeoverChannel

namespace State.TakeoverSound

variable {s t : State}

theorem rest (h : s.TakeoverSound) (hnet : s.SameNet t) (hlink : t.tk.link = s.tk.link) (hpi : t.pi = s.pi)
    (hrest : ∀ c, (s.tk.chan.get c).Rests (t.tk.chan.get c) (s.mode c)) : t.TakeoverSound := by
  refine h.carry hnet hlink (fun c l _ => ⟨⟨by simp only [State.faderLevel, hpi], fun ht => ?_⟩, ?_⟩) fun c => ⟨?_, ?_⟩
  · have hsame := (hrest c).touched ht
    rw [hsame] at ht ⊢
    exact ⟨ht, rfl⟩
  · rw [State.Counts, State.Counts, hpi, (hrest c).mark]
  · rw [hnet.mode]; exact (hrest c).legal
  · rw [hpi, (hrest c).mark]; exact (h.channel c).mark

theorem glideTimer (h : s.TakeoverSound) (timer : Timer) : State.TakeoverSound
    { s with tk.chan := s.tk.chan.mapAt fun _ ch => ch.advanceGlide, tk.glideTimer := timer } :=
  h.rest (.of_peer rfl rfl rfl) rfl rfl fun c => by
    have hget : (s.tk.chan.mapAt fun _ ch => ch.advanceGlide).get c = (s.tk.chan.get c).advanceGlide := Table.get_mapAt ..
    change (s.tk.chan.get c).Rests ((s.tk.chan.mapAt fun _ ch => ch.advanceGlide).get c) (s.mode c)
    rw [hget]
    exact (h.channel c).legal.advanceGlide

theorem returnGlideEnd (h : s.TakeoverSound) (c : Channel) : (s.modifyTk c TakeoverChannel.endGlide).TakeoverSound :=
  h.rest (.of_peer rfl rfl rfl) rfl rfl fun d => by
    have hget : (s.tk.chan.modify c TakeoverChannel.endGlide).get d =
        if c = d then (s.tk.chan.get d).endGlide else s.tk.chan.get d := Table.get_modify ..
    change (s.tk.chan.get d).Rests ((s.tk.chan.modify c TakeoverChannel.endGlide).get d) (s.mode d)
    rw [hget]
    split
    · exact (h.channel d).legal.endGlide
    · exact (h.channel d).legal.stands

/-! ## The end of the window and the configuration (R59, R122, R155) -/

theorem rejoin (h : s.TakeoverSound) : s.rejoin.TakeoverSound := by
  have hgoto : State.TakeoverSound (if s.seq.adoptedCue = 0 then s else s.takeGoto s.seq.adoptedCue s.config.gotoTime) := by
    split
    · exact h
    · exact h.takeGoto ..
  exact hgoto.same (.of_blocks rfl rfl rfl rfl rfl)

theorem endJoining (h : s.TakeoverSound) : s.endJoining.TakeoverSound := by
  have hrejoin : s.windowClosed.rejoin.TakeoverSound := rejoin (h.same (.of_blocks rfl rfl rfl rfl rfl))
  have haccepting : State.TakeoverSound
      (if s.windowClosed.rejoin.pi.locked then s.windowClosed.rejoin else s.windowClosed.rejoin.beginAccepting) := by
    split
    · exact hrejoin
    · exact hrejoin.beginAccepting
  exact haccepting.same (sameTakeover_enqueue ..)

/-- No channel is touched before RUNNING (R88). -/
theorem no_touch (hs : s.watched.Steady) (hj : s.sl.state = .joining) (c : Channel) : (s.pi.touch.get c).touched = false := by
  cases ht : (s.pi.touch.get c).touched with
  | false => rfl
  | true => exact absurd (hj.symm.trans (acceptsInput_running (hs.touches.accepted c ht))) nofun

theorem resetTakeover_legal (mode : Mode) (mark : Bool) : TakeoverChannel.Legal ⟨resetTakeover mode, off, none, mark⟩ mode := by
  cases mode with
  | safe => exact .of_still (fun _ => ⟨.inl rfl, rfl⟩) (fun k => absurd rfl k) nofun nofun rfl
  | auto | latch => exact .of_still nofun (fun _ => nofun) nofun nofun rfl

/-- A channel's record at an acceptance: it stands with its mode and link, and otherwise it is as at a reset, or held by its new
link (R122). -/
theorem acceptTakeover_legal {k : Configuration} {c : Channel} (h : (s.tk.chan.get c).Legal (s.mode c)) :
    ((s.underConfig k).acceptTakeover s.config c (s.tk.chan.get c)).Legal (k.chan.get c).mode := by
  by_cases hsame : (k.chan.get c).mode = (s.config.chan.get c).mode ∧ (k.chan.get c).link = (s.config.chan.get c).link
  · rw [acceptTakeover_same hsame.1 hsame.2, hsame.1]
    exact h
  · rw [acceptTakeover_changed hsame]
    split
    · exact resetTakeover_legal ..
    · split
      · next k => exact .touched k.1 ..
      · exact resetTakeover_legal ..

theorem acceptTakeover_mark {k : Configuration} (c : Channel) (ch : TakeoverChannel) :
    ((s.underConfig k).acceptTakeover s.config c ch).mark = ch.mark := by
  by_cases hsame : (k.chan.get c).mode = (s.config.chan.get c).mode ∧ (k.chan.get c).link = (s.config.chan.get c).link
  · rw [acceptTakeover_same hsame.1 hsame.2]
  · rw [acceptTakeover_changed hsame]
    split
    · rfl
    · split <;> rfl

/-- A TOUCHED member that follows after an acceptance is one that followed before it, or one that its new link holds. -/
theorem acceptTakeover_following (h : s.TakeoverSound) {k : Configuration} {c : Channel} {l : LinkNo}
    (hl : (k.chan.get c).link = some l) (hm : (k.chan.get c).mode ≠ .safe)
    (ht : ((s.underConfig k).acceptTakeover s.config c (s.tk.chan.get c)).state = .touched) :
    (s.tk.link.get l).held = true ∧
      ((s.underConfig k).acceptTakeover s.config c (s.tk.chan.get c)).manual = (s.tk.link.get l).level := by
  by_cases hsame : (k.chan.get c).mode = (s.config.chan.get c).mode ∧ (k.chan.get c).link = (s.config.chan.get c).link
  · rw [acceptTakeover_same hsame.1 hsame.2] at ht ⊢
    refine (h.link l).following c ((s.follows_iff l c).mpr ⟨hsame.2.symm.trans hl, fun e => hm ?_⟩) ht
    exact hsame.1.trans e
  · rw [acceptTakeover_changed hsame, hl] at ht ⊢
    dsimp only at ht ⊢
    split at ht
    · next k => rw [if_pos k]; exact ⟨k.2, rfl⟩
    · exfalso
      revert ht
      cases (k.chan.get c).mode <;> exact nofun

/-- TK at an acceptance of a configuration, which a station takes with no touch (R122). -/
theorem acceptConfig (h : s.TakeoverSound) (hs : s.watched.Steady) (hj : s.sl.state = .joining) {k : Configuration}
    (hk : k.returnTime ≤ 1000) : (s.acceptConfig k).TakeoverSound := by
  have hchan := acceptConfig_takeover s k
  have hlink := acceptConfig_link s k
  have htouch : (s.acceptConfig k).pi.touch = s.pi.touch := by rw [acceptConfig_pi]
  have hsl := acceptConfig_sl s k
  generalize s.acceptConfig k = w at *
  have hconfig : w.config = k := by rw [State.config, hsl]
  have hstation : w.sl.station = s.sl.station := by rw [hsl]
  have hpeer : w.sl.peer = s.sl.peer := by rw [hsl]
  have huntouched := fun c => no_touch hs hj c
  have hempty : ∀ l, (s.tk.link.get l).touching = [] := fun l => List.eq_nil_iff_forall_not_mem.mpr fun c hc =>
    Bool.false_ne_true ((huntouched c).symm.trans (((h.link l).list.member c).mp hc).2.1)
  refine ⟨by rw [hconfig]; exact hk, fun c => ⟨?_, fun hm => ?_⟩, fun l => ⟨⟨?_, ?_, fun p hp => ?_, ?_, ?_⟩,
    ⟨?_, fun c => ?_, fun d hd => ?_⟩, fun c hf ht => ?_⟩⟩
  · rw [hchan, State.mode, hconfig]
    exact acceptTakeover_legal (h.channel c).legal
  · rw [hchan, acceptTakeover_mark] at hm
    rw [htouch]
    exact (h.channel c).mark hm
  · rw [hlink]; exact (h.link l).record.stamp
  · rw [hlink]; exact (h.link l).record.held
  · rw [hlink] at hp
    rw [hstation, State.present, hstation, hpeer]
    exact (h.link l).record.holder p hp
  · rw [hlink, hstation]; exact (h.link l).record.here
  · rw [hlink]; exact (h.link l).record.zero
  · rw [hlink]; exact (h.link l).list.once
  · rw [hlink, hempty, htouch, huntouched]
    exact iff_of_false List.not_mem_nil fun k => Bool.false_ne_true k.2.1
  · rw [hlink, hempty] at hd; cases hd
  · obtain ⟨hl, hm⟩ := (w.follows_iff l c).mp hf
    rw [State.linkOf, hconfig] at hl
    rw [State.mode, hconfig] at hm
    rw [hchan] at ht ⊢
    rw [hlink]
    exact acceptTakeover_following h hl hm ht

theorem closeAssembly (h : s.TakeoverSound) (hs : s.watched.Steady) (hj : s.sl.state = .joining) :
    s.closeAssembly.TakeoverSound := by
  unfold State.closeAssembly
  split
  · exact h
  · next a ha =>
    split
    · exact h.same (.of_blocks rfl rfl rfl rfl rfl)
    · next hok =>
      simp only [Bool.or_eq_true, Bool.not_eq_true', not_or, Bool.not_eq_false] at hok
      exact h.acceptConfig hs hj (hs.configs.inAssembly a ha).returnTime

/-! ## Presence and silence (R58, R120, R151) -/

theorem takePresence (h : s.TakeoverSound) {p : Station} (hp : p ≠ s.sl.station) (joining hold : Bool) (cue : Cue)
    (mask : BitVec 16) : (s.takePresence p joining hold cue mask).TakeoverSound := by
  have hpresent : ∀ q, s.present q = true → State.present ((s.recordPresence p joining hold cue).replaceMask p mask) q = true :=
    fun q => present_of_entry rfl fun hq => by
      change ((s.sl.peer.modify p _).get q).state = .present
      rw [Table.get_modify]
      split <;> exact hq
  rw [takePresence_eq]
  have htk : ((s.recordPresence p joining hold cue).replaceMask p mask).tk = s.tk := by
    simp only [State.replaceMask, State.recordPresence]
  have hpi : ((s.recordPresence p joining hold cue).replaceMask p mask).pi = s.pi := by
    simp only [State.replaceMask, State.recordPresence]
  have hconfig : ((s.recordPresence p joining hold cue).replaceMask p mask).config = s.config := by
    simp only [State.replaceMask, State.recordPresence, State.config]
  have hstation : ((s.recordPresence p joining hold cue).replaceMask p mask).sl.station = s.sl.station := by
    simp only [State.replaceMask, State.recordPresence]
  generalize (s.recordPresence p joining hold cue).replaceMask p mask = u at *
  split
  · have hanswers : (u.releaseHeldBy p).answerLinks.queueLevels.queuePresence.watched = (u.releaseHeldBy p).watched := by
      rw [State.queuePresence, watched_enqueue, watched_queueLevels, watched_answerLinks]
    exact (h.releaseHeldBy hp htk hpi hconfig hstation fun q _ => hpresent q).same (.of_watched (answers_tk_fe _).1 hanswers)
  · have hrecorded : u.TakeoverSound := h.same
      ⟨⟨hconfig, hstation, hpresent⟩, by rw [htk], by rw [htk], fun c => by rw [hpi], fun c => by simp only [State.faderLevel, hpi]⟩
    split
    · exact hrecorded.same (.ite (.of_blocks rfl rfl rfl rfl rfl) (.refl _))
    · exact hrecorded

/-- A peer that has gone silent holds no link: its links are released as it becomes ABSENT. -/
theorem losePeer (h : s.TakeoverSound) {p : Station} (hp : p ≠ s.sl.station) : (s.losePeer p).TakeoverSound := by
  let absent : State := { s with sl.peer := s.sl.peer.modify p fun e => { e with state := .absent, silence := .stopped } }
  have hpresent : ∀ q, q ≠ p → s.present q = true → absent.present q = true := by
    refine fun q hne => present_of_entry rfl fun hq => ?_
    change ((s.sl.peer.modify p _).get q).state = .present
    rw [Table.get_modify, if_neg hne.symm]
    exact hq
  have hlost : State.releaseHeldBy (if (s.sl.peer.get p).state = .present ∧ absent.presentCount = 0 then
      { absent with sl.aloneTimer := .running Config.aloneMs } else absent) p = s.losePeer p := rfl
  rw [← hlost]
  split
  · exact h.releaseHeldBy hp rfl rfl rfl rfl hpresent
  · exact h.releaseHeldBy hp rfl rfl rfl rfl hpresent

/-! ## Resets (R123) -/

theorem resetBlocks (station : Station) (rate : BitRate) {k : Configuration} (store : CueStore) (offset : Int)
    (pending : List Instr) (hk : k.returnTime ≤ 1000) : (resetBlocks station rate k store offset pending).TakeoverSound := by
  have hchan : ∀ c, (resetTakeoverUnit k).chan.get c = ⟨resetTakeover (k.chan.get c).mode, off, none, false⟩ := Table.get_ofFn _
  have hlink : ∀ l, (resetTakeoverUnit k).link.get l = ⟨0, none, off, false, none, []⟩ := Table.get_const _
  have htouch : ∀ c, ((resetPanel k offset).touch.get c).touched = false := fun c => by
    rw [resetPanel, Table.get_const]
  generalize hs : Machine.resetBlocks station rate k store offset pending = s
  have htk : s.tk = resetTakeoverUnit k := by subst hs; rfl
  have hpi : s.pi = resetPanel k offset := by subst hs; rfl
  have hconfig : s.config = k := by subst hs; rfl
  refine ⟨by rw [hconfig]; exact hk, fun c => ⟨?_, fun hm => ?_⟩, fun l => ⟨⟨?_, ?_, fun p hp => ?_, ?_, fun _ => ?_⟩,
    ⟨?_, fun c => ?_, fun d hd => ?_⟩, fun c hf ht => ?_⟩⟩
  · rw [htk, hchan, State.mode, hconfig]
    exact resetTakeover_legal ..
  · rw [htk, hchan] at hm; cases hm
  · rw [htk, hlink]; exact Nat.zero_le _
  · rw [htk, hlink]; rfl
  · rw [htk, hlink] at hp; cases hp
  · rw [htk, hlink]; exact iff_of_false nofun fun k => k rfl
  · rw [htk, hlink]
  · rw [htk, hlink]; exact List.nodup_nil
  · rw [htk, hlink, hpi, htouch]
    exact iff_of_false List.not_mem_nil fun k => Bool.false_ne_true k.2.1
  · rw [htk, hlink] at hd; cases hd
  · rw [htk, hchan] at ht
    revert ht
    cases (k.chan.get c).mode <;> exact nofun

theorem afterReset (station : Station) (rate : BitRate) {k : Configuration} (store : CueStore) (offset : Int)
    (pending : List Instr) (hk : k.returnTime ≤ 1000) : (afterReset station rate k store offset pending).TakeoverSound := by
  rw [afterReset_eq]
  have hblocks := resetBlocks station rate store offset pending hk
  exact (hblocks.same (.of_watched (State.settle_tk _) (watched_settle _))).same (sameTakeover_enqueue ..)

end State.TakeoverSound

end Sys2Proof.Machine

/-! SUPPORT. The commands that leave what the invariant of TK reads, and the relation `KeepsTakeover` over all others; it settles O58. -/

namespace Sys2Proof.Machine

section
variable {s t : State} {work : State → State} {enabled : Bool}

theorem sameTakeover_commit (w s : State) : w.SameTakeover (w.commit s) := .of_watched (w.commit_tk s) (watched_commit w s)

theorem sameTakeover_take (h : s.take work = .next t) (hw : s.SameTakeover (work s)) : s.SameTakeover t := by
  obtain rfl : (work s).commit s = t := Host.Outcome.next.inj h
  exact hw.trans (sameTakeover_commit _ s)

theorem sameTakeover_takeWhen (h : s.takeWhen enabled work = .next t) (hw : s.SameTakeover (work s)) : s.SameTakeover t := by
  cases enabled with
  | true => exact sameTakeover_take h hw
  | false =>
    obtain rfl : s = t := Host.Outcome.next.inj h
    exact .refl s

end

section
variable (s : State)

/-! ## Reception (R143) -/

theorem sameTakeover_clash (c : Prop) [Decidable c] :
    s.SameTakeover (if c then s.countReceived.beginClash else s.countReceived) :=
  .ite (.of_blocks rfl rfl rfl rfl rfl) (.of_blocks rfl rfl rfl rfl rfl)

/-- A sender that is heard becomes PRESENT, and no entry less so (R151). -/
theorem sameTakeover_heard (p : Station) : s.SameTakeover (s.heard p) where
  net := ⟨s.heard_config p, s.heard_sl_station p, fun q => present_of_entry (s.heard_sl_station p) fun hq => by
    unfold State.heard State.hearSender
    split
    · exact hq
    · rw [State.hearPeer_eq]
      change ((s.sl.peer.modify p _).get q).state = .present
      rw [Table.get_modify]
      split
      · rfl
      · exact hq⟩
  chan := by rw [s.heard_tk]
  link := by rw [s.heard_tk]
  touched c := by rw [s.heard_pi]
  fader c := by simp only [State.faderLevel, s.heard_pi]

theorem sameTakeover_receive (p : Station) (body : State → State) (hb : ∀ t : State, t.SameTakeover (body t)) :
    s.SameTakeover (s.receive p body) :=
  .ite ((sameTakeover_clash s _).trans (sameTakeover_countIgnored _)) ((sameTakeover_heard s p).trans (hb _))

theorem sameTakeover_receiveAddressed (p target : Station) (body : State → State) (hb : ∀ t : State, t.SameTakeover (body t)) :
    s.SameTakeover (s.receiveAddressed p target body) :=
  sameTakeover_receive s p _ fun t => .ite (hb t) (.refl t)

theorem sameTakeover_takeConfig (p target : Station) (body : State → State) (hb : ∀ t : State, t.SameTakeover (body t)) :
    s.SameTakeover (s.takeConfig p target body) :=
  sameTakeover_receiveAddressed s p target _ fun t => .ite (hb t) (.ite (.refl t) (sameTakeover_refuseLoad t _))

/-! ## The operations of the other blocks -/

/-- What CS, SG, GC, GP and FI hold is not read. -/
theorem sameTakeover_unread (cs : CueStore) (sg : SharedGroups) (gc : Composer) (gp : GainPort) (fi : FaultUnit) :
    s.SameTakeover { s with cs := cs, sg := sg, gc := gc, gp := gp, fi := fi } := .of_blocks rfl rfl rfl rfl rfl

theorem sameTakeover_checkKey (cue : Cue) (channel : Fin 32) (body : Channel → State) (hb : ∀ c, s.SameTakeover (body c)) :
    s.SameTakeover (s.checkKey cue channel body) := by
  refine .ite (sameTakeover_refuseLoad s _) ?_
  split
  · exact sameTakeover_refuseLoad s _
  · exact hb _

theorem sameTakeover_checkCue (cue : Cue) (body : State) (hb : s.SameTakeover body) : s.SameTakeover (s.checkCue cue body) :=
  .ite (sameTakeover_refuseLoad s _) hb

theorem sameTakeover_takeItem (code index : Nat) (value : BitVec 16) : s.SameTakeover (s.takeItem code index value) := by
  unfold State.takeItem
  split
  · exact sameTakeover_refuseLoad s _
  · split
    · exact (sameTakeover_refuseLoad s _).trans (.of_blocks rfl rfl rfl rfl rfl)
    · exact .of_blocks rfl rfl rfl rfl rfl

theorem sameTakeover_pressKey (key : Fin 35) (body : State → State) (hb : ∀ t : State, t.SameTakeover (body t)) :
    s.SameTakeover (s.pressKey key body) := by
  have hpressed : s.SameTakeover { s with pi.keyDown := s.pi.keyDown.set key true } := sameTakeover_pi s rfl rfl
  exact .ite hpressed (.ite (hpressed.trans (sameTakeover_matchKey _ key)) (hpressed.trans (hb _)))

theorem sameTakeover_stopKeyRequest : s.SameTakeover s.stopKeyRequest :=
  .ite (.refl s) (.trans (sameTakeover_plays s _ s.fe) (sameTakeover_enqueue ..))

theorem sameTakeover_toggleAssertion (k : Fin 8) : s.SameTakeover (s.toggleAssertion k) := by
  unfold State.toggleAssertion
  split
  · exact .refl s
  · next g _ =>
    have hown : s.SameTakeover { s with pi.ownAssert := s.pi.ownAssert.set g (!s.pi.ownAssert.get g) } := sameTakeover_pi s rfl rfl
    have hset : ∀ (u : State) (b : Bool), u.SameTakeover (u.ownAssertion g b) := fun u b =>
      (sameTakeover_unread u u.cs _ u.gc u.gp u.fi).trans ((sameTakeover_enqueue ..).trans (.of_blocks rfl rfl rfl rfl rfl))
    exact hown.trans (hset _ _)

theorem sameTakeover_queuePresence : s.SameTakeover s.queuePresence := sameTakeover_enqueue ..

theorem sameTakeover_enqueueAll (ms : List Msg) : s.SameTakeover (s.enqueueAll ms) :=
  .of_watched (enqueueAll_field State.tk State.enqueue_tk s ms) (enqueueAll_field State.watched watched_enqueue s ms)

theorem sameTakeover_queueLevels : s.SameTakeover s.queueLevels := by
  rw [queueLevels_eq]
  exact sameTakeover_enqueueAll ..

/-- The TOUCHes of the links held here, in ascending link number (log 23). -/
def State.announcements (s : State) : List Msg := ((List.finRange 32).filter s.holdsLink).map fun l => s.linkMsg l .touch

theorem announceLinks_eq : s.announceLinks = s.enqueueAll s.announcements :=
  enqueue_walk State.holdsLink (fun t l => t.linkMsg l .touch)
    (fun s m => by funext l; simp only [State.holdsLink, State.enqueue_tk, State.enqueue_sl_station])
    (fun s m => by funext l; simp only [State.linkMsg, State.enqueue_tk, State.enqueue_sl_station]) (List.finRange 32) s

theorem sameTakeover_endLinkOff : s.SameTakeover s.endLinkOff := by
  have hcounts : s.SameTakeover { s with sl.txErrors := 0, sl.rxErrors := 0, sl.recessive := 0 } := .of_blocks rfl rfl rfl rfl rfl
  unfold State.endLinkOff
  dsimp only
  rw [announceLinks_eq]
  exact ((hcounts.trans (sameTakeover_queuePresence _)).trans (sameTakeover_enqueueAll ..)).trans (sameTakeover_queueLevels _)

theorem sameTakeover_answerStatus : s.SameTakeover s.answerStatus := by
  have hparts := State.SameTakeover.of_watched
    (forEach_field State.tk (fun part t => t.enqueue (.statusReply part (s.statusPart part))) (fun _ t => State.enqueue_tk t _) s)
    (forEach_field State.watched (fun part t => t.enqueue (.statusReply part (s.statusPart part))) (fun _ t => watched_enqueue t _) s)
  unfold State.answerStatus
  exact hparts.trans (sameTakeover_unread _ _ _ _ _ _)

theorem sameTakeover_raiseTxErrors : s.SameTakeover s.raiseTxErrors := by
  refine .of_watched ?_ (watched_raiseTxErrors s)
  have hdrops : ∀ (n : Nat) (u : State), (State.countDrops n u).tk = u.tk := fun n => by
    induction n with
    | zero => exact fun _ => rfl
    | succ n ih => exact fun u => ih u.countDrop
  unfold State.raiseTxErrors
  split
  · exact hdrops ..
  · rfl

theorem sameTakeover_txError (kind : TxErrorKind) :
    s.SameTakeover
      (let left := s.sl.queue.filterMap TxEntry.fail
      let s1 := { s with sl.queue := left }
      let s2 := if left.length < s.sl.queue.length then s1.countDrop else s1
      if s.raisesErrors kind then s2.raiseTxErrors else s2) := by
  have hq : s.SameTakeover (if (s.sl.queue.filterMap TxEntry.fail).length < s.sl.queue.length then
      State.countDrop { s with sl.queue := s.sl.queue.filterMap TxEntry.fail }
      else { s with sl.queue := s.sl.queue.filterMap TxEntry.fail }) :=
    .ite (.of_blocks rfl rfl rfl rfl rfl) (.of_blocks rfl rfl rfl rfl rfl)
  exact .ite (hq.trans (sameTakeover_raiseTxErrors _)) hq

theorem sameTakeover_readReport (gin : BitVec 32) : s.SameTakeover (s.readReport gin) := by
  unfold State.readReport
  split
  · exact .refl s
  · exact .of_blocks rfl rfl rfl rfl rfl

theorem sameTakeover_endTransfer (t : Transfer) : s.SameTakeover (s.endTransfer t) := by
  cases t with
  | poll => exact .of_blocks rfl rfl rfl rfl rfl
  | level => exact .ite (.of_blocks rfl rfl rfl rfl rfl) (.of_blocks rfl rfl rfl rfl rfl)

theorem sameTakeover_readReference (raw : Nat) : s.SameTakeover (s.readReference raw) :=
  .ite (sameTakeover_pi s rfl rfl) (sameTakeover_pi s rfl rfl)

end

/-! ## Every command that TK has no part in -/

/-- The commands that may change what TK holds, or a touch or a fader level that it follows. -/
def movesTakeover : Instr → Bool
  | .powerOn .. | .resetLine .. | .restart .. | .go .. | .goto .. | .linkTouch .. | .linkState .. | .linkRelease .. | .presence ..
  | .panelLock .. | .configEnd .. | .frameCount | .followExpiry | .advance | .pendingStepStart .. | .glideTimer
  | .returnGlideEnd .. | .faderReading .. | .touchLineActive .. | .touchLineInactive .. | .quietTimerExpiry .. | .goKeyPress
  | .backKeyPress | .windowTimerExpiry | .limitTimerExpiry | .silenceTimerExpiry .. => true
  | _ => false

/-- What the invariant of TK reads stands through every other command. -/
theorem exec_sameTakeover (i : Instr) (s t : State) (h : exec i s = .next t) (hi : movesTakeover i = false) : s.SameTakeover t := by
  cases i with
  | powerOn | resetLine | restart | go | goto | linkTouch | linkState | linkRelease | presence | panelLock | configEnd | frameCount
  | followExpiry | advance | pendingStepStart | glideTimer | returnGlideEnd | faderReading | touchLineActive | touchLineInactive
  | quietTimerExpiry | goKeyPress | backKeyPress | windowTimerExpiry | limitTimerExpiry | silenceTimerExpiry => cases hi
  | hold p =>
    change execHold p s = .next t at h
    exact sameTakeover_take h (sameTakeover_receive s _ _ fun u => .ite (sameTakeover_plays u _ u.fe) (sameTakeover_plays u _ u.fe))
  | resume p =>
    change execResume p s = .next t at h
    exact sameTakeover_take h (sameTakeover_receive s _ _ fun u => .ite (sameTakeover_plays u _ u.fe) (sameTakeover_plays u _ u.fe))
  | malformedLink p l =>
    change execMalformedLink p l s = .next t at h
    exact sameTakeover_take h (sameTakeover_receive s _ _ sameTakeover_countIgnored)
  | muteGroup p g asserted =>
    change execMuteGroup p g asserted s = .next t at h
    exact sameTakeover_take h
      (sameTakeover_receive s _ _ fun u => .ite (sameTakeover_countIgnored u) (sameTakeover_unread u u.cs _ u.gc u.gp u.fi))
  | groupLevel p m level =>
    change execGroupLevel p m level s = .next t at h
    exact sameTakeover_take h
      (sameTakeover_receive s _ _ fun u => .ite (sameTakeover_unread u u.cs _ u.gc u.gp u.fi) (sameTakeover_countIgnored u))
  | statusRequest p target =>
    change execStatusRequest p target s = .next t at h
    exact sameTakeover_take h
      (sameTakeover_receiveAddressed s _ _ _ fun u => .ite (.refl u) (sameTakeover_answerStatus u))
  | statusReply p =>
    change execStatusReply p s = .next t at h
    exact sameTakeover_take h (sameTakeover_receive s _ _ .refl)
  | configBegin p target =>
    change execConfigBegin p target s = .next t at h
    exact sameTakeover_take h (sameTakeover_takeConfig s _ _ _ fun _ => .of_blocks rfl rfl rfl rfl rfl)
  | configItem p target code index value =>
    change execConfigItem p target code index value s = .next t at h
    exact sameTakeover_take h (sameTakeover_takeConfig s _ _ _ fun u => sameTakeover_takeItem u _ _ _)
  | stepLoad p target cue channel level fade delay curve mute =>
    change execStepLoad p target cue channel level fade delay curve mute s = .next t at h
    exact sameTakeover_take h (sameTakeover_receiveAddressed s _ _ _ fun u => sameTakeover_checkKey u _ _ _ fun c =>
      .ite (sameTakeover_unread u _ u.sg u.gc u.gp u.fi) (sameTakeover_refuseLoad u _))
  | stepDelete p target cue channel =>
    change execStepDelete p target cue channel s = .next t at h
    exact sameTakeover_take h (sameTakeover_receiveAddressed s _ _ _ fun u => sameTakeover_checkKey u _ _ _ fun c =>
      sameTakeover_unread u _ u.sg u.gc u.gp u.fi)
  | headerLoad p target cue present follow =>
    change execHeaderLoad p target cue present follow s = .next t at h
    exact sameTakeover_take h (sameTakeover_receiveAddressed s _ _ _ fun u => sameTakeover_checkCue u _ _
      (.ite (sameTakeover_unread u _ u.sg u.gc u.gp u.fi) (sameTakeover_refuseLoad u _)))
  | headerDelete p target cue =>
    change execHeaderDelete p target cue s = .next t at h
    exact sameTakeover_take h (sameTakeover_receiveAddressed s _ _ _ fun u => sameTakeover_checkCue u _ _
      (sameTakeover_unread u _ u.sg u.gc u.gp u.fi))
  | cueErase p target cue =>
    change execCueErase p target cue s = .next t at h
    exact sameTakeover_take h (sameTakeover_receiveAddressed s _ _ _ fun u => sameTakeover_checkCue u _ _
      (sameTakeover_unread u _ u.sg u.gc u.gp u.fi))
  | bankSet p target bank remoteGo localGo kind =>
    change execBankSet p target bank remoteGo localGo kind s = .next t at h
    refine sameTakeover_take h (sameTakeover_receiveAddressed s _ _ _ fun u => ?_)
    split
    · exact sameTakeover_refuseLoad u _
    · exact sameTakeover_unread u _ u.sg u.gc u.gp u.fi
  | tableClear p target =>
    change execTableClear p target s = .next t at h
    exact sameTakeover_take h (sameTakeover_receiveAddressed s _ _ _ fun u => sameTakeover_unread u _ u.sg u.gc u.gp u.fi)
  | ignoredFrame frame =>
    change execIgnoredFrame frame s = .next t at h
    refine sameTakeover_take h ?_
    cases frame with
    | senderZero | unknownKind | tooFewBytes => exact (sameTakeover_clash s _).trans (sameTakeover_countIgnored _)
    | extended | remote => exact .of_blocks rfl rfl rfl rfl rfl
  | receiveError =>
    change execReceiveError s = .next t at h
    exact sameTakeover_take h (.of_blocks rfl rfl rfl rfl rfl)
  | recoveryTimer =>
    change execRecoveryTimer s = .next t at h
    exact sameTakeover_take h (sameTakeover_unread s s.cs s.sg _ s.gp s.fi)
  | keyRelease key =>
    change execKeyRelease key s = .next t at h
    exact sameTakeover_take h (sameTakeover_pi s rfl rfl)
  | gainRefreshExpiry =>
    change execGainRefreshExpiry s = .next t at h
    exact sameTakeover_take h (sameTakeover_unread s s.cs s.sg s.gc _ s.fi)
  | indicatorTimerExpiry =>
    change execIndicatorTimerExpiry s = .next t at h
    exact sameTakeover_take h (sameTakeover_unread s s.cs s.sg s.gc s.gp _)
  | groupRefreshExpiry =>
    change execGroupRefreshExpiry s = .next t at h
    exact sameTakeover_take h (.trans (sameTakeover_unread s s.cs _ s.gc s.gp s.fi) (sameTakeover_queueLevels _))
  | presenceTimerExpiry =>
    change execPresenceTimerExpiry s = .next t at h
    have htimer : s.SameTakeover { s with sl.presenceTimer := .running Config.presenceMs } := .of_blocks rfl rfl rfl rfl rfl
    exact sameTakeover_take h (htimer.trans (sameTakeover_queuePresence _))
  | recessiveRun =>
    change execRecessiveRun s = .next t at h
    exact sameTakeover_takeWhen h (.ite (sameTakeover_endLinkOff s) (.of_blocks rfl rfl rfl rfl rfl))
  | linkOffEnd =>
    change execLinkOffEnd s = .next t at h
    exact sameTakeover_takeWhen h (sameTakeover_endLinkOff s)
  | frameOffer =>
    change execFrameOffer s = .next t at h
    exact sameTakeover_takeWhen h (.of_blocks rfl rfl rfl rfl rfl)
  | lostArbitration =>
    change execLostArbitration s = .next t at h
    exact sameTakeover_takeWhen h (.of_blocks rfl rfl rfl rfl rfl)
  | txError kind =>
    change execTxError kind s = .next t at h
    exact sameTakeover_takeWhen h (sameTakeover_txError s kind)
  | txSuccess =>
    change execTxSuccess s = .next t at h
    exact sameTakeover_takeWhen h (.of_blocks rfl rfl rfl rfl rfl)
  | recoveryGlideEnd c =>
    change execRecoveryGlideEnd c s = .next t at h
    exact sameTakeover_takeWhen h (sameTakeover_unread s s.cs s.sg _ s.gp s.fi)
  | fadeComplete c =>
    change execFadeComplete c s = .next t at h
    exact sameTakeover_takeWhen h (sameTakeover_plays s s.seq _)
  | calibrationReading reading =>
    change execCalibrationReading reading s = .next t at h
    have hscan : s.SameTakeover (s.scanOn 0) := sameTakeover_pi s rfl rfl
    exact sameTakeover_takeWhen h (hscan.trans (sameTakeover_readReference ..))
  | spareSlotReading slot =>
    change execSpareSlotReading slot s = .next t at h
    exact sameTakeover_takeWhen h (sameTakeover_pi s rfl rfl)
  | stopKeyPress =>
    change execStopKeyPress s = .next t at h
    exact sameTakeover_takeWhen h (sameTakeover_pressKey s _ _ sameTakeover_stopKeyRequest)
  | muteKeyPress c =>
    change execMuteKeyPress c s = .next t at h
    exact sameTakeover_takeWhen h (sameTakeover_pressKey s _ _ fun u => sameTakeover_pi u rfl rfl)
  | groupKeyPress k =>
    change execGroupKeyPress k s = .next t at h
    exact sameTakeover_takeWhen h (sameTakeover_pressKey s _ _ fun u => sameTakeover_toggleAssertion u k)
  | unlockTimerExpiry =>
    change execUnlockTimerExpiry s = .next t at h
    exact sameTakeover_takeWhen h (sameTakeover_pi s rfl rfl)
  | staleTimerExpiry m =>
    change execStaleTimerExpiry m s = .next t at h
    exact sameTakeover_takeWhen h (sameTakeover_unread s s.cs _ s.gc s.gp s.fi)
  | aloneTimerExpiry =>
    change execAloneTimerExpiry s = .next t at h
    exact sameTakeover_takeWhen h (.of_blocks rfl rfl rfl rfl rfl)
  | clashTimerExpiry =>
    change execClashTimerExpiry s = .next t at h
    exact sameTakeover_takeWhen h (.of_blocks rfl rfl rfl rfl rfl)
  | burstTimerExpiry =>
    change execBurstTimerExpiry s = .next t at h
    exact sameTakeover_takeWhen h (sameTakeover_unread s s.cs s.sg s.gc s.gp _)
  | levelTransfer =>
    change execLevelTransfer s = .next t at h
    unfold execLevelTransfer at h
    split at h
    · exact sameTakeover_take h (.of_blocks rfl rfl rfl rfl rfl)
    · cases h; exact .refl s
  | transferComplete gin =>
    change execTransferComplete gin s = .next t at h
    unfold execTransferComplete at h
    split at h
    · cases h; exact .refl s
    · cases h
      exact ((sameTakeover_readReport s gin).trans (sameTakeover_commit _ s)).trans (sameTakeover_endTransfer _ _)

/-! ## The relation -/

/-- An operation that keeps TK's invariant in a state whose configuration, panel, peer table and window are in order. -/
def State.KeepsTakeover (s t : State) : Prop := s.watched.Steady → s.TakeoverSound → t.TakeoverSound

namespace State.KeepsTakeover

variable {s t u : State}

theorem of_same (h : s.SameTakeover t) : s.KeepsTakeover t := fun _ hs => hs.same h

theorem of_sound (h : s.TakeoverSound → t.TakeoverSound) : s.KeepsTakeover t := fun _ => h

/-- An operation that leaves what TK's invariant reads, before one that keeps it. -/
theorem after_same (m : s.Steadies t) (h : s.SameTakeover t) (k : t.KeepsTakeover u) : s.KeepsTakeover u := fun hw hs =>
  k (m hw) (hs.same h)

theorem ite {c : Prop} [Decidable c] (ht : c → s.KeepsTakeover t) (hu : ¬c → s.KeepsTakeover u) :
    s.KeepsTakeover (if c then t else u) := by
  split
  · next h => exact ht h
  · next h => exact hu h

end State.KeepsTakeover

section
variable {s t : State} {work : State → State} {enabled : Bool}

theorem keepsTakeover_take (h : s.take work = .next t) (hw : s.KeepsTakeover (work s)) : s.KeepsTakeover t := by
  obtain rfl : (work s).commit s = t := Host.Outcome.next.inj h
  exact fun hs ht => (hw hs ht).same (sameTakeover_commit _ s)

theorem keepsTakeover_takeWhen (h : s.takeWhen enabled work = .next t) (hw : enabled = true → s.KeepsTakeover (work s)) :
    s.KeepsTakeover t := by
  cases enabled with
  | true => exact keepsTakeover_take h (hw rfl)
  | false =>
    obtain rfl : s = t := Host.Outcome.next.inj h
    exact fun _ hs => hs

end

section
variable (s : State)

theorem keepsTakeover_receive (p : Station) (body : State → State) (hb : ∀ t : State, t.KeepsTakeover (body t)) :
    s.KeepsTakeover (s.receive p body) :=
  .ite (fun _ => .of_same ((sameTakeover_clash s _).trans (sameTakeover_countIgnored _))) fun hp =>
    .after_same (steadies_heard s hp) (sameTakeover_heard s p) (hb _)

theorem keepsTakeover_receiveAddressed (p target : Station) (body : State → State)
    (hb : ∀ t : State, t.KeepsTakeover (body t)) : s.KeepsTakeover (s.receiveAddressed p target body) :=
  keepsTakeover_receive s p _ fun t => .ite (fun _ => hb t) fun _ => .of_same (.refl t)

theorem keepsTakeover_takeConfig (p target : Station) (body : State → State)
    (hb : ∀ t : State, t.sl.state = .joining → t.KeepsTakeover (body t)) : s.KeepsTakeover (s.takeConfig p target body) :=
  keepsTakeover_receiveAddressed s p target _ fun t =>
    .ite (hb t) fun _ => .of_same (.ite (.refl t) (sameTakeover_refuseLoad t _))

theorem keepsTakeover_pressKey (key : Fin 35) (body : State → State)
    (hb : ∀ t : State, t.TakeoverSound → (body t).TakeoverSound) : s.KeepsTakeover (s.pressKey key body) := by
  have hpressed : s.SameTakeover { s with pi.keyDown := s.pi.keyDown.set key true } := sameTakeover_pi s rfl rfl
  exact .ite (fun _ => .of_same hpressed) fun _ =>
    .ite (fun _ => .of_same (hpressed.trans (sameTakeover_matchKey _ key))) fun _ => .of_sound fun hs => hb _ (hs.same hpressed)

/-- A TOUCH or STATE, accepted or not (R116). -/
theorem keepsTakeover_acceptTouch (l : LinkNo) (stamp : Fin 16777216) (p : Option Station) (held : Bool) (x : Level) :
    s.KeepsTakeover
      (if ((s.countForeign l).tk.link.get l).acceptsTouch stamp.val p then (s.countForeign l).acceptTouch l stamp.val p held x
      else s.countForeign l) := .of_sound fun hs => by
  have hcounted := hs.same (sameTakeover_countForeign s l)
  split
  · next ha => exact hcounted.acceptTouch (Nat.le_of_lt_succ stamp.isLt) ((hcounted.link l).record.accepts_pos (.inl ha))
  · exact hcounted

/-- A RELEASE, accepted or not (R117). -/
theorem keepsTakeover_acceptRelease (l : LinkNo) (stamp : Fin 16777216) (p : Option Station) (x : Level) :
    s.KeepsTakeover
      (if ((s.countForeign l).tk.link.get l).acceptsRelease stamp.val p then (s.countForeign l).acceptRelease l stamp.val p x
      else s.countForeign l) := .of_sound fun hs => by
  have hcounted := hs.same (sameTakeover_countForeign s l)
  split
  · next ha => exact hcounted.acceptRelease (Nat.le_of_lt_succ stamp.isLt) ((hcounted.link l).record.accepts_pos (.inr ha))
  · exact hcounted

/-- A station whose silence timer runs is a peer, not this station (R151). -/
theorem keepsTakeover_losePeer {p : Station} (ht : (s.sl.peer.get p).silence ≠ .stopped) : s.KeepsTakeover (s.losePeer p) :=
  fun hw hs => hs.losePeer fun hp => by
    have hpresent : (s.sl.peer.get p).state = .present := (hw.peers.silence p).mpr ht
    have hunknown : (s.sl.peer.get p).state = .unknown := hw.peers.unused p (.inr hp)
    rw [hunknown] at hpresent
    cases hpresent

end

/-! ## Every command -/

/-- What any command keeps. -/
theorem exec_keepsTakeover (i : Instr) (s t : State) (h : exec i s = .next t) : s.KeepsTakeover t := by
  cases i with
  | powerOn a b | resetLine a b =>
    obtain rfl : coldReset a b s = t := Host.Outcome.next.inj h
    exact fun _ _ => State.TakeoverSound.afterReset _ _ _ _ _ defaultConfiguration_legal.returnTime
  | restart p target =>
    change execRestart p target s = .next t at h
    unfold execRestart at h
    split at h
    · cases h
      exact fun hw _ => State.TakeoverSound.afterReset _ _ _ _ _ hw.configs.inForce.returnTime
    · exact .of_same (sameTakeover_take h (sameTakeover_receiveAddressed s _ _ _ .refl))
  | go p n cause =>
    change execGo p n cause s = .next t at h
    exact keepsTakeover_take h (keepsTakeover_receive s _ _ fun u =>
      .ite (fun _ => .of_same (sameTakeover_countIgnored u)) fun _ => .ite (fun _ => .of_same (sameTakeover_plays u _ u.fe)) fun _ =>
        .ite (fun _ => .of_same (sameTakeover_countIgnored u)) fun _ => .of_sound fun hs => hs.runGo ..)
  | goto p n fade reason =>
    change execGoto p n fade reason s = .next t at h
    exact keepsTakeover_take h (keepsTakeover_receive s _ _ fun u =>
      .ite (fun _ => .of_same (sameTakeover_countIgnored u)) fun _ => .ite (fun _ => .of_same (sameTakeover_plays u _ u.fe)) fun _ =>
        .ite (fun _ => .of_same (sameTakeover_countIgnored u)) fun _ => .of_sound fun hs => hs.takeGoto ..)
  | linkTouch p l stamp toucher held level =>
    change execLinkTouch p l stamp toucher held level s = .next t at h
    exact keepsTakeover_take h (keepsTakeover_receive s _ _ fun u =>
      .ite (fun _ => .of_same (sameTakeover_countIgnored u)) fun _ => keepsTakeover_acceptTouch u _ _ _ _ _)
  | linkState p l stamp toucher held level =>
    change execLinkState p l stamp toucher held level s = .next t at h
    exact keepsTakeover_take h (keepsTakeover_receive s _ _ fun u => keepsTakeover_acceptTouch u _ _ _ _ _)
  | linkRelease p l stamp toucher held level =>
    change execLinkRelease p l stamp toucher held level s = .next t at h
    exact keepsTakeover_take h (keepsTakeover_receive s _ _ fun u =>
      .ite (fun _ => .of_same (sameTakeover_countIgnored u)) fun _ => keepsTakeover_acceptRelease u _ _ _ _)
  | presence p joining held cue mask summary =>
    change execPresence p joining held cue mask summary s = .next t at h
    exact keepsTakeover_take h (keepsTakeover_receive s _ _ fun u =>
      .ite (fun _ => .of_same (sameTakeover_countIgnored u)) fun hp => .of_sound fun hs => hs.takePresence hp ..)
  | panelLock p target lock =>
    change execPanelLock p target lock s = .next t at h
    refine keepsTakeover_take h (keepsTakeover_receiveAddressed s _ _ _ fun u => .of_sound fun hs => ?_)
    have hu : State.TakeoverSound { u with pi.lockTaken := true } := hs.same (sameTakeover_pi u rfl rfl)
    dsimp only
    split
    · exact hu.lockPanel
    · split
      · exact hu.same (sameTakeover_unlockPanel _)
      · exact hu
  | configEnd p target =>
    change execConfigEnd p target s = .next t at h
    exact keepsTakeover_take h (keepsTakeover_takeConfig s _ _ _ fun u hj hw hs => (hs.closeAssembly hw hj).endJoining)
  | frameCount =>
    change execFrameCount s = .next t at h
    have hcount : ∀ q timer, s.SameTakeover { s with seq := q, fe.frameTimer := timer } := fun q _ => sameTakeover_plays s q _
    exact keepsTakeover_take h
      (.ite (fun _ => .of_same (hcount _ _)) fun _ => .of_sound fun hs => (hs.same (hcount _ _)).runFollow)
  | followExpiry =>
    change execFollowExpiry s = .next t at h
    exact keepsTakeover_takeWhen h fun _ => .of_sound State.TakeoverSound.runFollow
  | advance =>
    change execAdvance s = .next t at h
    exact keepsTakeover_take h (.ite (fun _ => .of_same (.refl s)) fun _ => .of_sound State.TakeoverSound.advanceFades)
  | pendingStepStart c =>
    change execPendingStepStart c s = .next t at h
    exact keepsTakeover_takeWhen h fun _ => .of_sound fun hs =>
      State.TakeoverSound.startSteps (hs.same (sameTakeover_plays s s.seq _)) _
  | glideTimer =>
    change execGlideTimer s = .next t at h
    exact keepsTakeover_take h (.of_sound fun hs => hs.glideTimer _)
  | returnGlideEnd c =>
    change execReturnGlideEnd c s = .next t at h
    exact keepsTakeover_takeWhen h fun _ => .of_sound fun hs => hs.returnGlideEnd c
  | faderReading slot reading =>
    change execFaderReading slot reading s = .next t at h
    have hscan : s.SameTakeover (s.scanOn (slot.val + 1)) := sameTakeover_pi s rfl rfl
    exact keepsTakeover_takeWhen h fun _ => .of_sound fun hs => (hs.same hscan).readFader ..
  | touchLineActive c =>
    change execTouchLineActive c s = .next t at h
    have hline : s.SameTakeover (s.modifyTouch c fun t => { t with lineActive := true }) :=
      sameTakeover_modifyTouch s c fun _ => rfl
    refine keepsTakeover_takeWhen h fun _ => .ite (fun hc => .of_sound fun hs => (hs.same hline).beginTouch ?_) fun _ =>
      .of_same hline
    rw [hline.touched]
    simp only [Bool.and_eq_true, Bool.not_eq_true'] at hc
    exact hc.2
  | touchLineInactive c =>
    change execTouchLineInactive c s = .next t at h
    have hline : s.SameTakeover (s.modifyTouch c fun t => { t with lineActive := false, rearm := false }) :=
      sameTakeover_modifyTouch s c fun _ => rfl
    exact keepsTakeover_takeWhen h fun _ => .ite (fun _ => .of_sound fun hs => (hs.same hline).endTouch c) fun _ =>
      .of_same hline
  | quietTimerExpiry c =>
    change execQuietTimerExpiry c s = .next t at h
    have hquiet : s.SameTakeover (s.modifyTouch c fun t => { t with quiet := .stopped }) :=
      sameTakeover_modifyTouch s c fun _ => rfl
    exact keepsTakeover_takeWhen h fun _ => .of_sound fun hs => (hs.same hquiet).endTouch c
  | goKeyPress =>
    change execGoKeyPress s = .next t at h
    exact keepsTakeover_takeWhen h fun _ => keepsTakeover_pressKey s _ _ fun _ hs => hs.goKeyRequest
  | backKeyPress =>
    change execBackKeyPress s = .next t at h
    exact keepsTakeover_takeWhen h fun _ => keepsTakeover_pressKey s _ _ fun _ hs => hs.backKeyRequest
  | windowTimerExpiry =>
    change execWindowTimerExpiry s = .next t at h
    exact keepsTakeover_takeWhen h fun _ => .of_sound State.TakeoverSound.endJoining
  | limitTimerExpiry =>
    change execLimitTimerExpiry s = .next t at h
    have hreject : s.SameTakeover { s.setFlag .configRejected with sl.assembly := none } := .of_blocks rfl rfl rfl rfl rfl
    exact keepsTakeover_takeWhen h fun _ => .of_sound fun hs => (hs.same hreject).endJoining
  | silenceTimerExpiry p =>
    change execSilenceTimerExpiry p s = .next t at h
    exact keepsTakeover_takeWhen h fun ht => keepsTakeover_losePeer s (by simpa using ht)
  | _ => exact .of_same (exec_sameTakeover _ s t h rfl)

/-- Settles O58: every command keeps the invariant of TK by channel and by link, in a state that the panel's, the peer table's and the
window's invariants hold of. -/
theorem linksAndTakeoverKept : Obligations.LinksAndTakeoverKept := by
  intro s t hconfig hpanel hpeers hwindow hlinks htakeover h
  have hw : s.watched.Steady := (watched_steady_iff s).mpr ⟨hconfig, hpanel, hpeers, hwindow⟩
  have hs : s.TakeoverSound := (takeoverSound_iff s).mpr ⟨hconfig.inForce.returnTime, hlinks, htakeover⟩
  have ht : t.TakeoverSound := by
    unfold step at h
    split at h
    · obtain rfl : s = t := Host.Outcome.next.inj h
      exact hs
    · next i rest _ =>
      exact exec_keepsTakeover i { s with pending := rest } t h hw (hs.same (.of_blocks rfl rfl rfl rfl rfl))
  exact ((takeoverSound_iff t).mp ht).2

end Sys2Proof.Machine

/-! SUPPORT. The touch line that becomes active and the return glides (R105, R110, R113, R114, R118); it settles O27 and O29. -/

namespace Sys2Proof.Machine

/-! ## The touch line (R90, R105) -/

/-- Two changes of one touch record, one after the other. -/
theorem modifyTouch_modifyTouch (s : State) (c : Channel) (f g : TouchState → TouchState) :
    (s.modifyTouch c f).modifyTouch c g = { s with pi.touch := s.pi.touch.set c (g (f (s.pi.touch.get c))) } := by
  refine congrArg (fun touch => ({ s with pi.touch := touch } : State)) (Table.ext fun d => ?_)
  have hfirst : (s.modifyTouch c f).pi.touch.get d = if c = d then f (s.pi.touch.get d) else s.pi.touch.get d :=
    Table.get_modify ..
  rw [Table.get_modify, hfirst, Table.get_set]
  by_cases e : c = d
  · subst e; simp only [if_true]
  · simp only [if_neg e]

theorem beginTouch_eq (s : State) (c : Channel) (f : TouchState → TouchState) :
    (s.modifyTouch c f).beginTouch c =
      State.touchBegin { s with pi.touch := s.pi.touch.set c { f (s.pi.touch.get c) with touched := true } } c :=
  congrArg (fun t => State.touchBegin t c) (modifyTouch_modifyTouch s c f fun t => { t with touched := true })

/-- Whether the rise of the touch line of a channel begins a touch. -/
theorem lineTouch_iff (s : State) (c : Channel) :
    (s.source c == .line && s.acceptsInput && !(s.pi.slot.get (channelSlot c)).faulted && !(s.pi.touch.get c).touched) = true ↔
      s.source c = .line ∧ s.sl.state = .running ∧ s.pi.locked = false ∧ (s.pi.slot.get (channelSlot c)).faulted = false ∧
        (s.pi.touch.get c).touched = false := by
  simp [State.acceptsInput, and_assoc]

/-- The rise of an inactive touch line (R90). -/
theorem execTouchLineActive_inactive {s : State} {c : Channel} (h : (s.pi.touch.get c).lineActive = false) :
    execTouchLineActive c s =
      .next (State.commit
        (if s.source c == .line && s.acceptsInput && !(s.pi.slot.get (channelSlot c)).faulted && !(s.pi.touch.get c).touched then
          (s.modifyTouch c fun t => { t with lineActive := true }).beginTouch c
        else s.modifyTouch c fun t => { t with lineActive := true }) s) :=
  State.takeWhen_enabled (by simp [h]) _

/-- Settles O27: the line is recorded active, and the touch begins on that record where the panel, the fader and the channel allow. -/
theorem touchLineBeginsATouch : Obligations.TouchLineBeginsATouch := by
  intro c s t0 counts withTouch
  refine ⟨fun ha => State.takeWhen_idle (by simpa using ha) _, fun ha hnot => ?_, fun ha hcounts => ?_⟩
  · refine (execTouchLineActive_inactive ha).trans ?_
    rw [if_neg fun k => hnot ((lineTouch_iff s c).mp k)]
    rfl
  · refine ⟨_, State.touchBegins_touchBegin _ c, (execTouchLineActive_inactive ha).trans ?_⟩
    rw [if_pos ((lineTouch_iff s c).mpr hcounts), beginTouch_eq]

/-! ## Return glides (R110) -/

namespace TakeoverChannel

variable {ch : TakeoverChannel} {g : Glide}

theorem endGlide_due (h : ch.glide = some g) (hd : g.duration ≤ g.elapsed) :
    ch.endGlide = { ch with state := .cue, glide := none } := by simp only [endGlide, h, if_pos hd]

theorem endGlide_running (h : ch.glide = some g) (hr : g.elapsed < g.duration) : ch.endGlide = ch := by
  simp only [endGlide, h, if_neg (Nat.not_le.mpr hr)]

theorem advanceGlide_still (h : ch.glide = none) : ch.advanceGlide = ch := by simp only [advanceGlide, h]

theorem advanceGlide_running (h : ch.glide = some g) (hr : g.elapsed + 1 < g.duration) :
    ch.advanceGlide = { ch with glide := some { g with elapsed := g.elapsed + 1 } } := by
  simp only [advanceGlide, h]
  exact endGlide_running rfl hr

theorem advanceGlide_due (h : ch.glide = some g) (hd : g.duration ≤ g.elapsed + 1) :
    ch.advanceGlide = { ch with state := .cue, glide := none } := by
  simp only [advanceGlide, h]
  exact endGlide_due rfl hd

end TakeoverChannel

theorem execReturnGlideEnd_gliding {s : State} {c : Channel} {g : Glide} (h : (s.tk.chan.get c).glide = some g) :
    execReturnGlideEnd c s =
      s.takeWhen (decide (g.duration ≤ g.elapsed)) fun s => s.modifyTk c TakeoverChannel.endGlide := by
  unfold execReturnGlideEnd
  rw [h]

/-- Settles O29, from what a glide timer expiry and an end do to one record. -/
theorem returnGlides : Obligations.ReturnGlides := by
  refine fun s => ⟨⟨_, rfl, fun c => ⟨fun hg => ?_, fun g hg => ⟨fun hr => ?_, fun hd => ?_⟩⟩⟩,
    fun c g hg => ⟨fun hd => ?_, fun hr => ?_⟩⟩
  · rw [Table.get_mapAt, TakeoverChannel.advanceGlide_still hg]
  · rw [Table.get_mapAt, TakeoverChannel.advanceGlide_running hg hr]
  · rw [Table.get_mapAt, TakeoverChannel.advanceGlide_due hg hd]
  · refine ⟨s.tk.chan.modify c TakeoverChannel.endGlide, ?_, fun d => ?_⟩
    · exact (execReturnGlideEnd_gliding hg).trans (State.takeWhen_enabled (by simpa using hd) _)
    · rw [Table.get_modify]
      by_cases e : c = d
      · subst e
        rw [if_pos rfl, if_pos rfl, TakeoverChannel.endGlide_due hg hd]
      · rw [if_neg e, if_neg (Ne.symm e)]
  · exact (execReturnGlideEnd_gliding hg).trans (State.takeWhen_idle (by simpa using hr) _)

end Sys2Proof.Machine

/-! SUPPORT. An accepted RELEASE, and the LINK messages that are malformed or not accepted (R116 to R119); it settles O31. -/

namespace Sys2Proof.Machine

/-! ## An accepted RELEASE (R117, R118) -/

/-- A RELEASE is accepted on a greater stamp, or on an equal one by the last toucher (R117). -/
theorem acceptsRelease_iff (r : LinkRecord) (stamp : Nat) {p : Station} (hp : p ≠ 0) :
    r.acceptsRelease stamp (toucherOf p) = true ↔ r.stamp < stamp ∨ (stamp = r.stamp ∧ r.lastToucher = some p) := by
  simp [LinkRecord.acceptsRelease, toucherOf, hp]

/-- A release as R118 gives it, written out by mode. -/
theorem releaseAt_eq (ch : TakeoverChannel) (x : Level) {mode : Mode} (hm : mode ≠ .safe) (returnTime : Nat) :
    ch.releaseAt x mode returnTime =
      if mode = .latch then ⟨.latched, x, none, ch.mark⟩
      else if returnTime = 0 then ⟨.cue, x, none, ch.mark⟩
      else ⟨.returning, x, some ⟨x, 0, returnTime⟩, ch.mark⟩ := by
  cases mode with
  | auto => rw [if_neg nofun, TakeoverChannel.releaseAt, TakeoverChannel.release_eq]; rfl
  | latch => rfl
  | safe => exact absurd rfl hm

/-- A channel's record after an accepted RELEASE: a TOUCHED member that follows a held link is released (R118). -/
theorem acceptRelease_channel (s : State) (l : LinkNo) (stamp : Nat) (p : Option Station) (x : Level) (c : Channel) :
    (s.acceptRelease l stamp p x).tk.chan.get c =
      if s.linkOf c = some l ∧ s.mode c ≠ .safe ∧ (s.tk.link.get l).held = true ∧ (s.tk.chan.get c).state = .touched then
        (s.lostMark l c).releaseAt x (s.mode c) s.config.returnTime
      else s.lostMark l c := by
  have hnamed : s.namedHolder p false = none := by cases p <;> simp [State.namedHolder]
  rw [acceptRelease_eq_acceptTouch, acceptTouch_channel]
  simp only [hnamed, Option.isSome_none, Bool.false_eq_true, if_false, Bool.and_eq_true, beq_iff_eq, State.follows_iff]
  by_cases hh : (s.tk.link.get l).held = true
  · simp only [hh, if_true, true_and, and_assoc]
  · simp only [hh, if_false, false_and, and_false, Bool.false_eq_true]

theorem acceptRelease_link (s : State) (l : LinkNo) (stamp : Nat) (p : Option Station) (x : Level) (k : LinkNo) :
    (s.acceptRelease l stamp p x).tk.link.get k =
      if l = k then ⟨stamp, none, x, false, p, if s.holdsLink l then [] else (s.tk.link.get l).touching⟩
      else s.tk.link.get k := by
  have hnamed : s.namedHolder p false = none := by cases p <;> simp [State.namedHolder]
  rw [acceptRelease_eq_acceptTouch, acceptTouch_link, State.touchedRecord, hnamed]
  rfl

theorem acceptRelease_only_tk (s : State) (l : LinkNo) (stamp : Nat) (p : Option Station) (x : Level) :
    s.acceptRelease l stamp p x = { s with tk := (s.acceptRelease l stamp p x).tk } := by
  rw [acceptRelease_eq_acceptTouch]
  exact acceptTouch_only_tk ..

theorem exec_releaseAccepted {s : State} {p : Station} {l : LinkNo} {stamp : Fin 16777216} (held : Bool) (level : BitVec 11)
    (hp : p ≠ 0) (ha : (s.tk.link.get l).acceptsRelease stamp.val (toucherOf p) = true) :
    exec (.linkRelease p l stamp p held level) s =
      .next (((s.linkHeard p l).acceptRelease l stamp.val (toucherOf p) (messageLevel level)).commit s) := by
  change execLinkRelease p l stamp p held level s = _
  rw [execLinkRelease, State.take_eq, State.receive_from hp, if_neg (not_not.mpr rfl)]
  have hrecord : ((s.heard p).countForeign l).tk.link.get l = s.tk.link.get l := by rw [← State.linkHeard, linkHeard_tk]
  dsimp only
  rw [hrecord, if_pos ha]
  rfl

/-- What the sender heard and the counting of a foreign link leave beside the links and their members, over an accepted RELEASE. -/
theorem releaseAccepted_blocks (s : State) (p : Station) (l : LinkNo) (stamp : Nat) (last : Option Station) (x : Level) :
    let t := (s.linkHeard p l).acceptRelease l stamp last x
    t.cs = s.cs ∧ t.seq = s.seq ∧ t.fe = s.fe ∧ t.pi = s.pi ∧ t.sg = s.sg ∧ t.sl = (s.heard p).sl ∧
      t.fi.counters = (s.linkHeard p l).fi.counters := by
  dsimp only
  rw [acceptRelease_only_tk, linkHeard_counters_only]
  exact ⟨s.heard_cs p, s.heard_seq p, s.heard_fe p, s.heard_pi p, s.heard_sg p, rfl, rfl⟩

/-! ## LINK messages that are malformed or not accepted (R116, R117) -/

/-- A LINK is counted where the link has no member here (R116). -/
theorem linkHeard_eq (s : State) (p : Station) (l : LinkNo) :
    s.linkHeard p l = if ∃ c, s.linkOf c = some l then s.heard p else (s.heard p).countIgnored := by
  have hmember : (s.heard p).hasMember l = true ↔ ∃ c, s.linkOf c = some l := by
    rw [hasMember_iff]
    simp only [State.linkOf, State.heard_config]
  unfold State.linkHeard State.countForeign
  by_cases h : ∃ c, s.linkOf c = some l
  · rw [if_pos h, if_pos (hmember.mpr h)]
  · rw [if_neg h, if_neg (hmember.not.mpr h)]

/-- A TOUCH or STATE of a lesser stamp, or of an equal one by no toucher or one above the last, is not accepted (R116; log 9). -/
theorem acceptsTouch_refused {r : LinkRecord} {stamp : Nat} {toucher : Station}
    (h : stamp < r.stamp ∨ (stamp = r.stamp ∧ (toucher = 0 ∨ ∀ q, r.lastToucher = some q → q.val < toucher.val))) :
    r.acceptsTouch stamp (toucherOf toucher) = false := by
  rcases h with h | ⟨rfl, h⟩
  · simp [LinkRecord.acceptsTouch, Nat.le_of_lt h, Nat.ne_of_lt h]
  · unfold LinkRecord.acceptsTouch toucherOf
    by_cases hz : toucher = 0
    · simp [hz]
    · cases hlast : r.lastToucher with
      | none => simp
      | some q => simpa [hz] using (h.resolve_left hz) q hlast

/-- Settles O31: the record and the members of an accepted RELEASE, and what is counted of a LINK that changes nothing. -/
theorem linkReleaseAcceptedAndLinkRefused : Obligations.LinkReleaseAcceptedAndLinkRefused := by
  refine ⟨fun p l stamp held level s hp => ?accepted, fun p l stamp toucher held level s hp => ?refused⟩
  case accepted =>
    intro r x lost haccept
    have hlast : toucherOf p = some p := if_neg hp
    have hexec := exec_releaseAccepted held level hp ((acceptsRelease_iff r stamp.val hp).mpr haccept)
    have hx : messageLevel level = x := rfl
    rw [hx, hlast] at hexec
    obtain ⟨hcs, hseq, hfe, hpi, hsg, hsl, hcounters⟩ := releaseAccepted_blocks s p l stamp.val (some p) x
    refine ⟨_, hexec, ?_, ?_, ?_, ?_, ?_, ?_, ?_, fun k hk => ?_, ?_, fun c => ?_⟩
    · rw [State.commit_cs, hcs]
    · rw [State.commit_seq, hseq]
    · rw [State.commit_fe, hfe]
    · rw [State.commit_pi, hpi]
    · rw [State.commit_sg, hsg]
    · rw [State.commit_sl, hsl]
    · rw [State.commit_fi_counters, hcounters]; exact linkHeard_remoteIgnored s p l
    · rw [State.commit_tk, acceptRelease_link, if_neg hk.symm, linkHeard_tk]
    · rw [State.commit_tk, acceptRelease_link, if_pos rfl, linkHeard_tk]
      simp only [linkHeard_holdsLink]
      rfl
    · intro tk mark
      rw [State.commit_tk, acceptRelease_channel, linkHeard_lostMark, linkHeard_tk]
      have hlinkOf : (s.linkHeard p l).linkOf c = s.linkOf c := by simp only [State.linkOf, linkHeard_config]
      have hmode : (s.linkHeard p l).mode c = s.mode c := by simp only [State.mode, linkHeard_config]
      rw [hlinkOf, hmode, linkHeard_config]
      refine ite_congr rfl (fun k => ?_) fun _ => rfl
      exact releaseAt_eq _ x k.2.1 _
  case refused =>
    intro r counted passed
    have hcounted : counted = (s.heard p).countIgnored := (heard_countIgnored s p).symm
    have hpassed : passed = (s.heard p).countForeign l := by
      rw [← State.linkHeard, linkHeard_eq, ← hcounted]
    have hrecord : ((s.heard p).countForeign l).tk.link.get l = r := by rw [← State.linkHeard, linkHeard_tk]
    refine ⟨?_, fun hne => ⟨?_, ?_⟩, fun hold => ⟨?_, fun heq => ?_⟩, fun hold => ?_⟩
    · change execMalformedLink p l s = _
      rw [execMalformedLink, State.take_eq, State.receive_from hp, hcounted]
    · change execLinkTouch p l stamp toucher held level s = _
      rw [execLinkTouch, State.take_eq, State.receive_from hp, if_pos hne, hcounted]
    · change execLinkRelease p l stamp toucher held level s = _
      rw [execLinkRelease, State.take_eq, State.receive_from hp, if_pos hne, hcounted]
    · have hno := acceptsTouch_refused hold
      change execLinkState p l stamp toucher held level s = _
      rw [execLinkState, State.take_eq, State.receive_from hp, hpassed]
      dsimp only
      rw [hrecord, hno, if_neg nofun]
    · have hno := acceptsTouch_refused hold
      change execLinkTouch p l stamp toucher held level s = _
      rw [execLinkTouch, State.take_eq, State.receive_from hp, if_neg (not_not.mpr heq), hpassed]
      dsimp only
      rw [hrecord, hno, if_neg nofun]
    · have hno : ¬r.acceptsRelease stamp.val (toucherOf p) = true := by
        rw [acceptsRelease_iff r stamp.val hp]
        rintro (k | ⟨k, hk⟩)
        · rcases hold with h | ⟨h, -⟩ <;> omega
        · rcases hold with h | ⟨-, h⟩
          · omega
          · exact h hk
      change execLinkRelease p l stamp p held level s = _
      rw [execLinkRelease, State.take_eq, State.receive_from hp, if_neg (not_not.mpr rfl), hpassed]
      dsimp only
      rw [hrecord, if_neg hno]

end Sys2Proof.Machine

/-! SUPPORT. The presence, alone and silence timers (R120, R135, R150, R151, R152); it settles O45. -/

namespace Sys2Proof.Machine

/-- The entry of a peer that has gone silent. -/
def State.withoutPeer (s : State) (p : Station) : State :=
  { s with sl.peer := s.sl.peer.modify p fun e => { e with state := .absent, silence := .stopped } }

theorem withoutPeer_peer (s : State) (p q : Station) :
    (s.withoutPeer p).sl.peer.get q =
      if q = p then { s.sl.peer.get p with state := .absent, silence := .stopped } else s.sl.peer.get q := by
  rw [State.withoutPeer, Table.get_modify]
  by_cases h : p = q
  · subst h; rw [if_pos rfl]
  · rw [if_neg h, if_neg (Ne.symm h)]

/-- No peer is PRESENT (R150). -/
theorem presentCount_eq_zero_iff (s : State) :
    s.presentCount = 0 ↔ ∀ q, q ≠ 0 → q ≠ s.sl.station → (s.sl.peer.get q).state ≠ .present := by
  unfold State.presentCount countIndex
  rw [List.countP_eq_zero]
  simp only [List.mem_finRange, true_imp_iff, present_iff, not_and, ne_eq]

/-- A peer's silence, its alone timer written as a field. -/
theorem losePeer_eq (s : State) (p : Station) :
    s.losePeer p =
      State.releaseHeldBy
        { s.withoutPeer p with
          sl.aloneTimer :=
            if (s.sl.peer.get p).state = .present ∧
                ∀ q, q ≠ 0 → q ≠ s.sl.station → ((s.withoutPeer p).sl.peer.get q).state ≠ .present then .running 1000
            else s.sl.aloneTimer } p := by
  have hnone : (s.withoutPeer p).presentCount = 0 ↔
      ∀ q, q ≠ 0 → q ≠ s.sl.station → ((s.withoutPeer p).sl.peer.get q).state ≠ .present := presentCount_eq_zero_iff _
  have hlost : s.losePeer p = State.releaseHeldBy (if (s.sl.peer.get p).state = .present ∧ (s.withoutPeer p).presentCount = 0 then
      { s.withoutPeer p with sl.aloneTimer := .running Config.aloneMs } else s.withoutPeer p) p := rfl
  rw [hlost]
  refine congrArg (fun t => State.releaseHeldBy t p) ?_
  by_cases h : (s.sl.peer.get p).state = .present ∧ (s.withoutPeer p).presentCount = 0
  · rw [if_pos h, if_pos (h.imp_right hnone.mp)]
    rfl
  · rw [if_neg h, if_neg fun k => h (k.imp_right hnone.mpr)]
    rfl

/-- Settles O45, from the state in which the links of a lost peer are released. -/
theorem linkTimersExpire : Obligations.LinkTimersExpire := by
  refine fun s => ⟨rfl, fun h => State.takeWhen_enabled (by simpa using h) _, fun h => State.takeWhen_idle (by simp [h]) _,
    fun p => ⟨fun h => State.takeWhen_idle (by simp [h]) _, fun h => ?_⟩⟩
  refine ⟨_, State.takeWhen_enabled (by simpa using h) _, ?_⟩
  rw [losePeer_eq]
  generalize hu : ({ s.withoutPeer p with
    sl.aloneTimer := (if (s.sl.peer.get p).state = .present ∧
      ∀ q, q ≠ 0 → q ≠ s.sl.station → ((s.withoutPeer p).sl.peer.get q).state ≠ .present then .running 1000
      else s.sl.aloneTimer) } : State) = u
  have hl := u.levelsOnly_releaseHeldBy p
  have hsl := (State.commit_sl (u.releaseHeldBy p) s).trans (releaseHeldBy_sl u p)
  have hpeer : ∀ q, u.sl.peer.get q =
      if q = p then { s.sl.peer.get p with state := .absent, silence := .stopped } else s.sl.peer.get q := by
    subst hu; exact withoutPeer_peer s p
  have htk : u.tk = s.tk := by subst hu; rfl
  have hconfig : u.config = s.config := by subst hu; rfl
  refine ⟨?_, ?_, ?_, ?_, ?_, ?_, fun q => ?_, fun l => ?_, fun c => ?_⟩
  · rw [State.commit_cs, hl.cs]; subst hu; rfl
  · rw [State.commit_seq, hl.seq]; subst hu; rfl
  · rw [State.commit_fe, releaseHeldBy_fe]; subst hu; rfl
  · rw [State.commit_pi, hl.pi]; subst hu; rfl
  · rw [State.commit_sg, hl.sg]; subst hu; rfl
  · rw [hsl]; subst hu; rfl
  · rw [hsl]; exact hpeer q
  · rw [State.commit_tk, releaseHeldBy_link, htk]; rfl
  · have hlinkOf : u.linkOf c = s.linkOf c := by simp only [State.linkOf, hconfig]
    have hmode : u.mode c = s.mode c := by simp only [State.mode, hconfig]
    have hchan := releaseHeldBy_channel u p c
    rw [hlinkOf, hmode, hconfig, htk] at hchan
    rw [State.commit_tk]
    exact hchan

end Sys2Proof.Machine

/-! SUPPORT. The errors of the CAN controller, bus-off, and the end of LINK_OFF with its re-announcement (R113, R126, R148, R149); it
settles O44. -/

namespace Sys2Proof.Machine

/-! ## Drops (R148, R176) -/

/-- A counter raised `n` times stops at 63 and never falls. -/
theorem bump_iterate (d n : Nat) : bump^[n] d = max d (min 63 (d + n)) := by
  induction n generalizing d with
  | zero => simp
  | succ n ih =>
    rw [Function.iterate_succ_apply, ih]
    unfold bump Config.counterTop
    split <;> omega

theorem countDrops_eq (n : Nat) (s : State) :
    State.countDrops n s = { s with fi.counters.txDrops := bump^[n] s.fi.counters.txDrops } := by
  induction n generalizing s with
  | zero => rfl
  | succ n ih =>
    rw [State.countDrops, ih, Function.iterate_succ_apply]
    rfl

/-! ## The errors of an entry on the line (R145, R148) -/

theorem fail_idle {e : TxEntry} (h : e.sending.isSome = false) : e.fail = some e := by
  unfold TxEntry.fail
  rw [h, if_neg nofun]

/-- At most one frame is on the line, so that an error takes at most one entry from the queue. -/
theorem filterMap_fail_length {q : List TxEntry} (h : (q.countP fun e => e.sending.isSome) ≤ 1) :
    (q.filterMap TxEntry.fail).length = q.length ∨ (q.filterMap TxEntry.fail).length + 1 = q.length := by
  induction q with
  | nil => exact .inl rfl
  | cons e q ih =>
    cases hs : e.sending.isSome with
    | false =>
      rw [List.countP_cons_of_neg (by rw [hs]; decide)] at h
      rw [List.filterMap_cons_some (fail_idle hs), List.length_cons, List.length_cons]
      have := ih h
      omega
    | true =>
      rw [List.countP_cons_of_pos (by exact hs)] at h
      have hidle : ∀ x ∈ q, x.fail = some x := fun x hx => fail_idle (by
        have hnone : (q.countP fun e => e.sending.isSome) = 0 := by omega
        simpa using List.countP_eq_zero.mp hnone x hx)
      have hrest : q.filterMap TxEntry.fail = q := by
        rw [List.filterMap_congr hidle, List.filterMap_some]
      cases hf : e.fail with
      | none => rw [List.filterMap_cons_none hf, hrest]; exact .inr rfl
      | some x => rw [List.filterMap_cons_some hf, hrest]; exact .inl rfl

/-- A state whose controller has gone bus-off, with `n` entries counted as drops. -/
def State.linkLost (s : State) (n : Nat) : State :=
  { s with
    sl.txErrors := 256, sl.recessive := 0, sl.queue := []
    fi.counters.txDrops := bump^[n] s.fi.counters.txDrops }

theorem raiseTxErrors_busOff {s : State} (h : 247 < s.sl.txErrors) : s.raiseTxErrors = s.linkLost s.sl.queue.length := by
  rw [State.raiseTxErrors, if_pos (by omega), State.enterLinkOff, countDrops_eq]
  rfl

/-- An error that makes the controller bus-off: every entry leaves the queue and is counted, one that the error itself takes
included. -/
theorem execTxError_busOff {s : State} (kind : TxErrorKind) (hone : (s.sl.queue.countP fun e => e.sending.isSome) ≤ 1)
    (hline : s.transmitting = true) (herrors : 247 < s.sl.txErrors) (hraises : s.raisesErrors kind = true) :
    execTxError kind s = .next ((s.linkLost s.sl.queue.length).commit s) := by
  refine (State.takeWhen_enabled hline _).trans (next_commit_congr ?_ s)
  dsimp only
  rw [if_pos hraises]
  rcases filterMap_fail_length hone with hall | hless
  · rw [if_neg (by omega), ← hall]
    exact raiseTxErrors_busOff herrors
  · rw [if_pos (by omega), ← hless]
    exact raiseTxErrors_busOff herrors

/-! ## Messages that join before a later one (R145) -/

theorem placeEntry_between {e : TxEntry} {a b : List TxEntry} (ha : ∀ x ∈ a, x.msg.kind ≤ e.msg.kind)
    (hb : ∀ x ∈ b, e.msg.kind < x.msg.kind) : placeEntry e (a ++ b) = a ++ e :: b := by
  induction a with
  | nil =>
    cases b with
    | nil => rfl
    | cons y b => exact if_pos (hb y List.mem_cons_self)
  | cons y a ih =>
    have hy := ha y List.mem_cons_self
    rw [List.cons_append, placeEntry, if_neg (Nat.not_lt.mpr hy), ih fun x hx => ha x (List.mem_cons_of_mem y hx)]
    rfl

/-- A message that goes before a waiting one, neither coalescing with the other. -/
def Msg.Precedes (a b : Msg) : Prop := a.sameKey b = false ∧ a.kind < b.kind

theorem enqueue_between {s : State} {m : Msg} {a b : List TxEntry} (hn : s.sl.station ≠ 0) (hb : s.busOff = false)
    (hroom : a.length + b.length < 16) (hearlier : ∀ x ∈ a, x.msg.Follows m) (hlater : ∀ x ∈ b, m.Precedes x.msg) :
    (s.withQueue (a ++ b)).enqueue m = s.withQueue (a ++ m.waiting :: b) := by
  have hkey : ¬((a ++ b).any fun x => m.sameKey x.msg) = true := by
    rw [Bool.not_eq_true, List.any_eq_false]
    intro x hx
    rcases List.mem_append.mp hx with hx | hx
    · simp [(hearlier x hx).1]
    · simp [(hlater x hx).1]
  have hlen : (a ++ b).length < Config.maxQueue := by rw [List.length_append]; exact hroom
  have hplace : placeEntry m.waiting (a ++ b) = a ++ m.waiting :: b :=
    placeEntry_between (fun x hx => (hearlier x hx).2) fun x hx => (hlater x hx).2
  have hoff : ¬(s.withQueue (a ++ b)).busOff = true := by
    rw [show (s.withQueue (a ++ b)).busOff = s.busOff from rfl, hb]
    decide
  unfold State.enqueue
  rw [if_neg (show ¬(s.withQueue (a ++ b)).sl.station = 0 from hn), if_neg hoff]
  have hjoin : joinQueue m (s.withQueue (a ++ b)).sl.queue = (a ++ m.waiting :: b, false) := by
    show joinQueue m (a ++ b) = _
    unfold joinQueue
    rw [if_neg hkey, if_pos hlen]
    exact congrArg (fun q => (q, false)) hplace
  dsimp only
  rw [hjoin]
  rfl

/-- Messages that follow one another join before the entries that they precede. -/
theorem enqueueAll_between {s : State} {as bs : List Msg} {tail : List TxEntry} (hn : s.sl.station ≠ 0) (hb : s.busOff = false)
    (hroom : as.length + bs.length + tail.length ≤ 16) (hms : (as ++ bs).Pairwise Msg.Follows)
    (hlater : ∀ m ∈ bs, ∀ x ∈ tail, m.Precedes x.msg) :
    (s.withQueue (as.map Msg.waiting ++ tail)).enqueueAll bs = s.withQueue ((as ++ bs).map Msg.waiting ++ tail) := by
  induction bs generalizing as with
  | nil => rw [List.append_nil]; rfl
  | cons m bs ih =>
    rw [List.length_cons] at hroom
    have hearlier : ∀ x ∈ as.map Msg.waiting, x.msg.Follows m := fun x hx => by
      obtain ⟨a, ha, rfl⟩ := List.mem_map.mp hx
      exact (List.pairwise_append.mp hms).2.2 a ha m List.mem_cons_self
    have hfirst : (s.withQueue (as.map Msg.waiting ++ tail)).enqueue m = s.withQueue ((as ++ [m]).map Msg.waiting ++ tail) := by
      rw [enqueue_between hn hb (by rw [List.length_map]; omega) hearlier (hlater m List.mem_cons_self)]
      simp
    show ((s.withQueue (as.map Msg.waiting ++ tail)).enqueue m).enqueueAll bs = _
    rw [hfirst, ih (by simp; omega) (by simpa using hms) fun b hb => hlater b (List.mem_cons_of_mem m hb)]
    simp

/-! ## The end of LINK_OFF (R149; log 23) -/

/-- The state of a station at the end of LINK_OFF, before its re-announcement. -/
def State.linkBack (s : State) : State := { s with sl.txErrors := 0, sl.rxErrors := 0, sl.recessive := 0 }

theorem endLinkOff_eq (s : State) : s.endLinkOff = s.linkBack.queuePresence.announceLinks.queueLevels := rfl

theorem State.endLinkOff_levels (s : State) : s.linkBack.LevelsOnly s.endLinkOff := by
  rw [endLinkOff_eq]
  exact ((State.levelsOnly_enqueue ..).trans (State.levelsOnly_announceLinks _)).trans (levelsOnly_queueLevels _)

theorem State.endLinkOff_tk_fe (s : State) : s.endLinkOff.tk = s.tk ∧ s.endLinkOff.fe = s.fe := by
  rw [endLinkOff_eq, queueLevels_eq, announceLinks_eq, enqueueAll_field State.tk State.enqueue_tk,
    enqueueAll_field State.tk State.enqueue_tk, enqueueAll_field State.fe State.enqueue_fe,
    enqueueAll_field State.fe State.enqueue_fe, State.queuePresence, State.enqueue_tk, State.enqueue_fe]
  exact ⟨rfl, rfl⟩

theorem announcements_pairwise (s : State) : (s.announcements ++ s.levelAnswers).Pairwise Msg.Follows := by
  refine List.pairwise_append.mpr ⟨?_, levelAnswers_pairwise s, fun a ha b hb => ?_⟩
  · refine List.pairwise_map.mpr (((List.nodup_finRange 32).filter _).imp fun {a b} hab => ⟨?_, le_rfl⟩)
    exact beq_eq_false_iff_ne.mpr hab.symm
  · obtain ⟨l, -, rfl⟩ := List.mem_map.mp ha
    obtain ⟨m, -, rfl⟩ := List.mem_map.mp hb
    exact ⟨rfl, show 8 ≤ 16 by decide⟩

/-- Both go out before the PRESENCE. -/
theorem announcements_precede (s : State) {m : Msg} (h : m ∈ s.announcements ∨ m ∈ s.levelAnswers) : m.Precedes s.presenceMsg := by
  rcases h with h | h
  · obtain ⟨l, -, rfl⟩ := List.mem_map.mp h
    exact ⟨rfl, show 8 < 20 by decide⟩
  · obtain ⟨m, -, rfl⟩ := List.mem_map.mp h
    exact ⟨rfl, show 16 < 20 by decide⟩

theorem linkBack_presenceMsg (s : State) : s.linkBack.presenceMsg = s.presenceMsg := rfl

theorem linkBack_announcements (s : State) (q : List TxEntry) : (s.linkBack.withQueue q).announcements = s.announcements := rfl

theorem linkBack_levelAnswers (s : State) (q : List TxEntry) : (s.linkBack.withQueue q).levelAnswers = s.levelAnswers := rfl

/-- The announcements go out before the PRESENCE, the held links before the masters. -/
theorem endLinkOff_queue {s : State} (hn : s.sl.station ≠ 0) (hq : s.sl.queue = [])
    (hroom : s.announcements.length + s.levelAnswers.length < 16) :
    s.endLinkOff = s.linkBack.withQueue
      ((s.announcements ++ s.levelAnswers).map Msg.waiting ++ [s.presenceMsg.waiting]) := by
  have hb : s.linkBack.busOff = false := rfl
  have hempty : s.linkBack.sl.queue = [] := hq
  have hpresence : s.linkBack.queuePresence = s.linkBack.withQueue ([].map Msg.waiting ++ [s.presenceMsg.waiting]) := by
    rw [State.queuePresence, linkBack_presenceMsg,
      enqueue_last (s := s.linkBack) hn hb (by rw [hempty]; decide) (by rw [hempty]; exact List.forall_mem_nil _), hempty,
      List.map_nil]
  have hlater : ∀ m, m ∈ s.announcements ∨ m ∈ s.levelAnswers → ∀ x ∈ [s.presenceMsg.waiting], m.Precedes x.msg :=
    fun m hm x hx => by rw [List.mem_singleton.mp hx]; exact announcements_precede s hm
  rw [endLinkOff_eq, hpresence, announceLinks_eq, linkBack_announcements,
    enqueueAll_between (s := s.linkBack) hn hb (by simp; omega) (List.pairwise_append.mp (announcements_pairwise s)).1
      fun m hm => hlater m (.inl hm),
    List.nil_append, queueLevels_eq, linkBack_levelAnswers,
    enqueueAll_between (s := s.linkBack) hn hb (by simp; omega) (announcements_pairwise s) fun m hm => hlater m (.inr hm)]

/-- What the end of LINK_OFF leaves of an event that ends it. -/
theorem State.endLinkOff_ends (s : State) :
    let t := s.endLinkOff.commit s
    t.sl = { s.sl with txErrors := 0, rxErrors := 0, recessive := 0, queue := t.sl.queue } ∧
      t.linkSide = (if s.sl.aloneCond then .alone else .normal) ∧
      t.cs = s.cs ∧ t.seq = s.seq ∧ t.fe = s.fe ∧ t.pi = s.pi ∧ t.tk = s.tk ∧ t.sg = s.sg := by
  have hl := s.endLinkOff_levels
  have hsl : s.endLinkOff.sl = { s.sl with txErrors := 0, rxErrors := 0, recessive := 0, queue := s.endLinkOff.sl.queue } := hl.sl
  dsimp only
  simp only [State.commit_sl, State.commit_cs, State.commit_seq, State.commit_fe, State.commit_pi, State.commit_tk, State.commit_sg]
  refine ⟨hsl, ?_, hl.cs, hl.seq, s.endLinkOff_tk_fe.2, hl.pi, s.endLinkOff_tk_fe.1, hl.sg⟩
  rw [State.linkSide, State.busOff, State.commit_sl, hsl]
  rfl

theorem execRecessiveRun_last {s : State} (hb : s.busOff = true) (hr : s.sl.recessive = 127) :
    execRecessiveRun s = .next (s.endLinkOff.commit s) :=
  (State.takeWhen_enabled hb _).trans (next_commit_congr (if_pos (by rw [hr]; decide)) s)

theorem execLinkOffEnd_due {s : State} (hb : s.busOff = true) (hr : s.sl.recessive = 128) :
    execLinkOffEnd s = .next (s.endLinkOff.commit s) :=
  State.takeWhen_enabled (by rw [hb, hr]; decide) _

/-- Settles O44: the counts of the controller, the loss of the queue at bus-off, and the two events that end LINK_OFF. -/
theorem linkOffAndItsEnd : Obligations.LinkOffAndItsEnd := by
  refine fun s => ⟨rfl, decide_eq_true_iff, ?_, fun kind hqueue hline hb herrors hraises => ?_, fun hb hr => ?_, fun hb => ⟨?_, ?_⟩,
    fun i hi hb hq => ?_⟩
  · simp only [State.linkSide, State.busOff, decide_eq_true_eq]
    rfl
  · have hraise : s.raisesErrors kind = true := by
      have hraised : s.raisesErrors kind = true ↔
          ¬((128 ≤ s.sl.txErrors ∨ 128 ≤ s.sl.rxErrors) ∧ kind = .noAcknowledgement) := by
        rw [State.raisesErrors, Bool.not_eq_true', ← Bool.not_eq_true, Bool.and_eq_true, State.errorPassive, Bool.or_eq_true,
          decide_eq_true_iff, decide_eq_true_iff, beq_iff_eq]
        rfl
      exact hraised.mpr hraises
    have hbusy : s.transmitting = true := List.any_eq_true.mpr hline
    refine ⟨_, execTxError_busOff kind hqueue.oneFrame hbusy herrors hraise, ?_⟩
    simp only [State.linkSide, State.busOff, State.commit_sl, State.commit_cs, State.commit_seq, State.commit_fe, State.commit_pi,
      State.commit_tk, State.commit_sg, State.commit_fi_counters]
    exact ⟨rfl, rfl, by rw [← bump_iterate]; rfl, rfl, rfl, rfl, rfl, rfl, rfl⟩
  · exact (State.takeWhen_enabled hb _).trans (next_commit_congr (if_neg (Nat.not_le.mpr hr)) s)
  · exact State.takeWhen_idle hb _
  · exact State.takeWhen_idle (by rw [hb]; rfl) _
  · have hexec : exec i s = .next (s.endLinkOff.commit s) := by
      rcases hi with ⟨rfl, hr⟩ | ⟨rfl, hr⟩
      · exact execRecessiveRun_last hb hr
      · exact execLinkOffEnd_due hb hr
    obtain ⟨hsl, hside, hcs, hseq, hfe, hpi, htk, hsg⟩ := s.endLinkOff_ends
    refine ⟨_, hexec, hsl, hside, hcs, hseq, hfe, hpi, htk, hsg, fun hn => ?_⟩
    intro links masters hroom
    have hlinks : s.announcements =
        links.map fun l => .link l .touch (s.tk.link.get l).stamp (some s.sl.station) true (s.tk.link.get l).level :=
      congrArg (List.map _) (List.filter_congr fun l _ => by rw [Bool.eq_iff_iff]; simp [State.holdsLink])
    have hmasters : s.levelAnswers = masters.map fun m => .groupLevel m (s.sg.master.get m).level :=
      congrArg (List.map _) (List.filter_congr fun m _ => by rw [Bool.eq_iff_iff]; simp [State.ownedHere])
    rw [State.commit_sl, endLinkOff_queue hn hq (by rw [hlinks, hmasters, List.length_map, List.length_map]; exact hroom),
      hlinks, hmasters]
    simp only [State.withQueue, List.map_append, List.map_map]
    rfl

end Sys2Proof.Machine

/-! SUPPORT. The transmit queue as a list (R145 to R148): what each change of it keeps of its length, its order, its coalescing keys, its
attempts and its one frame on the line. -/

namespace Sys2Proof.Machine

/-! ## Coalescing keys (R146) -/

/-- What a message coalesces by: its master, its link or its JOINING flag. -/
def Msg.key : Msg → Option (MasterNo ⊕ LinkNo ⊕ Bool)
  | .groupLevel m _ => some (.inl m)
  | .link l .. => some (.inr (.inl l))
  | .presence joining .. => some (.inr (.inr joining))
  | _ => none

theorem Msg.sameKey_iff (a b : Msg) : a.sameKey b = true ↔ a.key = b.key ∧ a.key.isSome = true := by
  cases a <;> cases b <;> simp [Msg.sameKey, Msg.key]

theorem Msg.sameKey_congr {a b c d : Msg} (hac : a.key = c.key) (hbd : b.key = d.key) : a.sameKey b = c.sameKey d := by
  rw [Bool.eq_iff_iff, sameKey_iff, sameKey_iff, hac, hbd]

theorem Msg.sameKey_comm (a b : Msg) : a.sameKey b = b.sameKey a := by
  rw [Bool.eq_iff_iff, sameKey_iff, sameKey_iff]
  exact ⟨fun ⟨h, hs⟩ => ⟨h.symm, h ▸ hs⟩, fun ⟨h, hs⟩ => ⟨h.symm, h ▸ hs⟩⟩

theorem Msg.kind_of_sameKey {a b : Msg} (h : a.sameKey b = true) : a.kind = b.kind := by
  obtain ⟨hkey, hsome⟩ := (sameKey_iff a b).mp h
  cases a <;> cases b <;> simp_all [Msg.key, Msg.kind]

/-! ## A sound queue -/

/-- What `State.QueueLegal` says of the queue alone. -/
structure TxQueueSound (q : List TxEntry) : Prop where
  length : q.length ≤ Config.maxQueue
  order : q.Pairwise fun a b => a.msg.kind ≤ b.msg.kind
  keys : q.Pairwise fun a b => a.msg.sameKey b.msg = false
  attempts : ∀ e ∈ q, e.attempts < Config.maxAttempts
  oneFrame : (q.countP fun e => e.sending.isSome) ≤ 1
  amended : ∀ e ∈ q, e.amended = true → e.sending.isSome = true

/-- An entry in the place of another one, of its kind and key; it is on the line only where the other was. -/
structure TxEntry.Replaces (f e : TxEntry) : Prop where
  kind : f.msg.kind = e.msg.kind
  key : f.msg.key = e.msg.key
  attempts : e.attempts < Config.maxAttempts → f.attempts < Config.maxAttempts
  sending : f.sending.isSome = true → e.sending.isSome = true
  amended : (e.amended = true → e.sending.isSome = true) → f.amended = true → f.sending.isSome = true

theorem TxEntry.Replaces.refl (e : TxEntry) : e.Replaces e := ⟨rfl, rfl, id, id, id⟩

namespace TxQueueSound

variable {q : List TxEntry}

theorem nil : TxQueueSound [] := ⟨by decide, .nil, .nil, by simp, by simp, by simp⟩

theorem sublist (h : TxQueueSound q) {r : List TxEntry} (hr : r.Sublist q) : TxQueueSound r where
  length := hr.length_le.trans h.length
  order := h.order.sublist hr
  keys := h.keys.sublist hr
  attempts e he := h.attempts e (hr.subset he)
  oneFrame := (hr.countP_le).trans h.oneFrame
  amended e he := h.amended e (hr.subset he)

/-- Entries that leave, and entries in the place of others. -/
theorem filterMap (h : TxQueueSound q) {g : TxEntry → Option TxEntry} (hg : ∀ e f, g e = some f → f.Replaces e) :
    TxQueueSound (q.filterMap g) where
  length := (List.length_filterMap_le g q).trans h.length
  order := h.order.filterMap g fun a b hab c hc d hd => by
    rw [(hg a c hc).kind, (hg b d hd).kind]; exact hab
  keys := h.keys.filterMap g fun a b hab c hc d hd => by
    rw [Msg.sameKey_congr (hg a c hc).key (hg b d hd).key]; exact hab
  attempts f hf := by
    obtain ⟨e, he, hef⟩ := List.mem_filterMap.mp hf
    exact (hg e f hef).attempts (h.attempts e he)
  oneFrame := by
    refine le_trans ?_ h.oneFrame
    rw [List.countP_filterMap]
    refine List.countP_mono_left fun e _ he => ?_
    cases hge : g e with
    | none => simp [hge] at he
    | some f => exact (hg e f hge).sending (by simpa [hge] using he)
  amended f hf := by
    obtain ⟨e, he, hef⟩ := List.mem_filterMap.mp hf
    exact (hg e f hef).amended (h.amended e he)

theorem map (h : TxQueueSound q) {g : TxEntry → TxEntry} (hg : ∀ e, (g e).Replaces e) : TxQueueSound (q.map g) := by
  rw [← List.filterMap_eq_map]
  exact h.filterMap fun e f hf => Option.some.inj hf ▸ hg e

end TxQueueSound

/-! ## A message joins (R145 to R147) -/

theorem amend_replaces {m : Msg} {e : TxEntry} (hkind : m.kind = e.msg.kind) (hkey : m.key = e.msg.key) :
    (e.amend m).Replaces e where
  kind := hkind
  key := hkey
  attempts := id
  sending := id
  amended h ha := by
    rcases Bool.or_eq_true_iff.mp ha with ha | hs
    · exact h ha
    · exact hs

theorem placeEntry_perm (e : TxEntry) (q : List TxEntry) : (placeEntry e q).Perm (e :: q) := by
  induction q with
  | nil => exact .refl _
  | cons x q ih =>
    unfold placeEntry
    split
    · exact .refl _
    · exact (ih.cons x).trans (.swap ..)

theorem placeEntry_order {e : TxEntry} {q : List TxEntry} (h : q.Pairwise fun a b => a.msg.kind ≤ b.msg.kind) :
    (placeEntry e q).Pairwise fun a b => a.msg.kind ≤ b.msg.kind := by
  induction q with
  | nil => exact List.pairwise_singleton ..
  | cons x q ih =>
    obtain ⟨hx, hq⟩ := List.pairwise_cons.mp h
    unfold placeEntry
    split
    · next hlt =>
      refine List.pairwise_cons.mpr ⟨fun y hy => ?_, h⟩
      rcases List.mem_cons.mp hy with rfl | hy
      · exact hlt.le
      · exact hlt.le.trans (hx y hy)
    · next hge =>
      refine List.pairwise_cons.mpr ⟨fun y hy => ?_, ih hq⟩
      rcases (placeEntry_mem e y q).mp hy with rfl | hy
      · exact not_lt.mp hge
      · exact hx y hy

theorem TxQueueSound.place {q : List TxEntry} (h : TxQueueSound q) {m : Msg} (hroom : q.length < Config.maxQueue)
    (hkey : ∀ x ∈ q, m.sameKey x.msg = false) : TxQueueSound (placeEntry m.waiting q) where
  length := (placeEntry_length ..).trans_le hroom
  order := placeEntry_order h.order
  keys := by
    refine (List.Perm.pairwise_iff (fun {a b} hab => ?_) (placeEntry_perm ..)).mpr (List.pairwise_cons.mpr ⟨hkey, h.keys⟩)
    rw [Msg.sameKey_comm]; exact hab
  attempts e he := by
    rcases (placeEntry_mem ..).mp he with rfl | he
    · exact Nat.zero_lt_succ 15
    · exact h.attempts e he
  oneFrame := by
    rw [(placeEntry_perm ..).countP_eq, List.countP_cons]
    exact h.oneFrame
  amended e he := by
    rcases (placeEntry_mem ..).mp he with rfl | he
    · exact fun hw => nomatch hw
    · exact h.amended e he

theorem foldl_max_kind (q : List TxEntry) (k : Nat) :
    q.foldl (fun k e => max k e.msg.kind) k = k ∨ ∃ e ∈ q, e.msg.kind = q.foldl (fun k e => max k e.msg.kind) k := by
  induction q generalizing k with
  | nil => exact .inl rfl
  | cons x q ih =>
    rw [List.foldl_cons]
    rcases ih (max k x.msg.kind) with h | ⟨e, he, h⟩
    · rw [h]
      rcases max_choice k x.msg.kind with hk | hx
      · exact .inl hk
      · exact .inr ⟨x, by simp, hx.symm⟩
    · exact .inr ⟨e, by simp [he], h⟩

/-- A worst kind above another kind is the kind of an entry that may leave (R147). -/
theorem worstKind_attained {q : List TxEntry} {k : Nat} (h : k < worstKind q) :
    ∃ e ∈ q, (e.sending.isNone && e.msg.kind == worstKind q) = true := by
  rcases foldl_max_kind (q.filter fun e => e.sending.isNone) 0 with hzero | ⟨e, he, hkind⟩
  · exact absurd (hzero ▸ h) (Nat.not_lt_zero k)
  · obtain ⟨hmem, hnone⟩ := List.mem_filter.mp he
    exact ⟨e, hmem, Bool.and_eq_true_iff.mpr ⟨hnone, beq_iff_eq.mpr hkind⟩⟩

theorem dropNewest_sublist (k : Nat) (q : List TxEntry) : (dropNewest k q).Sublist q := by
  simpa [dropNewest] using (List.eraseP_sublist (p := fun e : TxEntry => e.sending.isNone && e.msg.kind == k)
    (l := q.reverse)).reverse

theorem dropNewest_length {k : Nat} {q : List TxEntry} {e : TxEntry} (he : e ∈ q)
    (hdrop : (e.sending.isNone && e.msg.kind == k) = true) : (dropNewest k q).length < q.length := by
  have hpos := List.length_pos_of_mem he
  rw [dropNewest, List.length_reverse, List.length_eraseP_of_mem (List.mem_reverse.mpr he) hdrop, List.length_reverse]
  omega

theorem TxQueueSound.join {q : List TxEntry} (h : TxQueueSound q) (m : Msg) : TxQueueSound (joinQueue m q).1 := by
  unfold joinQueue
  split
  · refine h.map fun e => ?_
    split
    · next hkey => exact amend_replaces (Msg.kind_of_sameKey hkey) ((Msg.sameKey_iff _ _).mp hkey).1
    · exact .refl e
  · next hkeys =>
    have hkey : ∀ x ∈ q, m.sameKey x.msg = false := by simpa using hkeys
    split
    · next hroom => exact h.place hroom hkey
    · split
      · next hworse =>
        have hdropped := dropNewest_sublist (worstKind q) q
        obtain ⟨e, he, hdrop⟩ := worstKind_attained hworse
        exact (h.sublist hdropped).place ((dropNewest_length he hdrop).trans_le h.length)
          fun x hx => hkey x (hdropped.subset hx)
      · exact h

/-! ## The own assertion in a waiting PRESENCE (R132), and the ends of an offer (R145, R146) -/

theorem updateMask_replaces (e : TxEntry) (g : GroupNo) (b : Bool) : (e.updateMask g b).Replaces e := by
  unfold TxEntry.updateMask
  split
  · next hmsg => exact amend_replaces (by rw [hmsg]; rfl) (by rw [hmsg]; rfl)
  · exact .refl e

theorem endOffer_replaces (e : TxEntry) {n : Nat} (hn : n < Config.maxAttempts) :
    TxEntry.Replaces { e.endOffer with attempts := n } e :=
  ⟨rfl, rfl, fun _ => hn, (fun h => nomatch h), fun _ h => nomatch h⟩

theorem lose_replaces (e : TxEntry) : e.lose.Replaces e := by
  unfold TxEntry.lose
  split
  · exact ⟨rfl, rfl, id, (fun h => nomatch h), fun _ h => nomatch h⟩
  · exact .refl e

theorem fail_replaces (e f : TxEntry) (h : e.fail = some f) : f.Replaces e := by
  unfold TxEntry.fail at h
  split at h
  · split at h
    · cases h
    · next hn => cases h; exact endOffer_replaces e (not_le.mp hn)
  · cases h; exact .refl e

theorem succeed_replaces (e f : TxEntry) (h : e.succeed = some f) : f.Replaces e := by
  unfold TxEntry.succeed at h
  split at h
  · split at h
    · cases h; exact endOffer_replaces e (by decide)
    · cases h
  · cases h; exact .refl e

theorem TxQueueSound.offer {q : List TxEntry} (h : TxQueueSound q) (hidle : (q.any fun e => e.sending.isSome) = false) :
    TxQueueSound (offerHead q) := by
  cases q with
  | nil => exact h
  | cons e rest =>
    have hnone : (rest.countP fun e => e.sending.isSome) = 0 :=
      List.countP_eq_zero.mpr fun x hx => by simpa using List.any_eq_false.mp hidle x (by simp [hx])
    obtain ⟨hbefore, horder⟩ := List.pairwise_cons.mp h.order
    obtain ⟨hother, hkeys⟩ := List.pairwise_cons.mp h.keys
    have hrest := h.sublist (List.sublist_cons_self e rest)
    constructor
    case length => exact h.length
    case order => exact List.pairwise_cons.mpr ⟨hbefore, horder⟩
    case keys => exact List.pairwise_cons.mpr ⟨hother, hkeys⟩
    case oneFrame => rw [offerHead, List.countP_cons, hnone]; exact le_rfl
    case attempts => exact List.forall_mem_cons.mpr ⟨h.attempts e (by simp), hrest.attempts⟩
    case amended => exact List.forall_mem_cons.mpr ⟨fun _ => rfl, hrest.amended⟩

end Sys2Proof.Machine

/-! SUPPORT. The transmit queue, the error counts, the update queue, the asserter sets, the counters and the phase between events, and
what each operation keeps of them: the relation `KeepsRecords`, one lemma an operation. -/

namespace Sys2Proof.Machine

/-! ## The invariants together -/

/-- All that O59 claims of a state. -/
structure State.RecordsSound (s : State) : Prop where
  queue : s.QueueLegal
  errors : s.ErrorsLegal
  marks : s.gp.queue.Nodup
  assertions : s.AssertionsAgree
  faults : s.fi.Legal

/-- What these invariants read of the state. -/
def State.records (s : State) :
    (Station × List TxEntry) × (Nat × Nat × Nat) × List Channel × Table 16 (Table 32 Bool) × Table 16 Bool × Counters × Nat :=
  ((s.sl.station, s.sl.queue), (s.sl.txErrors, s.sl.rxErrors, s.sl.recessive), s.gp.queue, s.sg.asserters, s.pi.ownAssert,
    s.fi.counters, s.fi.phase)

theorem queueLegal_iff (s : State) :
    s.QueueLegal ↔ TxQueueSound s.sl.queue ∧ (s.sl.station = 0 ∨ s.busOff = true → s.sl.queue = []) :=
  ⟨fun h => ⟨⟨h.length, h.order, h.keys, h.attempts, h.oneFrame, h.amended⟩, fun hsilent => hsilent.elim h.silent h.linkOff⟩,
    fun ⟨h, hsilent⟩ => ⟨h.length, h.order, h.keys, h.attempts, h.oneFrame, h.amended, fun k => hsilent (.inl k),
      fun k => hsilent (.inr k)⟩⟩

theorem State.RecordsSound.congr {s t : State} (h : s.RecordsSound) (e : t.records = s.records) : t.RecordsSound := by
  simp only [State.records, Prod.mk.injEq] at e
  obtain ⟨⟨hstation, hqueue⟩, ⟨htx, hrx, hrecessive⟩, hmarks, hasserters, hown, hcounters, hphase⟩ := e
  have hoff : t.busOff = s.busOff := by rw [State.busOff, State.busOff, htx]
  constructor
  case queue =>
    rw [queueLegal_iff, hstation, hqueue, hoff]
    exact (queueLegal_iff s).mp h.queue
  case errors => exact ⟨htx ▸ h.errors.tx, hrx ▸ h.errors.rx, hrecessive ▸ h.errors.recessive, hoff ▸ hrecessive ▸ h.errors.idle⟩
  case marks => exact hmarks ▸ h.marks
  case assertions => intro g; rw [hasserters, hstation, hown]; exact h.assertions g
  case faults =>
    obtain ⟨hloads, hgo, hremote, hdrops, hrange⟩ := h.faults
    constructor
    case phase => exact hphase ▸ hrange
    all_goals rw [hcounters]; assumption

/-- The queue and the error counts are invariants of SL alone. -/
theorem State.RecordsSound.same_sl {s t : State} (h : s.RecordsSound) (hsl : t.sl = s.sl) (hmarks : t.gp.queue.Nodup)
    (hassertions : t.AssertionsAgree) (hfaults : t.fi.Legal) : t.RecordsSound := by
  have hoff : t.busOff = s.busOff := by rw [State.busOff, State.busOff, hsl]
  refine ⟨?_, ?_, hmarks, hassertions, hfaults⟩
  · rw [queueLegal_iff, hoff, hsl]
    exact (queueLegal_iff s).mp h.queue
  · exact ⟨hsl ▸ h.errors.tx, hsl ▸ h.errors.rx, hsl ▸ h.errors.recessive, hoff ▸ hsl ▸ h.errors.idle⟩

/-- An operation that keeps the invariants. -/
structure State.KeepsRecords (s t : State) : Prop where
  sound : s.RecordsSound → t.RecordsSound

namespace State.KeepsRecords

variable {s t u : State}

theorem refl (s : State) : s.KeepsRecords s := ⟨id⟩

theorem trans (h : s.KeepsRecords t) (k : t.KeepsRecords u) : s.KeepsRecords u := ⟨k.sound ∘ h.sound⟩

/-- An operation that leaves what the invariants read. -/
theorem apart (h : t.records = s.records) : s.KeepsRecords t := ⟨fun hs => hs.congr h⟩

theorem ite {c : Prop} [Decidable c] (ht : s.KeepsRecords t) (hu : s.KeepsRecords u) : s.KeepsRecords (if c then t else u) := by
  split
  · exact ht
  · exact hu

/-- An operation that depends on a test, each branch of which may use what the test says. -/
theorem dite {c : Prop} [Decidable c] (ht : c → s.KeepsRecords t) (hu : ¬c → s.KeepsRecords u) :
    s.KeepsRecords (if c then t else u) := by
  split
  · next h => exact ht h
  · next h => exact hu h

theorem forEach {n : Nat} (f : Fin n → State → State) (hf : ∀ i (s : State), s.KeepsRecords (f i s)) (s : State) :
    s.KeepsRecords (forEach n f s) :=
  forEach_keeps (fun t => s.KeepsRecords t) f (fun i t h => h.trans (hf i t)) s (.refl s)

theorem foldl {α : Type} (f : State → α → State) (hf : ∀ (s : State) a, s.KeepsRecords (f s a)) (l : List α) (s : State) :
    s.KeepsRecords (l.foldl f s) := by
  induction l generalizing s with
  | nil => exact .refl s
  | cons a l ih => exact (hf s a).trans (ih _)

end State.KeepsRecords

section
variable (s : State)

/-! ## A change of one part -/

theorem keepsRecords_faults (fi : FaultUnit) (h : s.fi.Legal → fi.Legal) : s.KeepsRecords { s with fi := fi } :=
  ⟨fun hs => hs.same_sl rfl hs.marks hs.assertions (h hs.faults)⟩

theorem keepsRecords_marks (gp : GainPort) (h : s.gp.queue.Nodup → gp.queue.Nodup) : s.KeepsRecords { s with gp := gp } :=
  ⟨fun hs => hs.same_sl rfl (h hs.marks) hs.assertions hs.faults⟩

theorem keepsRecords_assertions (asserters : Table 16 (Table 32 Bool)) (ownAssert : Table 16 Bool)
    (h : s.AssertionsAgree → ∀ g, (asserters.get g).get s.sl.station = ownAssert.get g) :
    s.KeepsRecords { s with sg.asserters := asserters, pi.ownAssert := ownAssert } :=
  ⟨fun hs => hs.same_sl rfl hs.marks (h hs.assertions) hs.faults⟩

/-- A change of SL that leaves the station's number. -/
theorem keepsRecords_sl (sl : ShowLink) (hstation : sl.station = s.sl.station)
    (h : s.QueueLegal → s.ErrorsLegal → State.QueueLegal { s with sl := sl } ∧ State.ErrorsLegal { s with sl := sl }) :
    s.KeepsRecords { s with sl := sl } :=
  ⟨fun hs => by
    obtain ⟨hqueue, herrors⟩ := h hs.queue hs.errors
    refine ⟨hqueue, herrors, hs.marks, fun g => ?_, hs.faults⟩
    show (s.sg.asserters.get g).get sl.station = _
    rw [hstation]
    exact hs.assertions g⟩

/-- A change of SL beside the station's number, the queue and the error counts. -/
theorem keepsRecords_sl_unread (sl : ShowLink)
    (h : (sl.station, sl.queue, sl.txErrors, sl.rxErrors, sl.recessive) =
      (s.sl.station, s.sl.queue, s.sl.txErrors, s.sl.rxErrors, s.sl.recessive)) : s.KeepsRecords { s with sl := sl } := by
  simp only [Prod.mk.injEq] at h
  obtain ⟨hstation, hqueue, htx, hrx, hrecessive⟩ := h
  exact .apart (by simp only [State.records, hstation, hqueue, htx, hrx, hrecessive])

/-- A change of the transmit queue, which stays empty where nothing is sent. -/
theorem keepsRecords_queue (q : List TxEntry) (h : TxQueueSound s.sl.queue → TxQueueSound q)
    (hsilent : s.sl.station = 0 ∨ s.busOff = true → s.sl.queue = [] → q = []) :
    s.KeepsRecords { s with sl.queue := q } :=
  keepsRecords_sl s _ rfl fun hq he => by
    obtain ⟨hsound, hempty⟩ := (queueLegal_iff s).mp hq
    exact ⟨(queueLegal_iff _).mpr ⟨h hsound, fun k => hsilent k (hempty k)⟩, ⟨he.tx, he.rx, he.recessive, he.idle⟩⟩

theorem keepsRecords_rxErrors (n : Nat) (h : s.sl.rxErrors ≤ Config.receiveTop → n ≤ Config.receiveTop) :
    s.KeepsRecords { s with sl.rxErrors := n } :=
  keepsRecords_sl s _ rfl fun hq he =>
    ⟨(queueLegal_iff _).mpr ((queueLegal_iff s).mp hq), ⟨he.tx, h he.rx, he.recessive, he.idle⟩⟩

/-! ## Flags, counters, the transmit queue (R145 to R148, R176) -/

theorem bump_le_top {n : Nat} (h : n ≤ Config.counterTop) : bump n ≤ Config.counterTop := by
  unfold bump
  split
  · next hlt => exact hlt
  · exact h

theorem keepsRecords_flags (flags : Table 12 Bool) : s.KeepsRecords { s with fi.flags := flags } := .apart rfl

theorem keepsRecords_setFlag (f : Flag) : s.KeepsRecords (s.setFlag f) := .apart rfl

theorem keepsRecords_countIgnored : s.KeepsRecords s.countIgnored :=
  keepsRecords_faults s _ fun h => ⟨h.loadsRefused, h.goRefused, bump_le_top h.remoteIgnored, h.txDrops, h.phase⟩

theorem keepsRecords_countDrop : s.KeepsRecords s.countDrop :=
  keepsRecords_faults s _ fun h => ⟨h.loadsRefused, h.goRefused, h.remoteIgnored, bump_le_top h.txDrops, h.phase⟩

theorem keepsRecords_refuseGo : s.KeepsRecords s.refuseGo :=
  keepsRecords_faults s _ fun h => ⟨h.loadsRefused, bump_le_top h.goRefused, h.remoteIgnored, h.txDrops, h.phase⟩

theorem keepsRecords_refuseLoad (r : Reason) : s.KeepsRecords (s.refuseLoad r) := by
  have h : s.KeepsRecords { s.setFlag .loadRefused with
      fi.counters.loadsRefused := bump s.fi.counters.loadsRefused, fi.lastReason := some r } :=
    keepsRecords_faults s _ fun h => ⟨bump_le_top h.loadsRefused, h.goRefused, h.remoteIgnored, h.txDrops, h.phase⟩
  exact .ite (h.trans (keepsRecords_setFlag ..)) h

theorem keepsRecords_enqueue (m : Msg) : s.KeepsRecords (s.enqueue m) := by
  refine .dite (fun _ => .refl s) fun hstation => .dite (fun _ => keepsRecords_countDrop s) fun hoff => ?_
  have h : s.KeepsRecords { s with sl.queue := (joinQueue m s.sl.queue).1 } :=
    keepsRecords_queue s _ (fun hq => hq.join m) fun hsilent => absurd hsilent (not_or.mpr ⟨hstation, hoff⟩)
  exact .ite ((h.trans (keepsRecords_setFlag ..)).trans (keepsRecords_countDrop _)) h

theorem keepsRecords_queueLink (l : LinkNo) (a : LinkAction) : s.KeepsRecords (s.queueLink l a) := keepsRecords_enqueue s _

theorem keepsRecords_queuePresence : s.KeepsRecords s.queuePresence := keepsRecords_enqueue s _

theorem keepsRecords_queueLevel (m : MasterNo) : s.KeepsRecords (s.queueLevel m) := .ite (keepsRecords_enqueue s _) (.refl s)

theorem keepsRecords_queueLevels : s.KeepsRecords s.queueLevels := .forEach _ (fun m t => keepsRecords_queueLevel t m) s

/-! ## The end of an event -/

theorem settle_records : s.settle.records = s.records := by
  simp only [State.records, State.settle_sl, State.settle_gp, State.settle_sg, State.settle_pi, State.settle_fi_counters,
    State.settle_fi_phase]

theorem keepsRecords_settle : s.KeepsRecords s.settle := .apart (settle_records s)

/-- A mark brings a channel into the update queue that was not in it (R162). -/
theorem keepsRecords_mark (c : Channel) : s.KeepsRecords (s.mark c) :=
  .dite (fun hnew => keepsRecords_marks s _ fun h => List.nodup_append_comm.mp (List.nodup_cons.mpr ⟨hnew.1, h⟩)) fun _ => .refl s

theorem keepsRecords_markChanges (before : State) : s.KeepsRecords (s.markChanges before) :=
  .forEach _ (fun c t => .ite (.refl t) (keepsRecords_mark t c)) s

theorem keepsRecords_commit (before : State) : s.KeepsRecords (s.commit before) :=
  (keepsRecords_settle s).trans (keepsRecords_markChanges s.settle before)

/-! ## Reception (R143, R144, R148, R151) -/

theorem keepsRecords_countReceived : s.KeepsRecords s.countReceived :=
  keepsRecords_rxErrors s _ fun h => (Nat.sub_le ..).trans h

theorem keepsRecords_heard (p : Station) : s.KeepsRecords (s.heard p) := by
  refine (keepsRecords_countReceived s).trans (.ite (.apart rfl) ?_)
  rw [State.hearPeer_eq]
  exact .apart rfl

/-- The clash that a frame begins if it bears this station's own number. -/
theorem keepsRecords_clash (c : Prop) [Decidable c] :
    s.KeepsRecords (if c then s.countReceived.beginClash else s.countReceived) :=
  .ite ((keepsRecords_countReceived s).trans (.apart rfl)) (keepsRecords_countReceived s)

theorem keepsRecords_receive (p : Station) (body : State → State) (hb : ∀ t : State, t.KeepsRecords (body t)) :
    s.KeepsRecords (s.receive p body) :=
  .ite ((keepsRecords_clash s _).trans (keepsRecords_countIgnored _)) ((keepsRecords_heard s p).trans (hb _))

theorem keepsRecords_receiveAddressed (p target : Station) (body : State → State) (hb : ∀ t : State, t.KeepsRecords (body t)) :
    s.KeepsRecords (s.receiveAddressed p target body) :=
  keepsRecords_receive s p _ fun t => .ite (hb t) (.refl t)

theorem keepsRecords_takeConfig (p target : Station) (body : State → State) (hb : ∀ t : State, t.KeepsRecords (body t)) :
    s.KeepsRecords (s.takeConfig p target body) :=
  keepsRecords_receiveAddressed s p target _ fun t => .ite (hb t) (.ite (.refl t) (keepsRecords_refuseLoad t _))

/-! ## Takeover and links (chapter 6) -/

/-- What TK holds is not read. -/
theorem keepsRecords_tk (tk : TakeoverUnit) : s.KeepsRecords { s with tk := tk } := .apart rfl

theorem keepsRecords_takeHold (l : LinkNo) (c : Channel) : s.KeepsRecords (s.takeHold l c) :=
  ((keepsRecords_tk s _).trans (keepsRecords_queueLink ..)).trans (keepsRecords_tk ..)

theorem keepsRecords_driveLink (l : LinkNo) (c : Channel) : s.KeepsRecords (s.driveLink l c) :=
  ((keepsRecords_tk s _).trans (keepsRecords_queueLink ..)).trans (keepsRecords_tk ..)

theorem keepsRecords_giveUp (l : LinkNo) : s.KeepsRecords (s.giveUp l) :=
  ((keepsRecords_tk s _).trans (keepsRecords_queueLink ..)).trans (keepsRecords_tk ..)

theorem keepsRecords_leaveList (l : LinkNo) (c : Channel) : s.KeepsRecords (s.leaveList l c) := by
  refine .ite ?_ (.refl s)
  split
  · exact (keepsRecords_tk s _).trans (keepsRecords_giveUp ..)
  · exact .ite ((keepsRecords_tk s _).trans (keepsRecords_driveLink ..)) (keepsRecords_tk s _)

theorem keepsRecords_touchBegin (c : Channel) : s.KeepsRecords (s.touchBegin c) := by
  unfold State.touchBegin
  dsimp only
  split
  · exact keepsRecords_tk s _
  · exact (keepsRecords_tk s _).trans (keepsRecords_takeHold ..)

theorem keepsRecords_touchEnd (c : Channel) : s.KeepsRecords (s.touchEnd c) := by
  refine .ite (keepsRecords_tk s _) ?_
  split
  · exact keepsRecords_leaveList s ..
  · exact keepsRecords_tk s _

theorem keepsRecords_faderChange (c : Channel) : s.KeepsRecords (s.faderChange c) := by
  unfold State.faderChange
  split
  · exact keepsRecords_tk s _
  · exact .ite (keepsRecords_driveLink s ..) (.refl s)

theorem keepsRecords_notice (c : Channel) (priority : Bool) : s.KeepsRecords (s.notice c priority) := by
  refine .ite ?_ (keepsRecords_tk s _)
  dsimp only
  split
  · exact keepsRecords_tk s _
  · exact (keepsRecords_tk s _).trans (keepsRecords_leaveList ..)

theorem keepsRecords_loseHold (l : LinkNo) : s.KeepsRecords (s.loseHold l) := .ite (keepsRecords_tk s _) (.refl s)

theorem keepsRecords_acceptTouch (l : LinkNo) (n : Nat) (p : Option Station) (held : Bool) (x : Level) :
    s.KeepsRecords (s.acceptTouch l n p held x) :=
  (keepsRecords_loseHold s l).trans
    (.ite (.ite (keepsRecords_tk ..) (keepsRecords_tk ..)) (.ite (keepsRecords_tk ..) (keepsRecords_tk ..)))

theorem keepsRecords_acceptRelease (l : LinkNo) (n : Nat) (p : Option Station) (x : Level) :
    s.KeepsRecords (s.acceptRelease l n p x) :=
  (keepsRecords_loseHold s l).trans (.ite (keepsRecords_tk ..) (keepsRecords_tk ..))

theorem keepsRecords_countForeign (l : LinkNo) : s.KeepsRecords (s.countForeign l) := .ite (.refl s) (keepsRecords_countIgnored s)

theorem keepsRecords_releaseHeldBy (p : Station) : s.KeepsRecords (s.releaseHeldBy p) :=
  .forEach _ (fun _ t => .ite (keepsRecords_tk t _) (.refl t)) s

theorem keepsRecords_answerLinks : s.KeepsRecords s.answerLinks :=
  .forEach _ (fun _ t => .ite (keepsRecords_queueLink t ..) (.refl t)) s

theorem keepsRecords_announceLinks : s.KeepsRecords s.announceLinks :=
  .forEach _ (fun _ t => .ite (keepsRecords_queueLink t ..) (.refl t)) s

/-! ## Fades and steps (chapter 4) -/

/-- What FE holds is not read. -/
theorem keepsRecords_fe (fe : FadeEngine) : s.KeepsRecords { s with fe := fe } := .apart rfl

theorem keepsRecords_startFade (c : Channel) (cue : Cue) (target : Level) (fade : Nat) (curve : Curve) (priority : Bool) :
    s.KeepsRecords (s.startFade c cue target fade curve priority) := (keepsRecords_fe s _).trans (keepsRecords_notice ..)

theorem keepsRecords_startStep (p : PendingStep) : s.KeepsRecords (s.startStep p) := by
  refine .trans ?_ (keepsRecords_fe ..)
  split
  · exact .refl s
  · exact keepsRecords_startFade s ..

theorem keepsRecords_takeStep (p : PendingStep) : s.KeepsRecords (s.takeStep p) :=
  .ite ((keepsRecords_fe s _).trans (keepsRecords_startStep ..)) (keepsRecords_fe s _)

theorem keepsRecords_handSteps (n : Cue) : s.KeepsRecords (s.handSteps n) :=
  .foldl _ (fun t _ => .ite (.refl t) (keepsRecords_takeStep t _)) _ s

theorem keepsRecords_advanceFades : s.KeepsRecords s.advanceFades :=
  (keepsRecords_fe s _).trans (.foldl _ keepsRecords_startStep _ _)

theorem keepsRecords_gotoRequest (cue : Cue) (fade : Nat) : s.KeepsRecords (s.gotoRequest cue fade) :=
  (keepsRecords_fe s _).trans
    (.forEach _ (fun _ t => .ite (.refl t) ((keepsRecords_startFade t ..).trans (keepsRecords_fe ..))) _)

/-! ## GO, GOTO and the sequencer (chapter 3) -/

/-- What SEQ holds is not read. -/
theorem keepsRecords_seq (q : Sequencer) : s.KeepsRecords { s with seq := q } := .apart rfl

theorem keepsRecords_takeGo (n : Cue) (cause : Cause) (isLocal : Bool) : s.KeepsRecords (s.takeGo n cause isLocal) := by
  have h := fun q : Sequencer => (keepsRecords_seq s q).trans (keepsRecords_handSteps _ n)
  exact .ite ((h _).trans (keepsRecords_enqueue ..)) (h _)

theorem keepsRecords_expireFollow : s.KeepsRecords s.expireFollow := by
  have h : s.KeepsRecords { s with seq.follow := none } := keepsRecords_seq s _
  unfold State.expireFollow
  dsimp only
  split
  · exact h
  · exact .ite (h.trans (keepsRecords_takeGo ..)) (h.trans (keepsRecords_refuseGo _))

theorem keepsRecords_followChain (fuel : Nat) : s.KeepsRecords (s.followChain fuel) := by
  induction fuel generalizing s with
  | zero => exact .refl s
  | succ k ih => exact .ite ((keepsRecords_expireFollow s).trans (ih _)) (.refl s)

theorem keepsRecords_runGo (n : Cue) (cause : Cause) (isLocal : Bool) : s.KeepsRecords (s.runGo n cause isLocal) :=
  (keepsRecords_takeGo s ..).trans (keepsRecords_followChain ..)

theorem keepsRecords_takeGoto (n : Cue) (fade : Nat) : s.KeepsRecords (s.takeGoto n fade) :=
  (keepsRecords_seq s _).trans (keepsRecords_gotoRequest ..)

theorem keepsRecords_goKeyRequest : s.KeepsRecords s.goKeyRequest := by
  have h : s.KeepsRecords { s with seq.keyStamp := some s.seq.frameCount } := keepsRecords_seq s _
  refine .ite (.refl s) (.ite ((keepsRecords_seq s _).trans (keepsRecords_enqueue ..)) ?_)
  dsimp only
  split
  · exact h.trans (keepsRecords_refuseGo _)
  · exact .ite (h.trans (keepsRecords_runGo ..)) (h.trans (keepsRecords_refuseGo _))

theorem keepsRecords_backKeyRequest : s.KeepsRecords s.backKeyRequest := by
  unfold State.backKeyRequest
  split
  · exact keepsRecords_refuseGo s
  · exact .ite ((keepsRecords_takeGoto s ..).trans (keepsRecords_enqueue ..)) (keepsRecords_refuseGo s)

theorem keepsRecords_stopKeyRequest : s.KeepsRecords s.stopKeyRequest :=
  .ite (.refl s) ((keepsRecords_seq s _).trans (keepsRecords_enqueue ..))

theorem keepsRecords_adoptPresence (p : Station) (cue : Cue) (held : Bool) : s.KeepsRecords (s.adoptPresence p cue held) :=
  .ite (keepsRecords_seq s _) (.refl s)

theorem keepsRecords_rejoin : s.KeepsRecords s.rejoin :=
  State.KeepsRecords.trans (.ite (.refl s) (keepsRecords_takeGoto s ..)) (keepsRecords_seq _ _)

/-! ## Groups (chapter 7) -/

/-- A membership of another station (R133, R134). -/
theorem keepsRecords_otherAssertions {p : Station} (hp : p ≠ s.sl.station) (asserters : Table 16 (Table 32 Bool))
    (h : ∀ g q, q ≠ p → (asserters.get g).get q = (s.sg.asserters.get g).get q) :
    s.KeepsRecords { s with sg.asserters := asserters } :=
  keepsRecords_assertions s asserters s.pi.ownAssert fun hagree g => (h g _ hp.symm).trans (hagree g)

theorem keepsRecords_setAsserter {p : Station} (hp : p ≠ s.sl.station) (g : GroupNo) (b : Bool) :
    s.KeepsRecords (s.setAsserter g p b) :=
  keepsRecords_otherAssertions s hp _ fun k q hq => by
    rw [Table.get_modify]
    split
    · next hk => subst hk; rw [Table.get_set, if_neg hq.symm]
    · rfl

theorem keepsRecords_replaceMask {p : Station} (hp : p ≠ s.sl.station) (mask : BitVec 16) :
    s.KeepsRecords (s.replaceMask p mask) :=
  keepsRecords_otherAssertions s hp _ fun k q hq => by rw [Table.get_mapAt, Table.get_set, if_neg hq.symm]

/-- What SG holds of its masters is not read. -/
theorem keepsRecords_modifyMaster (m : MasterNo) (f : MasterRecord → MasterRecord) : s.KeepsRecords (s.modifyMaster m f) :=
  .apart rfl

theorem keepsRecords_slotLevel (k : Fin 4) (first : Bool) : s.KeepsRecords (s.slotLevel k first) :=
  .forEach _ (fun _ t => .ite
    (.ite ((keepsRecords_modifyMaster t ..).trans (keepsRecords_queueLevel ..)) (keepsRecords_modifyMaster t ..)) (.refl t)) s

/-- A change of the own assertion is one of the place in the asserter set, and of the waiting PRESENCEs (R96, R132). -/
theorem keepsRecords_toggleAssertion (k : Fin 8) : s.KeepsRecords (s.toggleAssertion k) := by
  unfold State.toggleAssertion
  split
  · exact .refl s
  next g _ =>
    dsimp only
    generalize (!s.pi.ownAssert.get g) = b
    have hplace : s.KeepsRecords (State.setAsserter { s with pi.ownAssert := s.pi.ownAssert.set g b } g s.sl.station b) :=
      keepsRecords_assertions s _ _ fun hagree h => by
        rw [Table.get_modify, Table.get_set]
        split
        · exact Table.get_set_self ..
        · exact hagree h
    refine (hplace.trans (keepsRecords_enqueue ..)).trans
      (keepsRecords_queue _ _ (fun hq => hq.map fun e => updateMask_replaces e g b) fun _ hempty => ?_)
    rw [hempty]
    rfl

/-! ## Panel Input (chapter 5) -/

/-- Of what PI holds, the own assertions alone are read. -/
theorem keepsRecords_pi (pi : Panel) (h : pi.ownAssert = s.pi.ownAssert) : s.KeepsRecords { s with pi := pi } :=
  .apart (by rw [State.records, State.records, h])

theorem keepsRecords_modifyTouch (c : Channel) (f : TouchState → TouchState) : s.KeepsRecords (s.modifyTouch c f) :=
  keepsRecords_pi s _ rfl

theorem keepsRecords_modifySlot (k : FaderSlot) (f : SlotState → SlotState) : s.KeepsRecords (s.modifySlot k f) :=
  keepsRecords_pi s _ rfl

theorem keepsRecords_beginTouch (c : Channel) : s.KeepsRecords (s.beginTouch c) :=
  (keepsRecords_modifyTouch ..).trans (keepsRecords_touchBegin ..)

theorem keepsRecords_endTouch (c : Channel) : s.KeepsRecords (State.endTouch c s) :=
  .ite ((keepsRecords_modifyTouch ..).trans (keepsRecords_touchEnd ..)) (.refl s)

theorem keepsRecords_beginAccepting : s.KeepsRecords s.beginAccepting := keepsRecords_pi s _ rfl

theorem keepsRecords_lockPanel : s.KeepsRecords s.lockPanel := by
  have h : s.KeepsRecords { s with pi.locked := true, pi.matchPos := 0, pi.unlockTimer := .stopped } := keepsRecords_pi s _ rfl
  exact .ite (h.trans (.forEach _ (fun c t => keepsRecords_endTouch t c) _)) h

theorem keepsRecords_unlockPanel : s.KeepsRecords s.unlockPanel := by
  have h : s.KeepsRecords { s with pi.locked := false, pi.matchPos := 0, pi.unlockTimer := .stopped } := keepsRecords_pi s _ rfl
  exact .ite (h.trans (keepsRecords_beginAccepting _)) h

theorem keepsRecords_handAction (c : Channel) : s.KeepsRecords (State.handAction c s) := .ite (.refl s) (.apart rfl)

theorem keepsRecords_countReading (k : FaderSlot) (rail : Bool) : s.KeepsRecords (s.countReading k rail) := by
  have h := keepsRecords_modifySlot s k fun x => x.count rail s.config.faultCount
  unfold State.countReading
  dsimp only
  split
  · exact h
  · exact .ite (h.trans (keepsRecords_endTouch ..))
      (.ite ((h.trans (keepsRecords_modifyTouch ..)).trans (keepsRecords_handAction ..)) h)

theorem keepsRecords_motionTouch (c : Channel) (catchUp : Bool) : s.KeepsRecords (s.motionTouch c catchUp) := by
  have h : s.KeepsRecords (if !(s.pi.touch.get c).touched && !catchUp then s.beginTouch c else s) :=
    .ite (keepsRecords_beginTouch s c) (.refl s)
  exact .ite (h.trans (.ite (keepsRecords_modifyTouch ..) (.refl _))) (.refl s)

theorem keepsRecords_handReading (k : FaderSlot) (first changed catchUp : Bool) :
    s.KeepsRecords (s.handReading k first changed catchUp) := by
  unfold State.handReading
  split
  · exact .ite (keepsRecords_slotLevel s ..) (.refl s)
  · exact State.KeepsRecords.trans (.ite (keepsRecords_faderChange s _) (.refl s)) (keepsRecords_motionTouch ..)
  · exact .refl s

theorem keepsRecords_readFader (k : FaderSlot) (raw : Nat) : s.KeepsRecords (s.readFader k raw) :=
  .ite (((keepsRecords_countReading s ..).trans (keepsRecords_modifySlot ..)).trans (keepsRecords_handReading ..))
    (keepsRecords_countReading s ..)

theorem keepsRecords_readReference (raw : Nat) : s.KeepsRecords (s.readReference raw) :=
  .ite (keepsRecords_pi s _ rfl) (keepsRecords_pi s _ rfl)

theorem keepsRecords_scanOn (n : Nat) : s.KeepsRecords (s.scanOn n) := keepsRecords_pi s _ rfl

theorem keepsRecords_togglePanelMute (c : Channel) : s.KeepsRecords (s.togglePanelMute c) := keepsRecords_pi s _ rfl

theorem keepsRecords_matchAt (pos : Nat) : s.KeepsRecords (s.matchAt pos) :=
  .ite (keepsRecords_unlockPanel s) (keepsRecords_pi s _ rfl)

theorem keepsRecords_pressKey (key : Fin 35) (body : State → State) (hb : ∀ t : State, t.KeepsRecords (body t)) :
    s.KeepsRecords (s.pressKey key body) := by
  have h : s.KeepsRecords { s with pi.keyDown := s.pi.keyDown.set key true } := keepsRecords_pi s _ rfl
  have hmatch : ∀ t : State, t.KeepsRecords (t.matchKey key) := fun t =>
    .ite (keepsRecords_matchAt t _) (.ite (keepsRecords_matchAt t _) (keepsRecords_pi t _ rfl))
  exact .ite h (.ite (h.trans (hmatch _)) (h.trans (hb _)))

/-! ## The store and the configuration transfer (chapters 2 and 8) -/

/-- What the Cue Store holds is not read. -/
theorem keepsRecords_cs (cs : CueStore) : s.KeepsRecords { s with cs := cs } := .apart rfl

theorem keepsRecords_checkKey (cue : Cue) (channel : Fin 32) (body : Channel → State) (hb : ∀ c, s.KeepsRecords (body c)) :
    s.KeepsRecords (s.checkKey cue channel body) := by
  refine .ite (keepsRecords_refuseLoad s _) ?_
  split
  · exact keepsRecords_refuseLoad s _
  · exact hb _

theorem keepsRecords_checkCue (cue : Cue) (body : State) (hb : s.KeepsRecords body) : s.KeepsRecords (s.checkCue cue body) :=
  .ite (keepsRecords_refuseLoad s _) hb

theorem keepsRecords_takeItem (code index : Nat) (value : BitVec 16) : s.KeepsRecords (s.takeItem code index value) := by
  unfold State.takeItem
  split
  · exact keepsRecords_refuseLoad s _
  · split
    · exact (keepsRecords_refuseLoad s .badItem).trans (.apart rfl)
    · exact .apart rfl

theorem keepsRecords_acceptConfig (k : Configuration) : s.KeepsRecords (s.acceptConfig k) := by
  unfold State.acceptConfig
  exact .trans (.apart (by simp only [State.records])) (keepsRecords_settle _)

theorem keepsRecords_closeAssembly : s.KeepsRecords s.closeAssembly := by
  unfold State.closeAssembly
  split
  · exact .refl s
  · exact .ite (.apart rfl) (keepsRecords_acceptConfig s _)

theorem keepsRecords_endJoining : s.KeepsRecords s.endJoining := by
  have h : s.KeepsRecords { s with sl.state := .running, sl.windowTimer := .stopped, sl.limitTimer := .stopped } := .apart rfl
  have hr := h.trans (keepsRecords_rejoin _)
  exact State.KeepsRecords.trans (.ite hr (hr.trans (keepsRecords_beginAccepting _))) (keepsRecords_queuePresence _)

/-! ## The Show Link and the status record (chapter 8) -/

theorem keepsRecords_takePresence {p : Station} (hp : p ≠ s.sl.station) (joining hold : Bool) (cue : Cue) (mask : BitVec 16) :
    s.KeepsRecords (s.takePresence p joining hold cue mask) := by
  have hrecord : s.KeepsRecords (s.recordPresence p joining hold cue) := .apart rfl
  have h := hrecord.trans (keepsRecords_replaceMask (s.recordPresence p joining hold cue) hp mask)
  exact .ite ((((h.trans (keepsRecords_releaseHeldBy ..)).trans (keepsRecords_answerLinks _)).trans
    (keepsRecords_queueLevels _)).trans (keepsRecords_queuePresence _)) (.ite (h.trans (keepsRecords_adoptPresence ..)) h)

theorem keepsRecords_losePeer (p : Station) : s.KeepsRecords (s.losePeer p) := by
  unfold State.losePeer
  dsimp only
  refine .trans ?_ (keepsRecords_releaseHeldBy ..)
  split
  · exact keepsRecords_sl_unread s _ rfl
  · exact keepsRecords_sl_unread s _ rfl

theorem keepsRecords_answerStatus : s.KeepsRecords s.answerStatus :=
  State.KeepsRecords.trans (.forEach _ (fun _ t => keepsRecords_enqueue t _) s) (keepsRecords_flags ..)

/-! ## The error counts (R148, R149) -/

theorem keepsRecords_countDrops (n : Nat) : s.KeepsRecords (State.countDrops n s) := by
  induction n generalizing s with
  | zero => exact .refl s
  | succ n ih => exact (keepsRecords_countDrop s).trans (ih _)

/-- Counts short of bus-off, with no recessive bits counted: a queue that was empty stays so where the station is silent. -/
theorem keepsRecords_counts {tx rx recessive : Nat} (htx : tx < Config.busOffAt)
    (hrx : s.ErrorsLegal → rx ≤ Config.receiveTop) (hrecessive : s.ErrorsLegal → recessive = 0) :
    s.KeepsRecords { s with sl.txErrors := tx, sl.rxErrors := rx, sl.recessive := recessive } :=
  keepsRecords_sl s _ rfl fun hq he => by
    obtain ⟨hsound, hempty⟩ := (queueLegal_iff s).mp hq
    refine ⟨(queueLegal_iff _).mpr ⟨hsound, fun hsilent => hempty (.inl (hsilent.resolve_right fun hoff => ?_))⟩,
      htx.le, hrx he, ?_, fun _ => hrecessive he⟩
    · exact absurd (of_decide_eq_true hoff) (not_le.mpr htx)
    · exact (hrecessive he).trans_lt (Nat.zero_lt_succ 127)

/-- At bus-off the queue is emptied and the recessive count starts; below it the count is short of bus-off. -/
theorem keepsRecords_raiseTxErrors (hb : s.busOff = false) : s.KeepsRecords s.raiseTxErrors := by
  have hoff : s.KeepsRecords { s with sl.txErrors := Config.busOffAt, sl.recessive := 0, sl.queue := [] } :=
    keepsRecords_sl s _ rfl fun _ he =>
      ⟨(queueLegal_iff _).mpr ⟨.nil, fun _ => rfl⟩, le_rfl, he.rx, Nat.zero_lt_succ 127, fun _ => rfl⟩
  exact .dite (fun _ => hoff.trans (keepsRecords_countDrops ..)) fun hlow =>
    keepsRecords_counts s (not_le.mp hlow) (fun he => he.rx) fun he => he.idle hb

theorem keepsRecords_endLinkOff : s.KeepsRecords s.endLinkOff := by
  have h : s.KeepsRecords { s with sl.txErrors := 0, sl.rxErrors := 0, sl.recessive := 0 } :=
    keepsRecords_counts s (Nat.zero_lt_succ 255) (fun _ => Nat.zero_le _) fun _ => rfl
  exact ((h.trans (keepsRecords_queuePresence _)).trans (keepsRecords_announceLinks _)).trans (keepsRecords_queueLevels _)

theorem keepsRecords_recessiveRun (hb : s.busOff = true) :
    s.KeepsRecords (if Config.recessiveEnd ≤ s.sl.recessive + 1 then s.endLinkOff
      else { s with sl.recessive := s.sl.recessive + 1 }) :=
  .dite (fun _ => keepsRecords_endLinkOff s) fun hshort => keepsRecords_sl s _ rfl fun hq he =>
    ⟨(queueLegal_iff _).mpr ((queueLegal_iff s).mp hq), he.tx, he.rx, not_le.mp hshort, fun h => absurd (hb.symm.trans h) (by decide)⟩

/-! ## Frames on the line (R145, R146) -/

/-- A frame is on the line only where frames are sent. -/
theorem busOff_of_transmitting {s : State} (hq : s.QueueLegal) (h : s.transmitting = true) : s.busOff = false := by
  by_contra hb
  rw [State.transmitting, hq.linkOff (Bool.not_eq_false _ ▸ hb)] at h
  cases h

theorem keepsRecords_offer (hidle : s.transmitting = false) : s.KeepsRecords { s with sl.queue := offerHead s.sl.queue } :=
  keepsRecords_queue s _ (fun hq => hq.offer hidle) fun _ hempty => by rw [hempty]; rfl

theorem keepsRecords_lose : s.KeepsRecords { s with sl.queue := s.sl.queue.map TxEntry.lose } :=
  keepsRecords_queue s _ (fun hq => hq.map lose_replaces) fun _ hempty => by rw [hempty]; rfl

theorem keepsRecords_txError (kind : TxErrorKind) (h : s.transmitting = true) :
    let left := s.sl.queue.filterMap TxEntry.fail
    let s1 : State := { s with sl.queue := left }
    let s2 := if left.length < s.sl.queue.length then s1.countDrop else s1
    s.KeepsRecords (if s.raisesErrors kind then s2.raiseTxErrors else s2) := by
  intro left s1 s2
  have hleft : s.KeepsRecords s1 :=
    keepsRecords_queue s _ (fun hq => hq.filterMap fail_replaces) fun _ hempty => by simp only [left, hempty, List.filterMap_nil]
  have hcounted : s.KeepsRecords s2 := .ite (hleft.trans (keepsRecords_countDrop _)) hleft
  have hoff : s2.busOff = s.busOff := by
    simp only [s2]
    split <;> rfl
  refine .ite ⟨fun hs => (hcounted.trans (keepsRecords_raiseTxErrors s2 ?_)).sound hs⟩ hcounted
  rw [hoff, busOff_of_transmitting hs.queue h]

theorem keepsRecords_txSuccess (h : s.transmitting = true) :
    s.KeepsRecords { s with sl.queue := s.sl.queue.filterMap TxEntry.succeed, sl.txErrors := s.sl.txErrors - 1 } :=
  keepsRecords_sl s _ rfl fun hq he => by
    obtain ⟨hsound, hempty⟩ := (queueLegal_iff s).mp hq
    have hle : s.sl.txErrors - 1 ≤ s.sl.txErrors := Nat.sub_le ..
    refine ⟨(queueLegal_iff _).mpr ⟨hsound.filterMap succeed_replaces, fun hsilent => ?_⟩, hle.trans he.tx, he.rx, he.recessive,
      fun _ => he.idle (busOff_of_transmitting hq h)⟩
    have hsilent : s.sl.station = 0 ∨ s.busOff = true := hsilent.imp_right fun hb => decide_eq_true ((of_decide_eq_true hb).trans hle)
    show s.sl.queue.filterMap _ = []
    rw [hempty hsilent, List.filterMap_nil]

/-! ## The gain composer, the gain port and the indicators (chapters 9 and 10) -/

/-- What GC holds is not read. -/
theorem keepsRecords_gc (gc : Composer) : s.KeepsRecords { s with gc := gc } := .apart rfl

theorem keepsRecords_gainRefresh :
    s.KeepsRecords { s with
      gp.queue := s.gp.queue ++ (List.finRange 24).filter fun c => decide (c ∉ s.gp.queue)
      gp.refreshTimer := .running Config.gainRefreshMs } :=
  keepsRecords_marks s _ fun h =>
    List.nodup_append.mpr ⟨h, (List.nodup_finRange 24).filter _, fun _ ha _ hb hab =>
      of_decide_eq_true (List.mem_filter.mp hb).2 (hab ▸ ha)⟩

theorem keepsRecords_beginLevel {c : Channel} {rest : List Channel} (hq : s.gp.queue = c :: rest) :
    s.KeepsRecords (s.beginLevel c rest) :=
  keepsRecords_marks s _ fun h => (List.nodup_cons.mp (hq ▸ h)).2

theorem keepsRecords_readReport (gin : BitVec 32) : s.KeepsRecords (s.readReport gin) := by
  unfold State.readReport
  split
  · exact .refl s
  · exact .apart rfl

theorem keepsRecords_endTransfer (t : Transfer) : s.KeepsRecords (s.endTransfer t) := by
  cases t with
  | poll => exact .apart rfl
  | level => exact .ite (.apart rfl) (.apart rfl)

theorem keepsRecords_indicatorTimer :
    s.KeepsRecords { s with
      fi.phase := (s.fi.phase + Config.indicatorMs) % Config.phaseWrap
      fi.indicatorTimer := .running Config.indicatorMs } :=
  keepsRecords_faults s _ fun h =>
    ⟨h.loadsRefused, h.goRefused, h.remoteIgnored, h.txDrops, Nat.mod_lt _ (by decide), by
      obtain ⟨-, hphase⟩ := h.phase
      simp only [Config.indicatorMs, Config.phaseWrap] at hphase ⊢
      omega⟩

end

/-! ## Resets (R141, R160, R170, R180) -/

theorem resetBlocks_recordsSound (station : Station) (rate : BitRate) (k : Configuration) (store : CueStore) (offset : Int)
    (pending : List Instr) : (resetBlocks station rate k store offset pending).RecordsSound where
  queue := (queueLegal_iff _).mpr ⟨.nil, fun _ => rfl⟩
  errors := ⟨Nat.zero_le _, Nat.zero_le _, Nat.zero_lt_succ 127, fun _ => rfl⟩
  marks := List.nodup_finRange 24
  assertions g := by simp [resetBlocks, resetGroups, resetPanel]
  faults := ⟨Nat.zero_le _, Nat.zero_le _, Nat.zero_le _, Nat.zero_le _, Nat.zero_lt_succ 5999, rfl⟩

theorem afterReset_recordsSound (station : Station) (rate : BitRate) (k : Configuration) (store : CueStore) (offset : Int)
    (pending : List Instr) : (afterReset station rate k store offset pending).RecordsSound :=
  ((keepsRecords_settle _).trans (keepsRecords_queuePresence _)).sound
    (resetBlocks_recordsSound station rate k store offset pending)

end Sys2Proof.Machine

/-! SUPPORT. The transmit queue, the error counts, the update queue, the asserter sets, the counters and the phase through every command; it
settles O59. -/

namespace Sys2Proof.Machine

section
variable {s t : State} {work : State → State} {enabled : Bool}

theorem keepsRecords_take (h : s.take work = .next t) (hw : s.KeepsRecords (work s)) : s.KeepsRecords t := by
  obtain rfl : (work s).commit s = t := Host.Outcome.next.inj h
  exact hw.trans (keepsRecords_commit _ s)

theorem keepsRecords_takeWhen (h : s.takeWhen enabled work = .next t) (hw : enabled = true → s.KeepsRecords (work s)) :
    s.KeepsRecords t := by
  cases enabled with
  | true => exact keepsRecords_take h (hw rfl)
  | false =>
    obtain rfl : s = t := Host.Outcome.next.inj h
    exact .refl s

end

/-! ## Every command -/

theorem exec_keepsRecords (i : Instr) (s t : State) (h : exec i s = .next t) : s.KeepsRecords t := by
  cases i with dsimp only [exec] at h
  | powerOn a b =>
    obtain rfl : coldReset a b s = t := Host.Outcome.next.inj h
    exact ⟨fun _ => afterReset_recordsSound ..⟩
  | resetLine a b =>
    obtain rfl : coldReset a b s = t := Host.Outcome.next.inj h
    exact ⟨fun _ => afterReset_recordsSound ..⟩
  | restart p target =>
    unfold execRestart at h
    split at h
    · cases h; exact ⟨fun _ => afterReset_recordsSound ..⟩
    · exact keepsRecords_take h (keepsRecords_receiveAddressed s _ _ _ .refl)
  | go p n cause =>
    refine keepsRecords_take h (keepsRecords_receive s _ _ fun u => ?_)
    exact .ite (keepsRecords_countIgnored u) (.ite (keepsRecords_seq u _)
      (.ite (keepsRecords_countIgnored u) (keepsRecords_runGo u ..)))
  | goto p n fade reason =>
    refine keepsRecords_take h (keepsRecords_receive s _ _ fun u => ?_)
    exact .ite (keepsRecords_countIgnored u) (.ite (keepsRecords_seq u _)
      (.ite (keepsRecords_countIgnored u) (keepsRecords_takeGoto u ..)))
  | hold | resume =>
    exact keepsRecords_take h (keepsRecords_receive s _ _ fun u => .ite (keepsRecords_seq u _) (keepsRecords_seq u _))
  | linkTouch =>
    exact keepsRecords_take h (keepsRecords_receive s _ _ fun u => .ite (keepsRecords_countIgnored u)
      ((keepsRecords_countForeign u _).trans (.ite (keepsRecords_acceptTouch ..) (.refl _))))
  | linkState =>
    exact keepsRecords_take h (keepsRecords_receive s _ _ fun u =>
      (keepsRecords_countForeign u _).trans (.ite (keepsRecords_acceptTouch ..) (.refl _)))
  | linkRelease =>
    exact keepsRecords_take h (keepsRecords_receive s _ _ fun u => .ite (keepsRecords_countIgnored u)
      ((keepsRecords_countForeign u _).trans (.ite (keepsRecords_acceptRelease ..) (.refl _))))
  | malformedLink => exact keepsRecords_take h (keepsRecords_receive s _ _ keepsRecords_countIgnored)
  | muteGroup =>
    exact keepsRecords_take h (keepsRecords_receive s _ _ fun u =>
      .dite (fun _ => keepsRecords_countIgnored u) fun hp => keepsRecords_setAsserter u hp ..)
  | groupLevel =>
    exact keepsRecords_take h (keepsRecords_receive s _ _ fun u => .ite (.apart rfl) (keepsRecords_countIgnored u))
  | presence =>
    exact keepsRecords_take h (keepsRecords_receive s _ _ fun u =>
      .dite (fun _ => keepsRecords_countIgnored u) fun hp => keepsRecords_takePresence u hp ..)
  | statusRequest =>
    exact keepsRecords_take h (keepsRecords_receiveAddressed s _ _ _ fun u => .ite (.refl u) (keepsRecords_answerStatus u))
  | statusReply => exact keepsRecords_take h (keepsRecords_receive s _ _ .refl)
  | panelLock =>
    refine keepsRecords_take h (keepsRecords_receiveAddressed s _ _ _ fun u => ?_)
    have hu : u.KeepsRecords { u with pi.lockTaken := true } := keepsRecords_pi u _ rfl
    exact hu.trans (.ite (keepsRecords_lockPanel _) (.ite (keepsRecords_unlockPanel _) (.refl _)))
  | configBegin => exact keepsRecords_take h (keepsRecords_takeConfig s _ _ _ fun u => keepsRecords_sl_unread u _ rfl)
  | configItem => exact keepsRecords_take h (keepsRecords_takeConfig s _ _ _ fun u => keepsRecords_takeItem u ..)
  | configEnd =>
    exact keepsRecords_take h (keepsRecords_takeConfig s _ _ _ fun u =>
      (keepsRecords_closeAssembly u).trans (keepsRecords_endJoining _))
  | stepLoad =>
    exact keepsRecords_take h (keepsRecords_receiveAddressed s _ _ _ fun u =>
      keepsRecords_checkKey u _ _ _ fun _ => .ite (keepsRecords_cs u _) (keepsRecords_refuseLoad u _))
  | stepDelete =>
    exact keepsRecords_take h (keepsRecords_receiveAddressed s _ _ _ fun u =>
      keepsRecords_checkKey u _ _ _ fun _ => keepsRecords_cs u _)
  | headerLoad =>
    exact keepsRecords_take h (keepsRecords_receiveAddressed s _ _ _ fun u =>
      keepsRecords_checkCue u _ _ (.ite (keepsRecords_cs u _) (keepsRecords_refuseLoad u _)))
  | headerDelete | cueErase =>
    exact keepsRecords_take h (keepsRecords_receiveAddressed s _ _ _ fun u =>
      keepsRecords_checkCue u _ _ (keepsRecords_cs u _))
  | bankSet =>
    refine keepsRecords_take h (keepsRecords_receiveAddressed s _ _ _ fun u => ?_)
    split
    · exact keepsRecords_refuseLoad u _
    · exact keepsRecords_cs u _
  | tableClear => exact keepsRecords_take h (keepsRecords_receiveAddressed s _ _ _ fun u => keepsRecords_cs u _)
  | ignoredFrame frame =>
    refine keepsRecords_take h ?_
    cases frame with
    | senderZero | unknownKind | tooFewBytes => exact (keepsRecords_clash s _).trans (keepsRecords_countIgnored _)
    | extended | remote => exact keepsRecords_countReceived s
  | receiveError => exact keepsRecords_take h (keepsRecords_rxErrors s _ fun _ => min_le_right ..)
  | recessiveRun => exact keepsRecords_takeWhen h (keepsRecords_recessiveRun s)
  | linkOffEnd => exact keepsRecords_takeWhen h fun _ => keepsRecords_endLinkOff s
  | frameOffer =>
    refine keepsRecords_takeWhen h fun hoffer => keepsRecords_offer s ?_
    simp only [Bool.and_eq_true, Bool.not_eq_true'] at hoffer
    obtain ⟨⟨⟨hidle, -⟩, -⟩, -⟩ := hoffer
    exact hidle
  | lostArbitration => exact keepsRecords_takeWhen h fun _ => keepsRecords_lose s
  | txError kind => exact keepsRecords_takeWhen h (keepsRecords_txError s kind)
  | txSuccess => exact keepsRecords_takeWhen h (keepsRecords_txSuccess s)
  | frameCount =>
    have hs : ∀ q : Sequencer, s.KeepsRecords { s with seq := q, fe.frameTimer := .running Config.frameMs } :=
      fun q => (keepsRecords_seq s q).trans (keepsRecords_fe _ _)
    exact keepsRecords_take h (.ite (hs _) ((hs _).trans (keepsRecords_followChain ..)))
  | followExpiry => exact keepsRecords_takeWhen h fun _ => keepsRecords_followChain s _
  | advance => exact keepsRecords_take h (.ite (.refl s) (keepsRecords_advanceFades s))
  | fadeComplete => exact keepsRecords_takeWhen h fun _ => keepsRecords_fe s _
  | pendingStepStart =>
    exact keepsRecords_takeWhen h fun _ => (keepsRecords_fe s _).trans (.foldl _ keepsRecords_startStep _ _)
  | glideTimer => exact keepsRecords_take h (keepsRecords_tk s _)
  | returnGlideEnd => exact keepsRecords_takeWhen h fun _ => keepsRecords_tk s _
  | recoveryTimer => exact keepsRecords_take h (keepsRecords_gc s _)
  | recoveryGlideEnd => exact keepsRecords_takeWhen h fun _ => keepsRecords_gc s _
  | calibrationReading =>
    exact keepsRecords_takeWhen h fun _ => (keepsRecords_scanOn s _).trans (keepsRecords_readReference ..)
  | faderReading => exact keepsRecords_takeWhen h fun _ => (keepsRecords_scanOn s _).trans (keepsRecords_readFader ..)
  | spareSlotReading => exact keepsRecords_takeWhen h fun _ => keepsRecords_scanOn s _
  | touchLineActive =>
    exact keepsRecords_takeWhen h fun _ =>
      .ite ((keepsRecords_modifyTouch s ..).trans (keepsRecords_beginTouch ..)) (keepsRecords_modifyTouch s ..)
  | touchLineInactive =>
    exact keepsRecords_takeWhen h fun _ =>
      .ite ((keepsRecords_modifyTouch s ..).trans (keepsRecords_endTouch ..)) (keepsRecords_modifyTouch s ..)
  | quietTimerExpiry =>
    exact keepsRecords_takeWhen h fun _ => (keepsRecords_modifyTouch s ..).trans (keepsRecords_endTouch ..)
  | goKeyPress => exact keepsRecords_takeWhen h fun _ => keepsRecords_pressKey s _ _ keepsRecords_goKeyRequest
  | backKeyPress => exact keepsRecords_takeWhen h fun _ => keepsRecords_pressKey s _ _ keepsRecords_backKeyRequest
  | stopKeyPress => exact keepsRecords_takeWhen h fun _ => keepsRecords_pressKey s _ _ keepsRecords_stopKeyRequest
  | muteKeyPress =>
    exact keepsRecords_takeWhen h fun _ => keepsRecords_pressKey s _ _ fun u => keepsRecords_togglePanelMute u _
  | groupKeyPress =>
    exact keepsRecords_takeWhen h fun _ => keepsRecords_pressKey s _ _ fun u => keepsRecords_toggleAssertion u _
  | keyRelease => exact keepsRecords_take h (.apart rfl)
  | unlockTimerExpiry => exact keepsRecords_takeWhen h fun _ => keepsRecords_pi s _ rfl
  | staleTimerExpiry => exact keepsRecords_takeWhen h fun _ => keepsRecords_modifyMaster s ..
  | groupRefreshExpiry =>
    have hs : s.KeepsRecords { s with sg.refreshTimer := .running Config.groupRefreshMs } := .apart rfl
    exact keepsRecords_take h (hs.trans (keepsRecords_queueLevels _))
  | gainRefreshExpiry => exact keepsRecords_take h (keepsRecords_gainRefresh s)
  | presenceTimerExpiry =>
    have hs : s.KeepsRecords { s with sl.presenceTimer := .running Config.presenceMs } := keepsRecords_sl_unread s _ rfl
    exact keepsRecords_take h (hs.trans (keepsRecords_queuePresence _))
  | aloneTimerExpiry | clashTimerExpiry => exact keepsRecords_takeWhen h fun _ => keepsRecords_sl_unread s _ rfl
  | silenceTimerExpiry => exact keepsRecords_takeWhen h fun _ => keepsRecords_losePeer s _
  | windowTimerExpiry => exact keepsRecords_takeWhen h fun _ => keepsRecords_endJoining s
  | limitTimerExpiry =>
    have hs : s.KeepsRecords { s.setFlag .configRejected with sl.assembly := none } := .apart rfl
    exact keepsRecords_takeWhen h fun _ => hs.trans (keepsRecords_endJoining _)
  | indicatorTimerExpiry => exact keepsRecords_take h (keepsRecords_indicatorTimer s)
  | burstTimerExpiry => exact keepsRecords_takeWhen h fun _ => .apart rfl
  | levelTransfer =>
    unfold execLevelTransfer at h
    split at h
    · next hq => exact keepsRecords_take h (keepsRecords_beginLevel s hq)
    · cases h; exact .refl s
  | transferComplete gin =>
    unfold execTransferComplete at h
    split at h
    · cases h; exact .refl s
    · cases h
      exact ((keepsRecords_readReport s gin).trans (keepsRecords_commit _ s)).trans (keepsRecords_endTransfer _ _)

/-- Settles O59: what waits behind the front command is not read, and every command keeps the records sound. -/
theorem queuesAndRecordsKept : Obligations.QueuesAndRecordsKept := by
  intro s t hqueue herrors hmarks hassertions hfaults h
  have hs : s.RecordsSound := ⟨hqueue, herrors, hmarks, hassertions, hfaults⟩
  have ht : t.RecordsSound := by
    unfold step at h
    split at h
    · obtain rfl : s = t := Host.Outcome.next.inj h
      exact hs
    · next i rest _ => exact (exec_keepsRecords i { s with pending := rest } t h).sound (hs.congr rfl)
  exact ⟨ht.queue, ht.errors, ht.marks, ht.assertions, ht.faults⟩

end Sys2Proof.Machine

/-! SUPPORT. The reception of a frame: from a peer, and with this station's own number (R127, R133, R143, R144, R148, R150, R151, R158); it
settles O17. -/

namespace Sys2Proof.Machine

section
variable {s : State} {p : Station}

/-- A frame from a peer leaves its entry PRESENT, and if it was not so before, ends the alone timer and condition. -/
theorem heard_peer_eq (hp : p ≠ s.sl.station) :
    s.heard p =
      { s with
        sl.rxErrors := s.sl.rxErrors - 1
        sl.peer := s.sl.peer.modify p Peer.heard
        sl.aloneTimer := if (s.sl.peer.get p).state = .present then s.sl.aloneTimer else .stopped
        sl.aloneCond := if (s.sl.peer.get p).state = .present then s.sl.aloneCond else false } := by
  rw [heard_eq hp, State.hearPeer_eq]
  rfl

theorem modify_heard (peer : Table 32 Peer) (p q : Station) :
    (peer.modify p Peer.heard).get q =
      if q = p then { peer.get p with state := .present, silence := .running 1000 } else peer.get q := by
  rw [Table.get_modify]
  by_cases hq : q = p
  · subst hq
    rw [if_pos rfl, if_pos rfl]
    rfl
  · rw [if_neg (Ne.symm hq), if_neg hq]

theorem execStatusReply_from (hp : p ≠ 0) : execStatusReply p s = .next ((s.heard p).commit s) := by
  rw [execStatusReply, State.take_eq, State.receive_from hp]

/-- A frame with this station's own number begins the clash. -/
theorem heard_own (s : State) : s.heard s.sl.station = s.countReceived.beginClash := if_pos rfl

/-- The clash sets STATION_CLASH, where the condition was absent, at once (R144), and otherwise if FI had not taken it (R176). -/
theorem heard_own_flag (s : State) :
    ((s.heard s.sl.station).commit s).flag .stationClash = (s.flag .stationClash || !s.sl.clashCond || !s.fi.taken.get 7) := by
  have hset : (s.heard s.sl.station).flag .stationClash = (s.flag .stationClash || !s.sl.clashCond) := by
    rw [heard_own]
    show (if s.sl.clashCond then s.fi.flags else s.fi.flags.set 7 true).get 7 = _
    cases s.sl.clashCond with
    | true => rw [Bool.not_true, Bool.or_false]; rfl
    | false => rw [Bool.not_false, Bool.or_true, if_neg Bool.false_ne_true, Table.get_set_self]
  have hpresent : (s.heard s.sl.station).condition .stationClash = true := by rw [heard_own]; rfl
  have htaken : (s.heard s.sl.station).fi.taken = s.fi.taken := by rw [heard_own]; rfl
  rw [commit_flag, hset, hpresent, htaken, Bool.true_and]
  rfl

/-! What a station sends of its own is counted where it is heard with its own number (R127, R133, R144). -/

theorem execPresence_own (h : s.sl.station ≠ 0) (joining held : Bool) (cue : Cue) (mask : BitVec 16) (summary : BitVec 8) :
    execPresence s.sl.station joining held cue mask summary s = .next ((s.heard s.sl.station).countIgnored.commit s) := by
  rw [execPresence, State.take_eq, State.receive_from h, if_pos (State.heard_sl_station ..).symm]

theorem execMuteGroup_own (h : s.sl.station ≠ 0) (g : GroupNo) (b : Bool) :
    execMuteGroup s.sl.station g b s = .next ((s.heard s.sl.station).countIgnored.commit s) := by
  rw [execMuteGroup, State.take_eq, State.receive_from h, if_pos (State.heard_sl_station ..).symm]

theorem execGroupLevel_own (h : s.sl.station ≠ 0) (m : MasterNo) (level : BitVec 11) :
    execGroupLevel s.sl.station m level s = .next ((s.heard s.sl.station).countIgnored.commit s) := by
  rw [execGroupLevel, State.take_eq, State.receive_from h, if_neg fun k => k.1 (State.heard_sl_station ..).symm]

end

/-- Settles O17: a peer's frame renews its entry, an own number begins the clash, and the clash timer ends it. -/
theorem reception : Obligations.Reception := by
  refine ⟨fun p s h0 hp => ⟨_, modify_heard s.sl.peer p, heard_peer_eq hp, execStatusReply_from h0⟩, fun s => ⟨fun hown => ?_, ?_⟩⟩
  · exact ⟨heard_own s, heard_own_flag s, execPresence_own hown, execMuteGroup_own hown, execGroupLevel_own hown⟩
  · exact fun hrun => State.takeWhen_enabled (by simpa using hrun) _

end Sys2Proof.Machine

/-! SUPPORT. The expiries of the refresh, recovery, indicator and burst timers, and of the window's timers that are stopped (R126, R154,
R168, R175, R178); it settles O50. -/

namespace Sys2Proof.Machine

/-! ## The refresh of the masters (R126; log 23) -/

/-- SG's refresh timer runs anew. -/
def State.refreshed (s : State) : State := { s with sg.refreshTimer := .running 500 }

theorem exec_groupRefreshExpiry (s : State) :
    exec .groupRefreshExpiry s = .next ((s.refreshed.enqueueAll s.levelAnswers).commit s) := by
  show Host.Outcome.next ((State.queueLevels s.refreshed).commit s) = _
  rw [queueLevels_eq]
  rfl

/-- What a silent station queues is discarded (R141). -/
theorem enqueueAll_silent {s : State} (h : s.sl.station = 0) (ms : List Msg) : s.enqueueAll ms = s := by
  induction ms with
  | nil => rfl
  | cons m ms ih =>
    show (s.enqueue m).enqueueAll ms = s
    rw [State.enqueue, if_pos h, ih]

/-- The GROUP_LEVELs of the FRESH masters owned here, with the owner spelt out. -/
theorem levelAnswers_eq (s : State) :
    s.levelAnswers =
      ((List.finRange 8).filter fun m =>
        decide ((s.config.master.get m).owner = some s.sl.station) && (s.sg.master.get m).fresh).map
          fun m => .groupLevel m (s.sg.master.get m).level :=
  congrArg (List.map _) (List.filter_congr fun m _ => by rw [Bool.eq_iff_iff]; simp [State.ownedHere])

theorem levelAnswers_length (s : State) : s.levelAnswers.length ≤ 8 := by
  rw [State.levelAnswers, List.length_map]
  exact (List.length_filter_le ..).trans (List.length_finRange (n := 8)).le

theorem enqueueAll_levelAnswers {s : State} (hn : s.sl.station ≠ 0) (hb : s.busOff = false) (hq : s.sl.queue = []) :
    s.refreshed.enqueueAll s.levelAnswers = s.refreshed.withQueue (s.levelAnswers.map Msg.waiting) := by
  have hempty : s.refreshed = s.refreshed.withQueue [] := by
    rw [← hq]
    rfl
  have hroom : ([] : List Msg).length + s.levelAnswers.length ≤ 16 := by
    have hlength := levelAnswers_length s
    simp only [List.length_nil]
    omega
  conv_lhs => rw [hempty]
  exact enqueueAll_last (s := s.refreshed) (as := []) hn hb hroom (levelAnswers_pairwise s)

/-! ## Recovery glides (R175) -/

namespace ComposerChannel

variable {g : ComposerChannel} {r : Glide}

theorem endGlide_due (h : g.glide = some r) (hd : r.duration ≤ r.elapsed) :
    g.endGlide = { g with action := .none, glide := none } := by simp only [endGlide, h, if_pos hd]

theorem endGlide_running (h : g.glide = some r) (hr : r.elapsed < r.duration) : g.endGlide = g := by
  simp only [endGlide, h, if_neg (Nat.not_le.mpr hr)]

theorem advanceGlide_still (h : g.glide = none) : g.advanceGlide = g := by simp only [advanceGlide, h]

theorem advanceGlide_running (h : g.glide = some r) (hr : r.elapsed + 1 < r.duration) :
    g.advanceGlide = { g with glide := some { r with elapsed := r.elapsed + 1 } } := by
  simp only [advanceGlide, h]
  exact endGlide_running rfl hr

theorem advanceGlide_due (h : g.glide = some r) (hd : r.duration ≤ r.elapsed + 1) :
    g.advanceGlide = { g with action := .none, glide := none } := by
  simp only [advanceGlide, h]
  exact endGlide_due rfl hd

end ComposerChannel

theorem execRecoveryGlideEnd_gliding {s : State} {c : Channel} {r : Glide} (h : (s.gc.chan.get c).glide = some r) :
    execRecoveryGlideEnd c s =
      s.takeWhen (decide (r.duration ≤ r.elapsed)) fun s => { s with gc.chan := s.gc.chan.modify c ComposerChannel.endGlide } := by
  unfold execRecoveryGlideEnd
  rw [h]

/-! ## The timers, one by one -/

section
variable (s : State)

theorem recoveryTimer_advances :
    ∃ chan, exec .recoveryTimer s = .next ({ s with gc.chan := chan, gc.recoveryTimer := .running 10 }.commit s) ∧
      ∀ c, chan.get c = (s.gc.chan.get c).advanceGlide :=
  ⟨_, rfl, fun _ => Table.get_mapAt ..⟩

theorem recoveryGlideEnd_due {c : Channel} {r : Glide} (h : (s.gc.chan.get c).glide = some r) (hd : r.duration ≤ r.elapsed) :
    ∃ chan, exec (.recoveryGlideEnd c) s = .next ({ s with gc.chan := chan }.commit s) ∧
      ∀ d, chan.get d =
        if d = c then { s.gc.chan.get c with action := .none, glide := none } else s.gc.chan.get d := by
  refine ⟨s.gc.chan.modify c ComposerChannel.endGlide, ?_, fun d => ?_⟩
  · exact (execRecoveryGlideEnd_gliding h).trans (State.takeWhen_enabled (decide_eq_true hd) _)
  · rw [Table.get_modify]
    by_cases hdc : d = c
    · subst hdc
      rw [if_pos rfl, if_pos rfl, ComposerChannel.endGlide_due h hd]
    · rw [if_neg (Ne.symm hdc), if_neg hdc]

theorem recoveryGlideEnd_early {c : Channel} {r : Glide} (h : (s.gc.chan.get c).glide = some r) (hr : r.elapsed < r.duration) :
    exec (.recoveryGlideEnd c) s = .next s :=
  (execRecoveryGlideEnd_gliding h).trans (State.takeWhen_idle (decide_eq_false (Nat.not_le.mpr hr)) _)

end

/-- Settles O50, timer by timer. -/
theorem otherTimersExpire : Obligations.OtherTimersExpire := by
  refine fun s => ⟨fun h => ?window, fun h => ?limit, ⟨fun h => ?quiet, fun hn hb hq => ?refresh⟩, ?gain, ?recovery,
    fun c r hr => ⟨recoveryGlideEnd_due s hr, recoveryGlideEnd_early s hr⟩, ?indicator, fun h => ?burst, fun h => ?still⟩
  case window => exact State.takeWhen_idle (by rw [h]; rfl) _
  case limit => exact State.takeWhen_idle (by rw [h]; rfl) _
  case quiet =>
    have hnothing : s.refreshed.enqueueAll s.levelAnswers = s.refreshed := by
      rcases h with hsilent | hnone
      · exact enqueueAll_silent (s := s.refreshed) hsilent _
      · rw [levelAnswers_eq, hnone]
        rfl
    rw [exec_groupRefreshExpiry, hnothing]
    rfl
  case refresh =>
    rw [exec_groupRefreshExpiry, enqueueAll_levelAnswers hn hb hq, levelAnswers_eq, List.map_map]
    rfl
  case gain => rfl
  case recovery =>
    obtain ⟨chan, hexec, hchan⟩ := recoveryTimer_advances s
    refine ⟨chan, hexec, fun c => ⟨fun hg => ?_, fun r hg => ⟨fun hr => ?_, fun hd => ?_⟩⟩⟩
    · rw [hchan, ComposerChannel.advanceGlide_still hg]
    · rw [hchan, ComposerChannel.advanceGlide_running hg hr]
    · rw [hchan, ComposerChannel.advanceGlide_due hg hd]
  case indicator => rfl
  case burst => exact State.takeWhen_enabled (by simpa using h) _
  case still => exact State.takeWhen_idle (by rw [h]; rfl) _

end Sys2Proof.Machine

/-! SUPPORT. A STATUS_REQUEST: the five parts queued, the spent flags cleared, nothing else changed (R141, R158, R177); it settles
O40. -/

namespace Sys2Proof.Machine

/-! ## An event that leaves the composer's inputs (R15, R162, R173) -/

/-- `w` has the composer of `s` and all that it reads as in `s`. -/
structure State.ComposesAs (s w : State) : Prop where
  gc : w.gc = s.gc
  config : w.config = s.config
  handed : w.fi.effective = s.fi.effective
  level : ∀ c, w.composedLevel c = s.composedLevel c
  action : ∀ c, w.effectiveAction c = s.effectiveAction c

section
variable {s w : State}

/-- An event whose channels keep their applied levels marks none (R162). -/
theorem commit_unmarked (h : ∀ c, (w.settle.gc.chan.get c).applied = (s.gc.chan.get c).applied) : w.commit s = w.settle := by
  unfold State.commit State.markChanges
  refine forEach_keeps (fun t => t = w.settle) _ (fun c t ht => ?_) w.settle rfl
  rw [if_pos (h c), ht]

theorem State.ComposesAs.settle_gc (h : s.ComposesAs w) (ho : s.OutputsAgree) (ha : s.ActionsLegal) : w.settle.gc = s.gc := by
  have hchannel : w.composeChannel = s.composeChannel := by
    funext c g
    simp only [State.composeChannel, h.level, h.action, h.handed, h.config]
  have hcompose : w.compose.gc = s.compose.gc := by
    simp only [State.compose, hchannel, h.gc]
  rw [State.settle, State.drive_gc, State.takeConditions_gc, hcompose, compose_of_agrees ho ha]

theorem State.ComposesAs.commit_gc_gp (h : s.ComposesAs w) (ho : s.OutputsAgree) (ha : s.ActionsLegal) :
    (w.commit s).gc = s.gc ∧ (w.commit s).gp = w.gp := by
  have hgc := h.settle_gc ho ha
  rw [commit_unmarked fun c => by rw [hgc]]
  exact ⟨hgc, w.settle_gp⟩

end

/-! ## What the reception of a frame leaves (R143, R144, R150) -/

section
variable (s : State) (p : Station)

theorem heard_busOff : (s.heard p).busOff = s.busOff := by rw [State.busOff, State.heard_sl_txErrors, State.busOff]

theorem heard_taken : (s.heard p).fi.taken = s.fi.taken := by
  by_cases hp : p = s.sl.station
  · subst hp
    rw [heard_own]
    rfl
  · rw [heard_fi hp]

theorem heard_effective : (s.heard p).fi.effective = s.fi.effective := by
  by_cases hp : p = s.sl.station
  · subst hp
    rw [heard_own]
    rfl
  · rw [heard_fi hp]

theorem heard_groupStale (c : Channel) : (s.heard p).groupStale c = s.groupStale c := by
  simp only [State.groupStale, State.inMaster, State.heard_config, State.heard_sg]

theorem heard_sourceLevel (c : Channel) : (s.heard p).sourceLevel c = s.sourceLevel c := by
  simp [State.sourceLevel, State.faderLevel]

theorem heard_masterLevels (c : Channel) : (s.heard p).masterLevels c = s.masterLevels c := by
  simp [State.masterLevels, State.inMaster]

theorem heard_isMuted (c : Channel) : (s.heard p).isMuted c = s.isMuted c := by
  simp [State.isMuted, State.groupMuted, State.inGroup, State.muting]

theorem heard_composedLevel (c : Channel) : (s.heard p).composedLevel c = s.composedLevel c := by
  simp only [State.composedLevel, heard_isMuted, heard_sourceLevel, heard_masterLevels, State.heard_config]

theorem heard_effectiveAction (c : Channel) : (s.heard p).effectiveAction c = s.effectiveAction c := by
  simp only [State.effectiveAction, State.channelConditions, State.heard_config, State.heard_pi, State.heard_gp,
    heard_groupStale, heard_busOff]

theorem heard_composesAs : s.ComposesAs (s.heard p) :=
  ⟨State.heard_gc .., State.heard_config .., heard_effective .., heard_composedLevel s p, heard_effectiveAction s p⟩

/-- A condition that a frame makes present has its flag set at once: the clash alone is one (R144, R176). -/
theorem heard_new_condition {f : Flag} (h : (s.heard p).condition f = true) (hs : s.condition f = false) :
    (s.heard p).flag f = true := by
  by_cases hp : p = s.sl.station
  · subst hp
    rw [heard_own] at h ⊢
    cases f
    case stationClash =>
      have hclash : s.countReceived.sl.clashCond = false := hs
      show (if s.countReceived.sl.clashCond then s.countReceived.fi.flags else s.countReceived.fi.flags.set 7 true).get 7 = true
      rw [hclash, if_neg Bool.false_ne_true, Table.get_set_self]
    all_goals exact absurd (hs.symm.trans h) Bool.false_ne_true
  · have hcond : (s.heard p).condition f = true → s.condition f = true := by
      rw [heard_eq hp, State.hearPeer_eq]
      cases f
      case linkAlone =>
        show (if _ then s.sl.aloneCond else false) = true → s.sl.aloneCond = true
        split
        · exact id
        · nofun
      all_goals exact id
    exact absurd (hs.symm.trans (hcond h)) Bool.false_ne_true

end

/-! ## The answer (R158, R177) -/

section
variable {s : State}

/-- The five parts of a state, as messages (R158). -/
def State.statusReplies (s : State) : List Msg := (List.finRange 5).map fun part => .statusReply part (s.statusPart part)

/-- The parts neither coalesce nor overtake one another. -/
theorem statusReplies_pairwise (s : State) : s.statusReplies.Pairwise Msg.Follows :=
  List.pairwise_map.mpr ((List.nodup_finRange 5).imp fun _ => ⟨rfl, le_rfl⟩)

theorem answerStatus_eq (hn : s.sl.station ≠ 0) (hb : s.busOff = false) (hq : s.sl.queue = []) :
    s.answerStatus = (s.withQueue (s.statusReplies.map Msg.waiting)).clearSpent := by
  have hqueued : s.enqueueAll s.statusReplies = s.withQueue (s.statusReplies.map Msg.waiting) := by
    have hempty : s = s.withQueue [] := by
      rw [← hq]
      rfl
    conv_lhs => rw [hempty]
    exact enqueueAll_last (as := []) hn hb (by simp [State.statusReplies]) (statusReplies_pairwise s)
  rw [← hqueued, State.enqueueAll, State.statusReplies, List.foldl_map]
  rfl

theorem withQueue_condition (q : List TxEntry) (f : Flag) : (s.withQueue q).condition f = s.condition f := by cases f <;> rfl

theorem statusReplied_flag (q : List TxEntry) (f : Flag) :
    (s.withQueue q).clearSpent.flag f = (s.flag f && s.condition f) := by
  rw [clearSpent_flag, withQueue_condition]
  rfl

theorem State.ComposesAs.statusReplied {w : State} (h : s.ComposesAs w) (q : List TxEntry) :
    s.ComposesAs (w.withQueue q).clearSpent := ⟨h.gc, h.config, h.handed, h.level, h.action⟩

end

/-- Settles O40: what is queued and cleared touches neither the composer's inputs nor the conditions. -/
theorem statusRequestAnswered : Obligations.StatusRequestAnswered := by
  intro p target s h0 ht ho ha w
  have hexec : exec (.statusRequest p target) s = .next ((if w.sl.station = 0 then w else w.answerStatus).commit s) :=
    next_commit_congr (State.receiveAddressed_taken h0 ht _) s
  have hstation : w.sl.station = s.sl.station := State.heard_sl_station s p
  refine ⟨fun hsilent => ?silent, fun hn hb hq => ?answers⟩
  case silent => rw [hexec, if_pos (hstation.trans hsilent)]
  case answers =>
    have hanswer := answerStatus_eq (s := w) (hstation ▸ hn) ((heard_busOff s p).trans hb) ((State.heard_sl_queue s p).trans hq)
    generalize hqueue : w.statusReplies.map Msg.waiting = queue at hanswer
    obtain ⟨hgc, hgp⟩ := ((heard_composesAs s p).statusReplied queue).commit_gc_gp ho ha
    refine ⟨(w.withQueue queue).clearSpent.commit s, by rw [hexec, if_neg (hstation ▸ hn), hanswer],
      (State.commit_cs ..).trans (State.heard_cs s p), (State.commit_seq ..).trans (State.heard_seq s p),
      (State.commit_fe ..).trans (State.heard_fe s p), (State.commit_pi ..).trans (State.heard_pi s p),
      (State.commit_tk ..).trans (State.heard_tk s p), (State.commit_sg ..).trans (State.heard_sg s p),
      hgp.trans (State.heard_gp s p), hgc, (State.commit_sl ..).trans ?sl, fun f => ?flag,
      (State.commit_fi_counters ..).trans (State.heard_fi_counters s p),
      (State.commit_fi_lastReason ..).trans (State.heard_fi_lastReason s p)⟩
    case sl =>
      rw [← hqueue, State.statusReplies, List.map_map]
      rfl
    case flag =>
      have htaken : (w.withQueue queue).clearSpent.fi.taken.get f.bit = s.condition f :=
        (congrArg (Table.get · f.bit) (heard_taken s p)).trans (ho.taken f)
      have hnew : (w.condition f && !s.condition f) = true → w.flag f = true := fun h => by
        obtain ⟨hpresent, habsent⟩ := Bool.and_eq_true_iff.mp h
        exact heard_new_condition s p hpresent (by simpa using habsent)
      rw [commit_flag, statusReplied_flag, clearSpent_condition, withQueue_condition, htaken]
      cases hcond : w.condition f && !s.condition f with
      | false => rw [Bool.or_false]
      | true => rw [hnew hcond, (Bool.and_eq_true_iff.mp hcond).1, Bool.true_and, Bool.or_true]

end Sys2Proof.Machine

/-! SUPPORT. How a message joins the transmit queue: coalesced, placed, at the expense of the newest worst entry, or not (R145 to
R147); it settles O42. -/

namespace Sys2Proof.Machine

/-! ## Coalescing keys (R146) -/

theorem Msg.sameKey_cases (m x : Msg) : m.sameKey x = true ↔
    (∃ k y y', m = .groupLevel k y ∧ x = .groupLevel k y') ∨
    (∃ l a n p b y a' n' p' b' y', m = .link l a n p b y ∧ x = .link l a' n' p' b' y') ∨
    ∃ j b c k f b' c' k' f', m = .presence j b c k f ∧ x = .presence j b' c' k' f' := by
  constructor
  · intro h
    unfold Msg.sameKey at h
    split at h
    case h_1 => obtain rfl := beq_iff_eq.mp h; exact .inl ⟨_, _, _, rfl, rfl⟩
    case h_2 => obtain rfl := beq_iff_eq.mp h; exact .inr (.inl ⟨_, _, _, _, _, _, _, _, _, _, _, rfl, rfl⟩)
    case h_3 => obtain rfl := beq_iff_eq.mp h; exact .inr (.inr ⟨_, _, _, _, _, _, _, _, _, rfl, rfl⟩)
    case h_4 => cases h
  · rintro (⟨k, y, y', rfl, rfl⟩ | ⟨l, a, n, p, b, y, a', n', p', b', y', rfl, rfl⟩ |
      ⟨j, b, c, k, f, b', c', k', f', rfl, rfl⟩)
    all_goals exact beq_self_eq_true _

/-! ## Places in an ordered queue (R145) -/

section
variable {q : List TxEntry}

/-- An ordered queue parts at every kind. -/
theorem exists_parts (h : q.Pairwise fun a b => a.msg.kind ≤ b.msg.kind) (k : Nat) :
    ∃ a b, q = a ++ b ∧ (∀ x ∈ a, x.msg.kind ≤ k) ∧ ∀ x ∈ b, k < x.msg.kind := by
  induction q with
  | nil => exact ⟨[], [], rfl, by simp, by simp⟩
  | cons y q ih =>
    obtain ⟨hy, hq⟩ := List.pairwise_cons.mp h
    by_cases hk : y.msg.kind ≤ k
    · obtain ⟨a, b, rfl, ha, hb⟩ := ih hq
      exact ⟨y :: a, b, rfl, List.forall_mem_cons.mpr ⟨hk, ha⟩, hb⟩
    · have hlater : k < y.msg.kind := not_le.mp hk
      exact ⟨[], y :: q, rfl, by simp, List.forall_mem_cons.mpr ⟨hlater, fun x hx => hlater.trans_le (hy x hx)⟩⟩

/-- The place of a message in an ordered queue: behind every entry of its kind or a lower one, before all others. -/
theorem placeEntry_parts (h : q.Pairwise fun a b => a.msg.kind ≤ b.msg.kind) (e : TxEntry) :
    ∃ a b, q = a ++ b ∧ (∀ x ∈ a, x.msg.kind ≤ e.msg.kind) ∧ (∀ x ∈ b, e.msg.kind < x.msg.kind) ∧
      placeEntry e q = a ++ e :: b := by
  obtain ⟨a, b, rfl, ha, hb⟩ := exists_parts h e.msg.kind
  exact ⟨a, b, rfl, ha, hb, placeEntry_between ha hb⟩

/-! ## The worst waiting entries (R147) -/

theorem foldl_max_kind_le_iff (q : List TxEntry) (n k : Nat) :
    q.foldl (fun k e => max k e.msg.kind) n ≤ k ↔ n ≤ k ∧ ∀ e ∈ q, e.msg.kind ≤ k := by
  induction q generalizing n with
  | nil => simp
  | cons x q ih => rw [List.foldl_cons, ih, max_le_iff, List.forall_mem_cons, and_assoc]

theorem worstKind_le_iff (q : List TxEntry) (k : Nat) :
    worstKind q ≤ k ↔ ∀ e ∈ q, e.sending = none → e.msg.kind ≤ k := by
  rw [worstKind, foldl_max_kind_le_iff]
  simp [List.mem_filter]

variable {x : TxEntry} {a b : List TxEntry}

/-- The kind of a waiting entry that no other one exceeds. -/
theorem worstKind_eq (hx : x.sending = none) (hworst : ∀ y ∈ a ++ b, y.sending = none → y.msg.kind ≤ x.msg.kind) :
    worstKind (a ++ x :: b) = x.msg.kind := by
  refine le_antisymm ((worstKind_le_iff ..).mpr fun y hy hwaits => ?_) ?_
  · rcases List.mem_append.mp hy with hy | hy
    · exact hworst y (List.mem_append_left _ hy) hwaits
    · rcases List.mem_cons.mp hy with rfl | hy
      · exact le_rfl
      · exact hworst y (List.mem_append_right _ hy) hwaits
  · exact (worstKind_le_iff ..).mp le_rfl x (by simp) hx

/-- The newest waiting entry of its kind is the one that leaves. -/
theorem dropNewest_eq (hx : x.sending = none) (hnewest : ∀ y ∈ b, y.sending = none → y.msg.kind ≠ x.msg.kind) :
    dropNewest x.msg.kind (a ++ x :: b) = a ++ b := by
  have hpass : ∀ y ∈ b.reverse, ¬(y.sending.isNone && y.msg.kind == x.msg.kind) = true := fun y hy h => by
    obtain ⟨hwaits, hkind⟩ := Bool.and_eq_true_iff.mp h
    exact hnewest y (List.mem_reverse.mp hy) (Option.isNone_iff_eq_none.mp hwaits) (beq_iff_eq.mp hkind)
  rw [dropNewest, List.reverse_append, List.reverse_cons, List.append_assoc, List.eraseP_append_right _ hpass]
  simp [hx]

end

/-! ## A message joins (R145 to R147) -/

section
variable {m : Msg} {q : List TxEntry}

theorem joinQueue_keyed (h : ∃ x ∈ q, m.sameKey x.msg = true) : joinQueue m q = (amendKey m q, false) :=
  if_pos (List.any_eq_true.mpr h)

theorem joinQueue_room (hkey : ¬∃ x ∈ q, m.sameKey x.msg = true) (h : q.length < 16) :
    joinQueue m q = (placeEntry m.waiting q, false) :=
  (if_neg (mt List.any_eq_true.mp hkey)).trans (if_pos h)

theorem joinQueue_full (hkey : ¬∃ x ∈ q, m.sameKey x.msg = true) (h : 16 ≤ q.length) :
    joinQueue m q =
      (if m.kind < worstKind q then placeEntry m.waiting (dropNewest (worstKind q) q) else q, true) := by
  refine (if_neg (mt List.any_eq_true.mp hkey)).trans ((if_neg (Nat.not_lt.mpr h)).trans ?_)
  split <;> rfl

variable {s : State} {r : List TxEntry}

theorem enqueue_linkOff (hn : s.sl.station ≠ 0) (hb : s.busOff = true) : s.enqueue m = s.countDrop := by
  rw [State.enqueue, if_neg hn, if_pos hb]

theorem enqueue_joined (hn : s.sl.station ≠ 0) (hb : s.busOff = false) (h : joinQueue m s.sl.queue = (r, false)) :
    s.enqueue m = s.withQueue r := by
  rw [State.enqueue, if_neg hn, if_neg (by rw [hb]; nofun)]
  dsimp only
  rw [h]
  rfl

/-- Whichever message is dropped, TX_OVERFLOW is set and the drop counted. -/
theorem enqueue_overflowing (hn : s.sl.station ≠ 0) (hb : s.busOff = false) (h : joinQueue m s.sl.queue = (r, true)) :
    s.enqueue m = ((s.withQueue r).setFlag .txOverflow).countDrop := by
  rw [State.enqueue, if_neg hn, if_neg (by rw [hb]; nofun)]
  dsimp only
  rw [h]
  rfl

end

/-- Settles O42, by what becomes of the message: coalesced, placed in a queue with room, or at the cost of a drop in a full one. -/
theorem messageJoinsTheQueue : Obligations.MessageJoinsTheQueue := by
  refine ⟨fun m => by cases m <;> rfl, Msg.sameKey_cases, ?_⟩
  intro m s q u drops e keyed
  refine ⟨State.enqueue_eq s m, fun hsilent => if_pos hsilent, fun hn hb => enqueue_linkOff hn hb, fun hn hb =>
    ⟨fun hkeyed => ?coalesced, fun hkeyed hroom hlegal => ?placed, fun hkeyed hfull hlegal => ?full⟩⟩
  case coalesced => exact enqueue_joined hn hb (joinQueue_keyed hkeyed)
  case placed =>
    obtain ⟨a, b, hq, ha, hb', hplace⟩ := placeEntry_parts hlegal.order e
    refine ⟨a, b, hq, ha, hb', ?_⟩
    rw [← hplace]
    exact enqueue_joined hn hb (joinQueue_room hkeyed hroom)
  case full =>
    have hu := enqueue_overflowing hn hb (joinQueue_full hkeyed hfull)
    have hqueue : u.sl.queue = if m.kind < worstKind q then placeEntry e (dropNewest (worstKind q) q) else q :=
      congrArg (fun t => t.sl.queue) hu
    refine ⟨congrArg (fun t => t.fi.counters.txDrops) hu, ?overflow, fun hlow => ?discarded,
      fun a x b hq hx hlower hworst hnewest => ?displaced⟩
    case overflow =>
      rw [show u = _ from hu]
      exact (setFlag_flag ..).trans (by simp)
    case discarded => rw [hqueue, if_neg (Nat.not_lt.mpr ((worstKind_le_iff ..).mpr hlow))]
    case displaced =>
      have horder : (a ++ b).Pairwise fun y z => y.msg.kind ≤ z.msg.kind :=
        hlegal.order.sublist (by rw [show s.sl.queue = _ from hq]; exact (List.sublist_cons_self x b).append_left a)
      obtain ⟨a', b', hparts, ha, hb', hplace⟩ := placeEntry_parts horder e
      refine ⟨a', b', hparts, ha, hb', ?_⟩
      rw [hqueue, hq, worstKind_eq hx hworst, if_pos hlower, dropNewest_eq hx hnewest, hplace]

end Sys2Proof.Machine

/-! SUPPORT. The offer of a frame and its ends: lost arbitration, an error, success (R145, R146, R148; logs 4 and 19); it settles
O43. -/

namespace Sys2Proof.Machine

/-! ## What an end does to an entry (R145, R146) -/

section
variable {e : TxEntry}

theorem lose_idle (h : e.sending = none) : e.lose = e := if_neg (by rw [h]; nofun)

theorem succeed_idle (h : e.sending = none) : e.succeed = some e := if_neg (by rw [h]; nofun)

theorem lose_sending (h : e.sending.isSome = true) : e.lose = { e with sending := none, amended := false } := if_pos h

theorem succeed_sending (h : e.sending.isSome = true) :
    e.succeed = if e.amended then some ⟨e.msg, 0, false, none⟩ else none := if_pos h

theorem fail_sending (h : e.sending.isSome = true) :
    e.fail = if 16 ≤ e.attempts + 1 then none else some ⟨e.msg, e.attempts + 1, false, none⟩ := if_pos h

/-! ## What an end does to a queue with one frame on the line (R145) -/

variable {before after : List TxEntry}

/-- The entries around the one on the line stay; that one leaves or stays as `g` says. -/
theorem filterMap_one_sending {g : TxEntry → Option TxEntry} (hg : ∀ x : TxEntry, x.sending = none → g x = some x)
    (hidle : ∀ x ∈ before ++ after, x.sending = none) :
    (before ++ e :: after).filterMap g = before ++ (g e).toList ++ after := by
  have hkept : ∀ l : List TxEntry, (∀ x ∈ l, x ∈ before ++ after) → l.filterMap g = l := fun l hl => by
    rw [List.filterMap_congr fun x hx => hg x (hidle x (hl x hx)), List.filterMap_some]
  have hbefore := hkept before fun x hx => List.mem_append_left _ hx
  have hafter := hkept after fun x hx => List.mem_append_right _ hx
  cases he : g e with
  | none => rw [List.filterMap_append, List.filterMap_cons_none he, hbefore, hafter]; simp
  | some f => rw [List.filterMap_append, List.filterMap_cons_some he, hbefore, hafter]; simp

theorem map_lose_one_sending (h : e.sending.isSome = true) (hidle : ∀ x ∈ before ++ after, x.sending = none) :
    (before ++ e :: after).map TxEntry.lose = before ++ { e with sending := none, amended := false } :: after := by
  have hlost := filterMap_one_sending (e := e) (g := fun x => some x.lose)
    (fun x hx => congrArg some (lose_idle hx)) hidle
  rw [← List.filterMap_eq_map]
  exact hlost.trans (by simp [lose_sending h])

end

/-! ## The commands -/

section
variable {s : State}

theorem transmitting_iff (s : State) : s.transmitting = true ↔ ∃ x ∈ s.sl.queue, x.sending.isSome = true := by
  rw [State.transmitting, List.any_eq_true]

theorem transmitting_idle (h : ∀ x ∈ s.sl.queue, x.sending = none) : s.transmitting = false := by
  rw [State.transmitting, List.any_eq_false]
  intro x hx
  rw [h x hx]
  nofun

theorem raisesErrors_iff (s : State) (kind : TxErrorKind) :
    s.raisesErrors kind = true ↔ ¬((128 ≤ s.sl.txErrors ∨ 128 ≤ s.sl.rxErrors) ∧ kind = .noAcknowledgement) := by
  have hpassive : s.errorPassive = true ↔ 128 ≤ s.sl.txErrors ∨ 128 ≤ s.sl.rxErrors := by
    rw [State.errorPassive, Bool.or_eq_true, decide_eq_true_iff, decide_eq_true_iff]
    rfl
  rw [State.raisesErrors, Bool.not_eq_true', ← Bool.not_eq_true, Bool.and_eq_true, hpassive, beq_iff_eq]

/-- The rise of the transmit error count at an error short of bus-off (R148). -/
theorem raiseTxErrors_short (h : s.sl.txErrors + 8 ≤ 255) :
    s.raiseTxErrors = { s with sl.txErrors := s.sl.txErrors + 8 } := if_neg (by omega)

variable {e : TxEntry} {before after : List TxEntry}

theorem exec_frameOffer_head {rest : List TxEntry} (hn : s.sl.station ≠ 0) (hb : s.busOff = false)
    (hq : s.sl.queue = e :: rest) (hidle : ∀ x ∈ s.sl.queue, x.sending = none) :
    exec .frameOffer s = .next ({ s with sl.queue := { e with sending := some e.msg } :: rest }.commit s) := by
  have henabled : (!s.transmitting && !s.sl.queue.isEmpty && s.sl.station != 0 && !s.busOff) = true := by
    simp [transmitting_idle hidle, hq, hn, hb]
  refine (State.takeWhen_enabled henabled _).trans (next_commit_congr ?_ s)
  rw [hq]
  rfl

/-- The state after an error that leaves the queue `left`: with the drop and the rise of the error count it brings (R145, R148). -/
theorem exec_txError_short {kind : TxErrorKind} {left : List TxEntry} {drops raise : Nat} (h : s.transmitting = true)
    (hleft : s.sl.queue.filterMap TxEntry.fail = left)
    (hdrops : drops = if left.length < s.sl.queue.length then bump s.fi.counters.txDrops else s.fi.counters.txDrops)
    (hraise : raise = if s.raisesErrors kind then 8 else 0) (hshort : s.sl.txErrors + raise ≤ 255) :
    exec (.txError kind) s =
      .next ({ s with sl.queue := left, sl.txErrors := s.sl.txErrors + raise, fi.counters.txDrops := drops }.commit s) := by
  refine (State.takeWhen_enabled h _).trans (next_commit_congr ?_ s)
  dsimp only
  rw [hleft]
  subst hdrops hraise
  by_cases hr : s.raisesErrors kind = true
  · rw [if_pos hr] at hshort
    rw [if_pos hr]
    split
    · exact raiseTxErrors_short hshort
    · exact raiseTxErrors_short hshort
  · rw [if_neg hr]
    split <;> rfl

end

/-- Settles O43: the entries around the one on the line stay, and that one as the end of its offer says. -/
theorem offersAndTheirEnds : Obligations.OffersAndTheirEnds := by
  intro e before after s hn hb hidle
  refine ⟨fun hq hhead he => ?offer, fun hq he => ?line, fun hnone => ?noFrame⟩
  case offer =>
    subst hhead
    refine exec_frameOffer_head hn hb hq fun x hx => ?_
    rw [hq] at hx
    rcases List.mem_cons.mp hx with rfl | hx
    · exact he
    · exact hidle x hx
  case line =>
    have hline : s.transmitting = true := (transmitting_iff s).mpr ⟨e, by rw [hq]; simp, he⟩
    have hfail : s.sl.queue.filterMap TxEntry.fail = before ++ e.fail.toList ++ after := by
      rw [hq, filterMap_one_sending (fun x hx => fail_idle (by rw [hx]; rfl)) hidle]
    refine ⟨?again, ?lost, ?success, fun kind => ?error⟩
    case again => exact State.takeWhen_idle (by rw [hline]; rfl) _
    case lost =>
      refine (State.takeWhen_enabled hline _).trans (next_commit_congr ?_ s)
      rw [hq, map_lose_one_sending he hidle]
    case success =>
      refine (State.takeWhen_enabled hline _).trans (next_commit_congr ?_ s)
      rw [hq, filterMap_one_sending (fun x => succeed_idle) hidle, succeed_sending he]
      cases e.amended <;> rfl
    case error =>
      intro raise hshort
      have hraise : raise = if s.raisesErrors kind then 8 else 0 := by
        simp only [raise, raisesErrors_iff, ite_not]
      refine ⟨fun hattempts => ?stays, fun hattempts => ?leaves⟩
      case stays =>
        refine exec_txError_short hline (hfail.trans ?_) ?_ hraise hshort
        · rw [fail_sending he, if_neg (by omega)]
          simp
        · rw [if_neg (by rw [hq]; simp)]
      case leaves =>
        refine exec_txError_short hline (hfail.trans ?_) ?_ hraise hshort
        · rw [fail_sending he, if_pos hattempts]
          simp
        · show bump s.fi.counters.txDrops = _
          rw [if_pos (by rw [hq]; simp)]
  case noFrame =>
    have hoff := transmitting_idle hnone
    exact ⟨State.takeWhen_idle hoff _, State.takeWhen_idle hoff _, fun _ => State.takeWhen_idle hoff _⟩

end Sys2Proof.Machine

/-! SUPPORT. The configuration messages by station state and target (R154, R156; log 8); it settles O46. -/

namespace Sys2Proof.Machine

section
variable {s : State} {p target : Station}

/-! ## Who takes a configuration message (R156) -/

theorem takeConfig_joining (h0 : p ≠ 0) (ht : s.addressed target = true) (hj : s.sl.state = .joining) (body : State → State) :
    s.takeConfig p target body = body (s.heard p) := by
  rw [State.takeConfig, State.receiveAddressed_taken h0 ht, State.heard_sl_state, if_pos hj]

theorem takeConfig_running (h0 : p ≠ 0) (ht : s.addressed target = true) (hr : s.sl.state = .running) (body : State → State) :
    s.takeConfig p target body = if target = 0 then s.heard p else (s.heard p).refuseLoad .notJoining := by
  rw [State.takeConfig, State.receiveAddressed_taken h0 ht, State.heard_sl_state, if_neg (by rw [hr]; decide)]

/-- While RUNNING no configuration message gets to its body. -/
theorem exec_configMessage_running {i : Instr} {code index : Nat} {value : BitVec 16}
    (hi : i ∈ [Instr.configBegin p target, .configItem p target code index value, .configEnd p target]) (h0 : p ≠ 0)
    (ht : s.addressed target = true) (hr : s.sl.state = .running) :
    exec i s = .next ((if target = 0 then s.heard p else (s.heard p).refuseLoad .notJoining).commit s) := by
  simp only [List.mem_cons, List.not_mem_nil, or_false] at hi
  rcases hi with rfl | rfl | rfl <;> exact next_commit_congr (takeConfig_running h0 ht hr _) s

/-! ## The bodies (R154, R156) -/

theorem openAssembly_heard (s : State) (p : Station) :
    (s.heard p).openAssembly =
      { s.heard p with
        sl.assembly := some ⟨s.config, false⟩
        sl.windowTimer := .stopped
        sl.limitTimer := if s.sl.limitTimer = Timer.stopped then .running 10000 else s.sl.limitTimer } := by
  rw [State.openAssembly, State.heard_config, State.heard_sl_limitTimer]
  rfl

variable {code index : Nat} {value : BitVec 16} {a : Assembly}

theorem takeItem_unassembled (h : s.sl.assembly = none) : s.takeItem code index value = s.refuseLoad .badItem := by
  simp only [State.takeItem, h]

theorem takeItem_refused (h : s.sl.assembly = some a) (hv : enterItem a.config code index value = none) :
    s.takeItem code index value = { s.refuseLoad .badItem with sl.assembly := some { a with rejected := true } } := by
  simp only [State.takeItem, h, hv]

theorem takeItem_entered {k : Configuration} (h : s.sl.assembly = some a) (hv : enterItem a.config code index value = some k) :
    s.takeItem code index value = { s with sl.assembly := some { a with config := k } } := by
  simp only [State.takeItem, h, hv]

end

/-- Settles O46: the station state and the target say who takes the message, the assembly and the item what CONFIG_ITEM does. -/
theorem configurationMessages : Obligations.ConfigurationMessages := by
  refine ⟨fun w r hr => ?refusal, fun p target code index value s h0 ht => ⟨fun hrun i hi => ?running, fun hj => ?joining⟩⟩
  case refusal =>
    have hreason : r ≠ .tableFull := by rcases hr with rfl | rfl <;> decide
    rw [State.refuseLoad_eq, if_neg hreason]
    rfl
  case running =>
    have hexec := exec_configMessage_running hi h0 ht hrun
    exact ⟨fun hown => hexec.trans (by rw [if_neg hown]), fun hall => hexec.trans (by rw [if_pos hall])⟩
  case joining =>
    have hitem : exec (.configItem p target code index value) s = .next (((s.heard p).takeItem code index value).commit s) :=
      next_commit_congr (takeConfig_joining h0 ht hj _) s
    have hassembly := State.heard_sl_assembly s p
    refine ⟨?opens, fun hnone => ?unassembled, fun a ha => ⟨fun hv => ?refused, fun k hv => ?entered⟩⟩
    case opens => exact next_commit_congr ((takeConfig_joining h0 ht hj _).trans (openAssembly_heard s p)) s
    case unassembled => rw [hitem, takeItem_unassembled (hassembly.trans hnone)]
    case refused => rw [hitem, takeItem_refused (hassembly.trans ha) hv]
    case entered => rw [hitem, takeItem_entered (hassembly.trans ha) hv]

end Sys2Proof.Machine

/-! SUPPORT. Frames: the bytes of a payload and the number they are read as, the fields of a number laid out field by field, and the
message each frame is read as (R143, §8.2, §8.9); it settles O52. -/

namespace Sys2Proof.Machine

/-! ## The bytes of a payload (§8.9) -/

theorem payloadBytes_length (n : Nat) (v : BitVec (8 * n)) : (payloadBytes n v).length = n := by simp [payloadBytes]

/-- The first `k` bytes are the bits above the remaining ones. -/
theorem foldl_bytes {n k : Nat} (v : BitVec (8 * n)) (h : k ≤ n) :
    ((List.range k).map fun i => v.extractLsb' (8 * (n - 1 - i)) 8).foldl (fun acc b => acc * 256 + b.toNat) 0 =
      v.toNat / 2 ^ (8 * (n - k)) := by
  induction k with
  | zero =>
    rw [Nat.div_eq_of_lt (by simpa using v.isLt)]
    rfl
  | succ k ih =>
    have hwidth : 8 * (n - k) = 8 * (n - (k + 1)) + 8 := by omega
    have hbyte : n - 1 - k = n - (k + 1) := by omega
    rw [List.range_succ, List.map_append, List.foldl_append, ih (by omega), hwidth, Nat.pow_add, ← Nat.div_div_eq_div_mul]
    simp only [List.map_cons, List.map_nil, List.foldl_cons, List.foldl_nil, hbyte, BitVec.extractLsb'_toNat,
      Nat.shiftRight_eq_div_pow]
    omega

/-- The bytes of a payload are read as its number, extra data bytes or not (R143). -/
theorem payloadNumber_payloadBytes (n : Nat) (v : BitVec (8 * n)) (extra : List (BitVec 8)) :
    payloadNumber n (payloadBytes n v ++ extra) = v.toNat := by
  have htake : (payloadBytes n v ++ extra).take n = payloadBytes n v := List.take_left' (payloadBytes_length n v)
  rw [payloadNumber, htake, payloadBytes, foldl_bytes v le_rfl]
  simp

/-! ## The identifier (R143, §8.2) -/

theorem ident_toNat {kind : Nat} (h : kind < 64) (p : Station) :
    (BitVec.ofNat 11 (kind * 32 + p.val)).toNat = kind * 32 + p.val := by
  rw [BitVec.toNat_ofNat, Nat.mod_eq_of_lt (by omega)]

theorem frame_kind {kind : Nat} (h : kind < 64) (p : Station) (format : FrameFormat) (data : List (BitVec 8)) :
    RawFrame.kind ⟨format, BitVec.ofNat 11 (kind * 32 + p.val), data⟩ = kind := by
  show (BitVec.ofNat 11 (kind * 32 + p.val)).toNat / 32 = kind
  rw [ident_toNat h]
  omega

theorem frame_sender {kind : Nat} (h : kind < 64) (p : Station) (format : FrameFormat) (data : List (BitVec 8)) :
    RawFrame.sender ⟨format, BitVec.ofNat 11 (kind * 32 + p.val), data⟩ = p := by
  refine Fin.ext ?_
  show (BitVec.ofNat 11 (kind * 32 + p.val)).toNat % 32 = p.val
  rw [ident_toNat h]
  omega

/-- A frame with the bytes of its kind is read by its payload (R143). -/
theorem decodeFrame_payloadBytes {kind n : Nat} (hkind : kind < 64) (hbytes : kindBytes kind = some n) {p : Station} (hp : p ≠ 0)
    (v : BitVec (8 * n)) (extra : List (BitVec 8)) :
    decodeFrame ⟨.data, BitVec.ofNat 11 (kind * 32 + p.val), payloadBytes n v ++ extra⟩ = decodePayload kind p v.toNat := by
  have hlength : ¬(payloadBytes n v ++ extra).length < n := by
    rw [List.length_append, payloadBytes_length]
    omega
  simp only [decodeFrame, frame_kind hkind, frame_sender hkind, if_neg hp, hbytes, if_neg hlength, payloadNumber_payloadBytes]

theorem decodeFrame_exact {kind n : Nat} (hkind : kind < 64) (hbytes : kindBytes kind = some n) {p : Station} (hp : p ≠ 0)
    (v : BitVec (8 * n)) :
    decodeFrame ⟨.data, BitVec.ofNat 11 (kind * 32 + p.val), payloadBytes n v⟩ = decodePayload kind p v.toNat := by
  rw [← decodeFrame_payloadBytes hkind hbytes hp v [], List.append_nil]

/-! ## The fields of a layout (§8.9) -/

section
variable {m n lo width : Nat} (x : BitVec m) (y : BitVec n)

theorem toNat_append_div (h : n ≤ lo) : (x ++ y).toNat / 2 ^ lo = x.toNat / 2 ^ (lo - n) := by
  have hlow : (x ++ y).toNat / 2 ^ n = x.toNat := by
    rw [BitVec.toNat_append, ← Nat.shiftRight_eq_div_pow, Nat.shiftRight_or_distrib, Nat.shiftLeft_shiftRight,
      Nat.shiftRight_eq_div_pow, Nat.div_eq_of_lt y.isLt, Nat.or_zero]
  rw [← hlow, Nat.div_div_eq_div_mul, ← Nat.pow_add, Nat.add_sub_cancel' h]

theorem toNat_append_mod : (x ++ y).toNat % 2 ^ n = y.toNat := by
  rw [BitVec.toNat_append, Nat.or_mod_two_pow, Nat.shiftLeft_eq, Nat.mul_mod_left, Nat.zero_or, Nat.mod_eq_of_lt y.isLt]

/-- A field above the last one of a layout. -/
@[simp] theorem field_append_above (h : n ≤ lo) : field (x ++ y).toNat lo width = field x.toNat (lo - n) width := by
  rw [field, field]
  simp only [toNat_append_div x y h]

@[simp] theorem flagField_append_above (h : n ≤ lo) : flagField (x ++ y).toNat lo = flagField x.toNat (lo - n) := by
  rw [flagField, flagField, Nat.testBit_eq_decide_div_mod_eq, Nat.testBit_eq_decide_div_mod_eq, toNat_append_div x y h]

@[simp] theorem bitsField_append_above (h : n ≤ lo) : bitsField (x ++ y).toNat lo width = bitsField x.toNat (lo - n) width := by
  rw [bitsField, bitsField, toNat_append_div x y h]

/-- The first field of a layout. -/
@[simp] theorem field_whole : field y.toNat 0 n = y.toFin :=
  Fin.ext (by simp [field])

@[simp] theorem flagField_whole (b : Bool) : flagField b.toNat 0 = b := by cases b <;> rfl

@[simp] theorem bitsField_whole : bitsField y.toNat 0 n = y := by simp [bitsField]

/-- The last field of a layout. -/
@[simp] theorem field_append_last : field (x ++ y).toNat 0 n = y.toFin :=
  Fin.ext (by simpa [field, -BitVec.toNat_append] using toNat_append_mod x y)

@[simp] theorem flagField_append_last (b : Bool) : flagField (x ++ BitVec.ofBool b).toNat 0 = b := by
  rw [flagField, BitVec.testBit_toNat, BitVec.getLsbD_append]
  cases b <;> rfl

@[simp] theorem bitsField_append_last : bitsField (x ++ y).toNat 0 n = y :=
  BitVec.eq_of_toNat_eq (by simpa [bitsField, -BitVec.toNat_append] using toNat_append_mod x y)

end

/-! ## The payloads as they are read (§8.9) -/

section
variable (p : Station)

theorem decodePayload_go (cue : BitVec 12) (b : Bool) (pad : BitVec 3) :
    decodePayload 1 p (cue ++ BitVec.ofBool b ++ pad).toNat = some (.go p cue.toFin (if b then .follow else .key)) := by
  simp [decodePayload, -BitVec.toNat_append, -Nat.reduceAdd]

theorem decodePayload_goto (cue : BitVec 12) (fade : BitVec 16) (b : Bool) (pad : BitVec 3) :
    decodePayload 2 p (cue ++ fade ++ BitVec.ofBool b ++ pad).toNat =
      some (.goto p cue.toFin fade.toFin (if b then .back else .goto)) := by
  simp [decodePayload, -BitVec.toNat_append, -Nat.reduceAdd]

theorem decodePayload_link (l : BitVec 5) (a : LinkAction) (stamp : BitVec 24) (toucher : BitVec 5) (held : Bool)
    (level : BitVec 11) :
    decodePayload 8 p
        (l ++ BitVec.ofNat 2 (linkActionCode a) ++ stamp ++ toucher ++ BitVec.ofBool held ++ level).toNat =
      match a with
      | .touch => some (.linkTouch p l.toFin stamp.toFin toucher.toFin held level)
      | .release => some (.linkRelease p l.toFin stamp.toFin toucher.toFin held level)
      | .state => some (.linkState p l.toFin stamp.toFin toucher.toFin held level) := by
  cases a <;> simp [decodePayload, linkActionCode, -BitVec.toNat_append, -Nat.reduceAdd]

theorem decodePayload_malformedLink (l : BitVec 5) (rest : BitVec 41) :
    decodePayload 8 p (l ++ 3#2 ++ rest).toNat = some (.malformedLink p l.toFin) := by
  simp [decodePayload, -BitVec.toNat_append, -Nat.reduceAdd]

theorem decodePayload_groupLevel (m : BitVec 3) (level : BitVec 11) (pad : BitVec 2) :
    decodePayload 16 p (m ++ level ++ pad).toNat = some (.groupLevel p m.toFin level) := by
  simp [decodePayload, -BitVec.toNat_append, -Nat.reduceAdd]

theorem decodePayload_presence (joining held : Bool) (cue : BitVec 12) (mask : BitVec 16) (summary : BitVec 8) (pad : BitVec 2) :
    decodePayload 20 p (BitVec.ofBool joining ++ BitVec.ofBool held ++ cue ++ mask ++ summary ++ pad).toNat =
      some (.presence p joining held cue.toFin mask summary) := by
  simp [decodePayload, -BitVec.toNat_append, -Nat.reduceAdd]

theorem decodePayload_stepLoad (target : BitVec 5) (cue : BitVec 12) (channel : BitVec 5) (level : BitVec 11) (fade : BitVec 16)
    (delay : BitVec 11) (curve mute : BitVec 2) :
    decodePayload 56 p (target ++ cue ++ channel ++ level ++ fade ++ delay ++ curve ++ mute).toNat =
      some (.stepLoad p target.toFin cue.toFin channel.toFin level fade.toFin delay.toFin curve.toFin mute.toFin) := by
  simp [decodePayload, -BitVec.toNat_append, -Nat.reduceAdd]

theorem decodePayload_headerLoad (target : BitVec 5) (cue : BitVec 12) (present : Bool) (follow : BitVec 16) (pad : BitVec 6) :
    decodePayload 58 p (target ++ cue ++ BitVec.ofBool present ++ follow ++ pad).toNat =
      some (.headerLoad p target.toFin cue.toFin present follow.toFin) := by
  simp [decodePayload, -BitVec.toNat_append, -Nat.reduceAdd]

end

/-! ## The messages of this station (§8.2, §8.9) -/

theorem toFin_ofNat_val {w : Nat} (i : Fin (2 ^ w)) : (BitVec.ofNat w i.val).toFin = i :=
  Fin.ext ((BitVec.toNat_ofNat ..).trans (Nat.mod_eq_of_lt i.isLt))

theorem stationField_toFin (o : Option Station) : (BitVec.ofNat 5 (stationField o)).toFin = o.getD 0 := by
  cases o with
  | none => rfl
  | some p => exact toFin_ofNat_val (w := 5) p

theorem Msg.kind_lt (m : Msg) : m.kind < 64 := by cases m <;> simp [Msg.kind]

section
variable {m : Msg} {n : Nat} {v : BitVec (8 * n)}

theorem Msg.payload_bytes (h : m.payload = some ⟨n, v⟩) : kindBytes m.kind = some n ∧ n ≤ 8 := by
  cases m <;> cases h <;> exact ⟨rfl, by decide⟩

/-- A payload is read as the message it is the payload of, with every field it carries. -/
theorem decodePayload_payload (h : m.payload = some ⟨n, v⟩) (p : Station) : decodePayload m.kind p v.toNat = m.command p := by
  cases m with
  | go cue cause =>
    cases h
    refine (decodePayload_go ..).trans ?_
    rw [toFin_ofNat_val (w := 12) cue]
    cases cause <;> rfl
  | goto cue fade reason =>
    cases h
    refine (decodePayload_goto ..).trans ?_
    rw [toFin_ofNat_val (w := 12) cue]
    cases reason <;> rfl
  | hold => cases h; rfl
  | resume => cases h; rfl
  | link l a stamp toucher held level =>
    cases h
    refine (decodePayload_link ..).trans ?_
    rw [toFin_ofNat_val (w := 5) l, stationField_toFin]
    cases a <;> rfl
  | muteGroup => cases h
  | groupLevel k level =>
    cases h
    refine (decodePayload_groupLevel ..).trans ?_
    rw [toFin_ofNat_val (w := 3) k]
    rfl
  | presence joining held cue mask summary =>
    cases h
    refine (decodePayload_presence ..).trans ?_
    rw [toFin_ofNat_val (w := 12) cue]
    rfl
  | statusReply => cases h; rfl

end

theorem Msg.payload_eq_none (m : Msg) : m.payload = none ↔ ∃ g b, m = .muteGroup g b := by
  constructor
  · intro h
    cases m
    case muteGroup g b => exact ⟨g, b, rfl⟩
    all_goals cases h
  · rintro ⟨g, b, rfl⟩
    rfl

theorem Msg.frame_eq_none (m : Msg) (p : Station) : m.frame p = none ↔ ∃ g b, m = .muteGroup g b := by
  rw [← Msg.payload_eq_none, Msg.frame]
  cases m.payload <;> simp

theorem Msg.frame_eq_some {m : Msg} {p : Station} {f : RawFrame} (h : m.frame p = some f) :
    ∃ n v, m.payload = some ⟨n, v⟩ ∧ f = ⟨.data, BitVec.ofNat 11 (m.kind * 32 + p.val), payloadBytes n v⟩ := by
  obtain ⟨⟨n, v⟩, hpayload, hf⟩ := Option.bind_eq_some_iff.mp h
  exact ⟨n, v, hpayload, (Option.some.inj hf).symm⟩

/-- Settles O52, from the bytes of a frame to its payload and from there, layout by layout, to its message. -/
theorem framesDecode : Obligations.FramesDecode := by
  refine fun p hp => ⟨fun m f extra hf => ?sent, fun m => m.frame_eq_none p, ?stepLoad, ?headerLoad, ?malformed⟩
  case sent =>
    obtain ⟨n, v, hpayload, rfl⟩ := Msg.frame_eq_some hf
    obtain ⟨hbytes, hlength⟩ := Msg.payload_bytes hpayload
    refine ⟨(payloadBytes_length n v).trans_le hlength, frame_sender m.kind_lt .., frame_kind m.kind_lt .., ?_⟩
    rw [decodeFrame_payloadBytes m.kind_lt hbytes hp, decodePayload_payload hpayload]
  case stepLoad =>
    intro target cue channel level fade delay curve mute
    refine (decodeFrame_exact (kind := 56) (by decide) rfl hp _).trans ((decodePayload_stepLoad ..).trans ?_)
    rw [toFin_ofNat_val (w := 5) target, toFin_ofNat_val (w := 12) cue, toFin_ofNat_val (w := 5) channel,
      toFin_ofNat_val (w := 16) fade, toFin_ofNat_val (w := 11) delay, toFin_ofNat_val (w := 2) curve,
      toFin_ofNat_val (w := 2) mute]
  case headerLoad =>
    intro target cue present follow
    refine (decodeFrame_exact (kind := 58) (by decide) rfl hp _).trans ((decodePayload_headerLoad ..).trans ?_)
    rw [toFin_ofNat_val (w := 5) target, toFin_ofNat_val (w := 12) cue, toFin_ofNat_val (w := 16) follow]
  case malformed =>
    intro l rest
    refine (decodeFrame_exact (kind := 8) (by decide) rfl hp _).trans ((decodePayload_malformedLink ..).trans ?_)
    rw [toFin_ofNat_val (w := 5) l]

end Sys2Proof.Machine

/-! SUPPORT. The Gain Port's transfers: the words on GOUT, the match of a GIN word, the count of a report, the end of a transfer (R161,
R163, R165 to R167, §9.1; logs 4 and 7); it settles O51. -/

namespace Sys2Proof.Machine

/-! ## The words on GOUT (§9.1, R163, R165) -/

theorem toNat_append_add {m n : Nat} (x : BitVec m) (y : BitVec n) : (x ++ y).toNat = x.toNat * 2 ^ n + y.toNat := by
  rw [BitVec.toNat_append, ← Nat.shiftLeft_add_eq_or_of_lt y.isLt, Nat.shiftLeft_eq]

theorem levelField_toNat (x : Level) : (levelField x).toNat = (x % 2048).toNat := BitVec.toNat_ofInt ..

theorem goutWord_level (c : Channel) (x : Level) (q : BitVec 8) :
    goutWord (.level c x q) = BitVec.ofNat 32 ((c.val + 1) * 2 ^ 25 + (x % 2048).toNat * 2 ^ 14 + q.toNat * 2 ^ 6) := by
  have hchannel : (BitVec.ofNat 5 (c.val + 1)).toNat = c.val + 1 := by
    rw [BitVec.toNat_ofNat, Nat.mod_eq_of_lt (by omega)]
  refine BitVec.eq_of_toNat_eq ?_
  simp only [goutWord, toNat_append_add, hchannel, levelField_toNat, BitVec.toNat_ofNat]
  omega

theorem goutWord_poll (q : BitVec 8) : goutWord (.poll q) = BitVec.ofNat 32 (2 ^ 30 + q.toNat * 2 ^ 6) := by
  refine BitVec.eq_of_toNat_eq ?_
  simp only [goutWord, toNat_append_add, BitVec.toNat_ofNat]
  omega

/-! ## The match of a GIN word (R166) -/

/-- A GIN word matches a transfer record, read bit by bit (§9.1, R166). -/
def SentRecord.Agrees (r : SentRecord) (gin : BitVec 32) (window : Nat) : Prop :=
  gin.getLsbD 31 = true ∧ gin.toNat / 2 ^ 26 % 32 = r.channel.val + 1 ∧ gin.toNat / 2 ^ 7 % 256 = r.seq.toNat ∧
    ((ginLevel gin ≤ -900 ∧ r.level = off) ∨
      (-900 < ginLevel gin ∧ r.level ≠ off ∧ (ginLevel gin - r.level).natAbs ≤ window))

theorem ginChannel_eq (gin : BitVec 32) : ginChannel gin = gin.toNat / 2 ^ 26 % 32 := by
  rw [ginChannel, BitVec.extractLsb'_toNat, Nat.shiftRight_eq_div_pow]

theorem ginSeq_eq_iff (gin : BitVec 32) (q : BitVec 8) : ginSeq gin = q ↔ gin.toNat / 2 ^ 7 % 256 = q.toNat := by
  rw [← BitVec.toNat_inj, ginSeq, BitVec.extractLsb'_toNat, Nat.shiftRight_eq_div_pow]

theorem levelsAgree_iff (window : Nat) (sent reported : Int) :
    levelsAgree window sent reported = true ↔
      (reported ≤ -900 ∧ sent = off) ∨ (-900 < reported ∧ sent ≠ off ∧ (reported - sent).natAbs ≤ window) := by
  unfold levelsAgree
  by_cases h : reported ≤ off
  · have hlow : ¬-900 < reported := not_lt.mpr h
    rw [if_pos h, decide_eq_true_eq]
    exact ⟨fun hs => .inl ⟨h, hs⟩, fun hs => hs.elim And.right fun hhigh => absurd hhigh.1 hlow⟩
  · have hhigh : -900 < reported := not_le.mp h
    rw [if_neg h, Bool.and_eq_true, decide_eq_true_eq, decide_eq_true_eq]
    exact ⟨fun hs => .inr ⟨hhigh, hs⟩, fun hs => hs.elim (fun hlow => absurd hlow.1 h) And.right⟩

theorem isMatch_iff (window : Nat) (r : SentRecord) (gin : BitVec 32) :
    isMatch window r gin = true ↔ r.Agrees gin window := by
  simp only [isMatch, ginValid, Bool.and_eq_true, decide_eq_true_eq, ginChannel_eq, ginSeq_eq_iff, levelsAgree_iff, and_assoc,
    SentRecord.Agrees]

/-! ## The count of a report (R167) -/

namespace PortChannel

variable {p : PortChannel} {isMatch : Bool} {limit : Nat}

theorem count_up (h : isMatch = p.mismatch) (hl : p.run + 1 < limit) : p.count isMatch limit = { p with run := p.run + 1 } := by
  rw [count, if_pos h, if_neg (Nat.not_le.mpr hl)]

theorem count_turns (h : isMatch = p.mismatch) (hl : limit ≤ p.run + 1) :
    p.count isMatch limit = { p with mismatch := !p.mismatch, run := 0 } := by
  rw [count, if_pos h, if_pos hl]

theorem count_back (h : isMatch ≠ p.mismatch) : p.count isMatch limit = { p with run := 0 } := if_neg h

end PortChannel

section
variable {s : State} {gin : BitVec 32}

/-- A report changes the table of the port's channels alone. -/
theorem readReport_eq (s : State) (gin : BitVec 32) :
    s.readReport gin = { s with gp.chan := (s.readReport gin).gp.chan } := by
  unfold State.readReport
  split <;> rfl

theorem readReport_first (h : s.gp.previous = none) : (s.readReport gin).gp.chan = s.gp.chan := by
  simp only [State.readReport, h]

theorem readReport_counts {r : SentRecord} (h : s.gp.previous = some r) :
    (s.readReport gin).gp.chan =
      s.gp.chan.modify r.channel fun p => p.count (isMatch s.config.readbackWindow r gin) s.config.readbackLimit := by
  simp only [State.readReport, h]

theorem readReport_other {r : SentRecord} (h : s.gp.previous = some r) {d : Channel} (hd : d ≠ r.channel) :
    (s.readReport gin).gp.chan.get d = s.gp.chan.get d := by
  rw [readReport_counts h, Table.get_modify, if_neg hd.symm]

theorem readReport_channel {r : SentRecord} (h : s.gp.previous = some r) :
    (s.readReport gin).gp.chan.get r.channel =
      (s.gp.chan.get r.channel).count (isMatch s.config.readbackWindow r gin) s.config.readbackLimit := by
  rw [readReport_counts h, Table.get_modify_self]

/-! ## Transfers that begin and end (R161, R163, R165; log 4) -/

theorem exec_levelTransfer_idle (h : s.gp.inFlight.isSome = true ∨ s.gp.queue = []) : exec .levelTransfer s = .next s := by
  show execLevelTransfer s = .next s
  unfold execLevelTransfer
  split
  · next hnone hqueue => simp [hnone, hqueue] at h
  · rfl

theorem exec_levelTransfer_begins {c : Channel} {rest : List Channel} (hf : s.gp.inFlight = none) (hq : s.gp.queue = c :: rest) :
    exec .levelTransfer s = .next ((s.beginLevel c rest).commit s) := by
  show execLevelTransfer s = _
  simp only [execLevelTransfer, hf, hq]
  rfl

theorem exec_transferComplete_idle (h : s.gp.inFlight = none) : exec (.transferComplete gin) s = .next s := by
  show execTransferComplete gin s = .next s
  simp only [execTransferComplete, h]

/-- The report is read and the event ends before the transfer does (log 7). -/
theorem exec_transferComplete_ends {f : Transfer} (h : s.gp.inFlight = some f) :
    exec (.transferComplete gin) s =
      .next ((({ s with gp.chan := (s.readReport gin).gp.chan } : State).commit s).endTransfer f) := by
  show execTransferComplete gin s = _
  rw [← readReport_eq]
  simp only [execTransferComplete, h]

variable {u : State} {c : Channel} {x : Level} {q : BitVec 8}

theorem endTransfer_poll : u.endTransfer (.poll q) = { u with gp.inFlight := none, gp.previous := none } := rfl

theorem endTransfer_level_more (h : u.gp.queue ≠ []) :
    u.endTransfer (.level c x q) = { u with gp.inFlight := none, gp.previous := some ⟨c, q, x⟩ } :=
  if_neg (by simpa using h)

theorem endTransfer_level_last (h : u.gp.queue = []) :
    u.endTransfer (.level c x q) =
      { u with
        gp.previous := some ⟨c, q, x⟩
        gp.seq := u.gp.seq + 1
        gp.inFlight := some (.poll (u.gp.seq + 1)) } :=
  if_pos (by simpa using h)

end

/-- Settles O51: the words, the beginning of a LEVEL, and a completion as the report's count followed by the transfer's end. -/
theorem transfers : Obligations.Transfers := by
  refine ⟨fun c x q => ⟨goutWord_level c x q, goutWord_poll q⟩, fun s => ⟨exec_levelTransfer_idle, ?begins, fun gin =>
    ⟨exec_transferComplete_idle, fun f hf => ⟨(s.readReport gin).gp.chan, readReport_first, ?counts, ?poll, ?level⟩⟩⟩⟩
  case begins =>
    intro c rest hf hq x
    refine ⟨(s.setLastSent c x).gp.chan, exec_levelTransfer_begins hf hq, fun d => ?_⟩
    rw [State.setLastSent, Table.get_modify]
    by_cases hd : d = c
    · rw [if_pos hd, if_pos hd.symm, hd]
    · rw [if_neg hd, if_neg (Ne.symm hd)]
  case counts =>
    intro r hr p y agrees
    have hmatch : isMatch s.config.readbackWindow r gin = p.mismatch ↔ (agrees ↔ p.mismatch = true) :=
      Bool.eq_iff_iff.trans (iff_congr (isMatch_iff ..) .rfl)
    have hchannel := readReport_channel (gin := gin) hr
    exact ⟨fun d => readReport_other hr, fun h hl => hchannel.trans (PortChannel.count_up (hmatch.mpr h) hl),
      fun h hl => hchannel.trans (PortChannel.count_turns (hmatch.mpr h) hl),
      fun h => hchannel.trans (PortChannel.count_back (mt hmatch.mp h))⟩
  case poll =>
    rintro q rfl
    rw [exec_transferComplete_ends hf, endTransfer_poll]
  case level =>
    rintro c x q rfl
    refine ⟨fun hmore => ?_, fun hlast => ?_⟩
    · rw [exec_transferComplete_ends hf, endTransfer_level_more hmore]
    · rw [exec_transferComplete_ends hf, endTransfer_level_last hlast, State.commit_gp_seq]

end Sys2Proof.Machine

/-! SUPPORT. What the outputs show: the conditions at their sources (R171, R176), the FAULT line (R177), the LED tables (R179) and the
lit phases of a pattern (R178); it settles O4. -/

namespace Sys2Proof.Machine

/-! ## Conditions at their sources (R171, R176) -/

section
variable {u : State} {c : Channel}

theorem busOff_iff : u.busOff = true ↔ 256 ≤ u.sl.txErrors := decide_eq_true_iff

theorem groupStale_iff :
    u.groupStale c = true ↔
      ∃ m, (u.config.chan.get c).masters.getLsbD m.val = true ∧ (u.sg.master.get m).fresh = false := by
  simp [State.groupStale, State.inMaster, anyIndex_iff]

theorem groupMuted_iff :
    u.groupMuted c = true ↔
      ∃ (g : GroupNo) (p : Station),
        (u.config.chan.get c).groups.getLsbD g.val = true ∧ (u.sg.asserters.get g).get p = true := by
  simp [State.groupMuted, State.inGroup, State.muting, anyIndex_iff]

theorem full_iff (cs : CueStore) : cs.full = true ↔ 2048 ≤ cs.steps.length ∨ 512 ≤ cs.headers.length := by
  rw [CueStore.full, Bool.or_eq_true]
  exact or_congr decide_eq_true_iff decide_eq_true_iff

theorem condition_anyFaderFault : u.condition .anyFaderFault = true ↔ ∃ k, (u.pi.slot.get k).faulted = true :=
  anyIndex_iff _

theorem condition_anyGroupStale : u.condition .anyGroupStale = true ↔ ∃ c, u.groupStale c = true := anyIndex_iff _

theorem condition_anyReadbackMismatch :
    u.condition .anyReadbackMismatch = true ↔ ∃ c, (u.gp.chan.get c).mismatch = true := anyIndex_iff _

/-- An event flag has no condition. -/
theorem condition_event {f : Flag} (h : f ∈ [Flag.configRejected, .loadRefused, .txOverflow, .goRefused]) :
    u.condition f = false := by
  simp only [List.mem_cons, List.not_mem_nil, or_false] at h
  rcases h with rfl | rfl | rfl | rfl <;> rfl

/-! ## The FAULT line (R177) -/

/-- Flag `n` of §8.7.1, item 27, stands on bit `n − 1`. -/
theorem flag_number :
    ∀ e ∈ [(Flag.calFault, 1), (.configRejected, 2), (.tableFull, 3), (.loadRefused, 4), (.txOverflow, 5), (.linkOff, 6),
      (.linkAlone, 7), (.stationClash, 8), (.goRefused, 9), (.anyFaderFault, 10), (.anyGroupStale, 11),
      (.anyReadbackMismatch, 12)], e.1.bit.val + 1 = e.2 := by decide

/-- The line is a disjunction over the bits, and every bit is that of one flag. -/
theorem faultActive_iff :
    u.faultActive = true ↔ ∃ f, u.flag f = true ∧ u.config.faultMask.getLsbD f.bit.val = false := by
  simp only [State.faultActive, anyIndex_iff, Bool.and_eq_true, Bool.not_eq_true', State.flag]
  constructor
  · rintro ⟨b, hset, hmask⟩
    exact ⟨flagAt b, by rwa [bit_flagAt], by rwa [bit_flagAt]⟩
  · rintro ⟨f, hset, hmask⟩
    exact ⟨f.bit, hset, hmask⟩

/-! ## The LED tables (R179) -/

theorem statePattern_eq :
    u.statePattern c =
      if (u.pi.slot.get (channelSlot c)).faulted then .fast
      else if (u.tk.chan.get c).state = .overridden ∨ (u.tk.chan.get c).state = .returning then .pulse
      else if (u.tk.chan.get c).state = .touched then .steady
      else if (u.tk.chan.get c).state = .latched ∨ (u.tk.chan.get c).state = .safeManual then .slow
      else .off := by
  rw [State.statePattern, State.channelConditions]
  refine if_congr .rfl rfl ?_
  cases (u.tk.chan.get c).state <;> rfl

theorem mutePattern_protected (h : (u.gc.chan.get c).action = .mute) : u.mutePattern c = .fast := if_pos h

theorem mutePattern_panel (ha : (u.gc.chan.get c).action ≠ .mute) (hp : u.pi.panelMute.get c = true) :
    u.mutePattern c = .steady := (if_neg ha).trans (if_pos hp)

theorem mutePattern_cueOrGroup (ha : (u.gc.chan.get c).action ≠ .mute) (hp : u.pi.panelMute.get c = false) :
    u.mutePattern c = if (u.fe.chan.get c).cueMute || u.groupMuted c then .slow else .off := by
  rw [State.mutePattern, if_neg ha, if_neg (by simp [hp])]

theorem goReady_iff :
    u.goReady = true ↔
      ∃ n, u.cs.next u.seq.currentCue = some n ∧ (u.cs.bankOf n).localGo = true ∧ (u.cs.bankOf n).kind ≠ .parked := by
  rw [State.goReady]
  cases u.cs.next u.seq.currentCue with
  | none => simp
  | some n => simp [allowsLocal_iff]

theorem goPattern_burst (h : u.fi.burstTimer ≠ .stopped) : u.goPattern = .fast := if_pos h

theorem goPattern_held (hb : u.fi.burstTimer = .stopped) (h : u.seq.held = true) : u.goPattern = .slow :=
  (if_neg (not_not.mpr hb)).trans (if_pos h)

theorem goPattern_free (hb : u.fi.burstTimer = .stopped) (h : u.seq.held = false) :
    u.goPattern = if u.goReady then .steady else .off := by
  rw [State.goPattern, if_neg (not_not.mpr hb), if_neg (by simp [h])]

theorem stationPattern_joining (h : u.sl.state = .joining) : u.stationPattern = .pulse := if_pos h

theorem stationPattern_running (h : u.sl.state = .running) :
    u.stationPattern =
      if 256 ≤ u.sl.txErrors ∨ u.sl.clashCond = true then .fast
      else if u.sl.aloneCond then .slow
      else .steady := by
  rw [State.stationPattern, if_neg (by simp [h])]
  exact if_congr (by rw [Bool.or_eq_true, busOff_iff]) rfl rfl

end

/-! ## What lights an LED (R178) -/

theorem lit_iff (p : Pattern) (phase : Nat) :
    p.lit phase = true ↔
      p = .steady ∨ (p = .slow ∧ phase % 2000 < 1000) ∨ (p = .pulse ∧ phase % 1200 < 150) ∨
        (p = .fast ∧ phase % 250 < 125) := by
  cases p <;> simp [Pattern.lit]

/-! ## The outputs at the end of an event -/

section
variable (w s : State) (c : Channel)

theorem commit_cond : (w.commit s).fi.cond.get c = w.channelConditions c :=
  ((commit_outputsAgree w s).conditions c).trans (w.commit_channelConditions s c)

theorem commit_faultLine : (w.commit s).fi.faultLine = (w.commit s).faultActive := (commit_outputsAgree w s).faultLine

theorem commit_stateLed : (w.commit s).fi.stateLed.get c = w.statePattern c := by
  rw [(commit_outputsAgree w s).stateLed, statePattern_eq, statePattern_eq, State.commit_pi, State.commit_tk]

theorem commit_muteLed : (w.commit s).fi.muteLed.get c = (w.commit s).mutePattern c := (commit_outputsAgree w s).muteLed c

theorem commit_groupMuted : (w.commit s).groupMuted c = w.groupMuted c := by
  rw [Bool.eq_iff_iff, groupMuted_iff, groupMuted_iff, State.commit_config, State.commit_sg]

theorem commit_goReady : (w.commit s).goReady = w.goReady := by
  rw [Bool.eq_iff_iff, goReady_iff, goReady_iff, State.commit_cs, State.commit_seq]

theorem commit_goLed : (w.commit s).fi.goLed = w.goPattern := by
  rw [(commit_outputsAgree w s).goLed]
  simp only [State.goPattern, State.commit_fi_burstTimer, State.commit_seq, commit_goReady]

theorem commit_stationLed : (w.commit s).fi.stationLed = w.stationPattern := by
  rw [(commit_outputsAgree w s).stationLed]
  simp only [State.stationPattern, State.commit_sl, State.commit_busOff]

/-- The lights stand at the phase that the event left. -/
theorem commit_lights :
    (∀ c : Channel,
      (w.commit s).stateLedLit c = ((w.commit s).fi.stateLed.get c).lit w.fi.phase ∧
        (w.commit s).muteLedLit c = ((w.commit s).fi.muteLed.get c).lit w.fi.phase) ∧
      (w.commit s).goLedLit = (w.commit s).fi.goLed.lit w.fi.phase ∧
      (w.commit s).stationLedLit = (w.commit s).fi.stationLed.lit w.fi.phase := by
  simp only [State.stateLedLit, State.muteLedLit, State.goLedLit, State.stationLedLit, State.commit_fi_phase, and_self,
    implies_true]

end

/-- Settles O4: at the end of an event each output is that of the state the event left, read by its row of the tables. -/
theorem indicatorsAndFlagConditions : Obligations.IndicatorsAndFlagConditions := by
  refine ⟨lit_iff, fun f n h => ?bits, fun w s => ⟨⟨rfl, rfl, rfl, busOff_iff, full_iff _, condition_anyFaderFault, ?anyStale,
    condition_anyReadbackMismatch, fun f => condition_event⟩, fun c => ?conditions, ?line, fun c => ⟨?stateLed, ?muteLed⟩, ?goLed,
    fun h => ?joining, fun h => ?running, commit_lights w s⟩⟩
  case bits => exact flag_number _ h
  case anyStale => exact condition_anyGroupStale.trans (exists_congr fun c => groupStale_iff)
  case conditions =>
    rw [commit_cond]
    exact ⟨rfl, groupStale_iff, rfl⟩
  case line => rw [commit_faultLine, faultActive_iff, State.commit_config]
  case stateLed => rw [commit_stateLed, statePattern_eq]
  case muteLed =>
    rw [commit_muteLed]
    refine ⟨mutePattern_protected, fun ha => ?_⟩
    rw [← State.commit_pi w s]
    refine ⟨mutePattern_panel ha, fun hp hm => ?_, fun hp hm => ?_⟩
    all_goals
      rw [← groupMuted_iff, ← Bool.or_eq_true] at hm
      rw [mutePattern_cueOrGroup ha hp, State.commit_fe, commit_groupMuted]
    · exact if_pos hm
    · exact if_neg hm
  case goLed =>
    rw [commit_goLed]
    refine ⟨goPattern_burst, fun hb => ⟨goPattern_held hb, fun h hr => ?_, fun h hr => ?_⟩⟩
    all_goals
      rw [← goReady_iff] at hr
      rw [goPattern_free hb h]
    · exact if_pos hr
    · exact if_neg hr
  case joining => rw [commit_stationLed, stationPattern_joining h]
  case running =>
    rw [commit_stationLed, stationPattern_running h]
    exact ⟨fun h => if_pos h, fun h => if_neg h⟩

end Sys2Proof.Machine

/-! SUPPORT. The queue of waiting commands, which is the model's own (log 1): no operation changes it, and every command ends in a next
state; it settles O1 and O2. -/

namespace Sys2Proof.Machine

/-! ## The commands that wait, through each operation -/

@[simp] theorem ite_pending {c : Prop} [Decidable c] (t u : State) :
    (if c then t else u).pending = if c then t.pending else u.pending := apply_ite State.pending c t u

theorem forEach_pending {n : Nat} {f : Fin n → State → State} (hf : ∀ i t, (f i t).pending = t.pending) (s : State) :
    (forEach n f s).pending = s.pending := forEach_field State.pending f hf s

theorem foldl_pending {α : Type} {f : State → α → State} (hf : ∀ t a, (f t a).pending = t.pending) (l : List α) (s : State) :
    (l.foldl f s).pending = s.pending := by
  induction l generalizing s with
  | nil => rfl
  | cons a l ih => exact (ih (f s a)).trans (hf s a)

section
variable (s : State)

/-! ### Messages and receptions (R143 to R148, R152) -/

@[simp] theorem State.queuePresence_pending : s.queuePresence.pending = s.pending := s.enqueue_pending _

@[simp] theorem State.queueLevels_pending : s.queueLevels.pending = s.pending :=
  forEach_pending (fun m t => by simp [State.queueLevel]) s

theorem State.receive_pending {body : State → State} (h : ∀ u, (body u).pending = u.pending) (p : Station) :
    (s.receive p body).pending = s.pending := by
  simp [State.receive, h]

theorem State.receiveAddressed_pending {body : State → State} (h : ∀ u, (body u).pending = u.pending) (p target : Station) :
    (s.receiveAddressed p target body).pending = s.pending :=
  s.receive_pending (fun u => by simp [h]) p

/-! ### Takeover and fades (chapters 4 and 6) -/

@[simp] theorem State.countForeign_pending (l : LinkNo) : (s.countForeign l).pending = s.pending := by simp [State.countForeign]

@[simp] theorem State.acceptTouch_pending (l : LinkNo) (t : Nat) (p : Option Station) (held : Bool) (level : Level) :
    (s.acceptTouch l t p held level).pending = s.pending := (s.levelsOnly_acceptTouch l t p held level).pending

@[simp] theorem State.acceptRelease_pending (l : LinkNo) (t : Nat) (p : Option Station) (level : Level) :
    (s.acceptRelease l t p level).pending = s.pending := (s.levelsOnly_acceptRelease l t p level).pending

@[simp] theorem State.releaseHeldBy_pending (p : Station) : (s.releaseHeldBy p).pending = s.pending :=
  (s.levelsOnly_releaseHeldBy p).pending

@[simp] theorem State.answerLinks_pending : s.answerLinks.pending = s.pending := s.levelsOnly_answerLinks.pending

@[simp] theorem State.announceLinks_pending : s.announceLinks.pending = s.pending := s.levelsOnly_announceLinks.pending

@[simp] theorem State.advanceFades_pending : s.advanceFades.pending = s.pending := s.levelsOnly_advanceFades.pending

theorem State.startSteps_pending (due : List PendingStep) : (due.foldl State.startStep s).pending = s.pending :=
  (State.levelsOnly_foldl _ State.levelsOnly_startStep due s).pending

/-! ### The sequencer (chapter 3) -/

@[simp] theorem State.handSteps_pending (n : Cue) : (s.handSteps n).pending = s.pending :=
  foldl_pending (fun t st => by simp [(t.levelsOnly_takeStep _).pending]) _ s

@[simp] theorem State.takeGo_pending (n : Cue) (cause : Cause) (isLocal : Bool) :
    (s.takeGo n cause isLocal).pending = s.pending := by
  simp [State.takeGo]

@[simp] theorem State.expireFollow_pending : s.expireFollow.pending = s.pending := by
  unfold State.expireFollow
  split <;> simp

@[simp] theorem State.followChain_pending (fuel : Nat) : (s.followChain fuel).pending = s.pending := by
  induction fuel generalizing s with
  | zero => rfl
  | succ fuel ih => simp [State.followChain, ih]

@[simp] theorem State.runFollow_pending : s.runFollow.pending = s.pending := s.followChain_pending _

@[simp] theorem State.runGo_pending (n : Cue) (cause : Cause) (isLocal : Bool) : (s.runGo n cause isLocal).pending = s.pending := by
  simp [State.runGo]

@[simp] theorem State.takeGoto_pending (n : Cue) (fade : Nat) : (s.takeGoto n fade).pending = s.pending :=
  (State.levelsOnly_gotoRequest ..).pending

@[simp] theorem State.goKeyRequest_pending : s.goKeyRequest.pending = s.pending := by
  unfold State.goKeyRequest
  dsimp only
  split
  · rfl
  · split
    · simp
    · split <;> simp

@[simp] theorem State.backKeyRequest_pending : s.backKeyRequest.pending = s.pending := by
  unfold State.backKeyRequest
  split <;> simp

@[simp] theorem State.stopKeyRequest_pending : s.stopKeyRequest.pending = s.pending := by simp [State.stopKeyRequest]

@[simp] theorem State.adoptPresence_pending (p : Station) (cue : Cue) (held : Bool) :
    (s.adoptPresence p cue held).pending = s.pending := by
  simp [State.adoptPresence]

@[simp] theorem State.rejoin_pending : s.rejoin.pending = s.pending := by simp [State.rejoin]

/-! ### The panel and the groups (chapters 5 and 7) -/

@[simp] theorem State.slotLevel_pending (k : Fin 4) (first : Bool) : (s.slotLevel k first).pending = s.pending :=
  forEach_pending (fun m t => by simp [State.takeSlotLevel, State.queueLevel, State.modifyMaster]) s

@[simp] theorem State.scanOn_pending (n : Nat) : (s.scanOn n).pending = s.pending := rfl

@[simp] theorem State.modifyTouch_pending (c : Channel) (f : TouchState → TouchState) : (s.modifyTouch c f).pending = s.pending :=
  rfl

@[simp] theorem State.readReference_pending (raw : Nat) : (s.readReference raw).pending = s.pending := by
  simp [State.readReference]

@[simp] theorem State.beginTouch_pending (c : Channel) : (s.beginTouch c).pending = s.pending :=
  (State.levelsOnly_touchBegin ..).pending

@[simp] theorem State.endTouch_pending (c : Channel) : (s.endTouch c).pending = s.pending := by
  unfold State.endTouch
  split
  · exact (State.levelsOnly_touchEnd ..).pending
  · rfl

@[simp] theorem State.lockPanel_pending : s.lockPanel.pending = s.pending := by
  simp [State.lockPanel, forEach_pending fun c t => t.endTouch_pending c]

@[simp] theorem State.unlockPanel_pending : s.unlockPanel.pending = s.pending := by
  simp [State.unlockPanel, State.beginAccepting]

@[simp] theorem State.handAction_pending (c : Channel) : (s.handAction c).pending = s.pending := by simp [State.handAction]

@[simp] theorem State.countReading_pending (k : FaderSlot) (rail : Bool) : (s.countReading k rail).pending = s.pending := by
  unfold State.countReading
  dsimp only
  split <;> simp [State.modifySlot]

@[simp] theorem State.motionTouch_pending (c : Channel) (catchUp : Bool) : (s.motionTouch c catchUp).pending = s.pending := by
  simp [State.motionTouch]

@[simp] theorem State.handReading_pending (k : FaderSlot) (first changed catchUp : Bool) :
    (s.handReading k first changed catchUp).pending = s.pending := by
  unfold State.handReading
  split <;> simp [(s.levelsOnly_faderChange _).pending]

@[simp] theorem State.readFader_pending (k : FaderSlot) (raw : Nat) : (s.readFader k raw).pending = s.pending := by
  simp [State.readFader, State.acceptReading, State.modifySlot]

@[simp] theorem State.matchAt_pending (pos : Nat) : (s.matchAt pos).pending = s.pending := by simp [State.matchAt]

@[simp] theorem State.matchKey_pending (key : Fin 35) : (s.matchKey key).pending = s.pending := by simp [State.matchKey]

theorem State.pressKey_pending {body : State → State} (h : ∀ u, (body u).pending = u.pending) (key : Fin 35) :
    (s.pressKey key body).pending = s.pending := by
  simp [State.pressKey, h]

@[simp] theorem State.toggleAssertion_pending (k : Fin 8) : (s.toggleAssertion k).pending = s.pending := by
  unfold State.toggleAssertion
  split <;> simp [State.ownAssertion, State.setAsserter]

/-! ### The window and the configuration (§8.6, §8.7) -/

@[simp] theorem State.acceptConfig_pending (k : Configuration) : (s.acceptConfig k).pending = s.pending :=
  State.settle_pending _

@[simp] theorem State.endJoining_pending : s.endJoining.pending = s.pending := by simp [State.endJoining, State.beginAccepting]

@[simp] theorem State.closeAssembly_pending : s.closeAssembly.pending = s.pending := by
  unfold State.closeAssembly
  split <;> simp

@[simp] theorem State.takeItem_pending (code index : Nat) (value : BitVec 16) : (s.takeItem code index value).pending = s.pending := by
  unfold State.takeItem
  split
  · simp
  · split <;> simp

/-! ### The store (§2.3) -/

@[simp] theorem State.loadStep_pending (st : CueStep) : (s.loadStep st).pending = s.pending := by simp [State.loadStep]

@[simp] theorem State.loadHeader_pending (h : Header) : (s.loadHeader h).pending = s.pending := by simp [State.loadHeader]

theorem State.checkKey_pending {body : Channel → State} (h : ∀ c, (body c).pending = s.pending) (cue : Cue) (channel : Fin 32) :
    (s.checkKey cue channel body).pending = s.pending := by
  unfold State.checkKey
  split
  · simp
  · split <;> simp [h]

theorem State.checkCue_pending {t : State} (h : t.pending = s.pending) (cue : Cue) : (s.checkCue cue t).pending = s.pending := by
  simp [State.checkCue, h]

/-! ### The line, the peers and the port (chapters 8 and 9) -/

@[simp] theorem State.countDrops_pending (n : Nat) : (s.countDrops n).pending = s.pending := by
  induction n generalizing s with
  | zero => rfl
  | succ n ih => exact ih s.countDrop

@[simp] theorem State.raiseTxErrors_pending : s.raiseTxErrors.pending = s.pending := by
  simp [State.raiseTxErrors, State.enterLinkOff]

@[simp] theorem State.endLinkOff_pending : s.endLinkOff.pending = s.pending := by simp [State.endLinkOff]

@[simp] theorem State.takePresence_pending (p : Station) (joining hold : Bool) (cue : Cue) (mask : BitVec 16) :
    (s.takePresence p joining hold cue mask).pending = s.pending := by
  simp [State.takePresence, State.replaceMask, State.recordPresence]

@[simp] theorem State.losePeer_pending (p : Station) : (s.losePeer p).pending = s.pending := by simp [State.losePeer]

@[simp] theorem State.clearSpent_pending : s.clearSpent.pending = s.pending := rfl

@[simp] theorem State.answerStatus_pending : s.answerStatus.pending = s.pending := by
  rw [State.answerStatus, State.clearSpent_pending, forEach_pending fun part t => t.enqueue_pending _]

@[simp] theorem State.readReport_pending (gin : BitVec 32) : (s.readReport gin).pending = s.pending := by
  unfold State.readReport
  split <;> rfl

@[simp] theorem State.endTransfer_pending (t : Transfer) : (s.endTransfer t).pending = s.pending := by
  cases t with
  | poll => rfl
  | level => simp [State.endTransfer, State.beginPoll]

/-! ### The resets (log 12) -/

@[simp] theorem afterReset_pending (station : Station) (rate : BitRate) (k : Configuration) (store : CueStore) (offset : Int)
    (pending : List Instr) : (afterReset station rate k store offset pending).pending = pending := by
  simp [afterReset]

end

/-! ## The ends of a command (log 4) -/

/-- A command that ends in a next state in which the same commands wait as in `s`. -/
def State.Ends (s : State) (o : Host.Outcome State Fault Refusal) : Prop := ∃ t, o = .next t ∧ t.pending = s.pending

namespace State.Ends

variable {s t : State} {work body : State → State} {enabled : Bool} {p target : Station}

theorem next (h : t.pending = s.pending) : s.Ends (.next t) := ⟨t, rfl, h⟩

theorem idle : s.Ends (.next s) := next rfl

/-- An event that does `work`, whose end leaves the waiting commands. -/
theorem take (h : (work s).pending = s.pending) : s.Ends (s.take work) := next (((work s).commit_pending s).trans h)

/-- An event that comes about or not (log 4). -/
theorem takeWhen (h : (work s).pending = s.pending) : s.Ends (s.takeWhen enabled work) := by
  cases enabled with
  | true => exact take h
  | false => exact idle

theorem received (h : ∀ u, (body u).pending = u.pending) : s.Ends (s.take fun s => s.receive p body) :=
  take (s.receive_pending h p)

theorem addressed (h : ∀ u, (body u).pending = u.pending) : s.Ends (s.take fun s => s.receiveAddressed p target body) :=
  take (s.receiveAddressed_pending h p target)

/-- A configuration message, taken in JOINING alone (R156). -/
theorem configured (h : ∀ u, (body u).pending = u.pending) : s.Ends (s.take fun s => s.takeConfig p target body) :=
  addressed fun u => by simp [h]

/-- A key press (R93). -/
theorem pressed (h : ∀ u, (body u).pending = u.pending) (key : Fin 35) : s.Ends (s.takePress key body) :=
  takeWhen (s.pressKey_pending h key)

end State.Ends

/-- Every command ends in a next state, whatever it carries and whatever state it finds. -/
theorem exec_ends (i : Instr) (s : State) : s.Ends (exec i s) := by
  cases i with
  | powerOn | resetLine => exact .next (afterReset_pending ..)
  | restart p target =>
    change s.Ends (execRestart p target s)
    unfold execRestart
    split
    · exact .next (afterReset_pending ..)
    · exact .addressed fun u => rfl
  | go | goto | groupLevel | muteGroup => exact .received fun u => by simp [State.adoptCue, State.modifyMaster, State.setAsserter]
  | hold | resume => exact .received fun u => by simp [State.adoptHeld]
  | linkTouch | linkState | linkRelease | presence => exact .received fun u => by simp
  | statusReply => exact .received fun u => rfl
  | malformedLink => exact .received State.countIgnored_pending
  | statusRequest => exact .addressed fun u => by simp
  | panelLock => exact .addressed fun u => by simp
  | configBegin => exact .configured fun u => rfl
  | configItem => exact .configured fun u => u.takeItem_pending ..
  | configEnd => exact .configured fun u => by simp
  | stepLoad => exact .addressed fun u => u.checkKey_pending (fun c => u.loadStep_pending _) ..
  | stepDelete => exact .addressed fun u => u.checkKey_pending (fun c => by rfl) ..
  | headerLoad => exact .addressed fun u => u.checkCue_pending (u.loadHeader_pending _) _
  | headerDelete | cueErase => exact .addressed fun u => u.checkCue_pending (by rfl) _
  | bankSet =>
    refine .addressed fun u => ?_
    split
    · exact u.refuseLoad_pending _
    · rfl
  | tableClear => exact .addressed fun u => rfl
  | ignoredFrame frame =>
    apply State.Ends.take
    cases frame <;> simp
  | receiveError | keyRelease | glideTimer | recoveryTimer | indicatorTimerExpiry | gainRefreshExpiry =>
    apply State.Ends.take
    rfl
  | groupRefreshExpiry | presenceTimerExpiry | frameCount | advance =>
    apply State.Ends.take
    simp
  | recessiveRun | txError | calibrationReading | faderReading | touchLineActive | touchLineInactive | quietTimerExpiry
  | limitTimerExpiry => exact .takeWhen (by simp)
  | linkOffEnd => exact .takeWhen s.endLinkOff_pending
  | followExpiry => exact .takeWhen s.runFollow_pending
  | pendingStepStart => exact .takeWhen (State.startSteps_pending _ _)
  | goKeyPress | backKeyPress | stopKeyPress | groupKeyPress =>
    apply State.Ends.pressed
    simp
  | muteKeyPress =>
    apply State.Ends.pressed
    exact fun u => rfl
  | frameOffer | lostArbitration | txSuccess | fadeComplete | returnGlideEnd | recoveryGlideEnd | spareSlotReading | unlockTimerExpiry
  | staleTimerExpiry | aloneTimerExpiry | clashTimerExpiry | burstTimerExpiry => exact .takeWhen (by rfl)
  | silenceTimerExpiry p => exact .takeWhen (s.losePeer_pending p)
  | windowTimerExpiry => exact .takeWhen s.endJoining_pending
  | levelTransfer =>
    change s.Ends (execLevelTransfer s)
    unfold execLevelTransfer
    split
    · exact .take (by rfl)
    · exact .idle
  | transferComplete gin =>
    change s.Ends (execTransferComplete gin s)
    unfold execTransferComplete
    split
    · exact .idle
    · exact .next (by simp)

/-- Settles O2: the end of each command, `State.Ends`, is the statement's. -/
theorem everyCommandEndsInANextState : Obligations.EveryCommandEndsInANextState := exec_ends

/-- Settles O1: on a queue that is not empty a step is its second equation. -/
theorem stepRunsTheFrontCommand : Obligations.StepRunsTheFrontCommand := by
  intro c rest s h
  rw [step, h]

end Sys2Proof.Machine

/-! SUPPORT. What the station tells of itself: the bits of a mask, the fields of the five STATUS_REPLY parts and of a PRESENCE (R152,
R158, §8.9); it settles O41. -/

namespace Sys2Proof.Machine

/-! ## The bits of a mask -/

theorem maskNat_succ (n : Nat) (p : Fin (n + 1) → Bool) :
    maskNat (n + 1) p = maskNat n (fun i => p i.castSucc) + if p (Fin.last n) then 2 ^ n else 0 := by
  simp only [maskNat, List.finRange_succ_last, List.foldl_append, List.foldl_map, List.foldl_cons, List.foldl_nil,
    Fin.val_castSucc, Fin.val_last]

theorem maskNat_lt {n : Nat} (p : Fin n → Bool) : maskNat n p < 2 ^ n := by
  induction n with
  | zero => exact Nat.one_pos
  | succ n ih =>
    have h := ih fun i => p i.castSucc
    rw [maskNat_succ, Nat.pow_succ]
    split <;> omega

/-- Bit `i` of a mask says whether `i` is in it. -/
theorem maskNat_testBit {n : Nat} (p : Fin n → Bool) (i : Fin n) : (maskNat n p).testBit i.val = p i := by
  induction n with
  | zero => exact i.elim0
  | succ n ih =>
    have hlow := maskNat_lt fun i => p i.castSucc
    rw [maskNat_succ, Nat.add_comm]
    cases i using Fin.lastCases with
    | last =>
      cases h : p (Fin.last n) with
      | true => simp [Nat.testBit_two_pow_add_eq, Nat.testBit_lt_two_pow hlow]
      | false => simp [Nat.testBit_lt_two_pow hlow]
    | cast i =>
      rw [← ih fun i => p i.castSucc]
      split
      · exact Nat.testBit_two_pow_add_gt i.isLt _
      · rw [Nat.zero_add]; rfl

theorem getLsbD_mask {n : Nat} (p : Fin n → Bool) (i : Fin n) : (BitVec.ofNat n (maskNat n p)).getLsbD i.val = p i := by
  rw [BitVec.getLsbD_ofNat, maskNat_testBit, decide_eq_true i.isLt, Bool.true_and]

/-! ## The fields of a number laid out field by field (§8.9) -/

section
variable {m n lo width : Nat} (x : BitVec m) (y : BitVec n)

theorem extract_append_above (h : n ≤ lo) : (x ++ y).extractLsb' lo width = x.extractLsb' (lo - n) width := by
  refine BitVec.eq_of_toNat_eq ?_
  simp only [BitVec.extractLsb'_toNat, Nat.shiftRight_eq_div_pow, toNat_append_div x y h]

theorem extract_append_last : (x ++ y).extractLsb' 0 n = y := by
  refine BitVec.eq_of_toNat_eq ?_
  simp only [BitVec.extractLsb'_toNat, Nat.shiftRight_zero, toNat_append_mod]

theorem extract_whole : y.extractLsb' 0 n = y := BitVec.extractLsb'_eq_self

variable {v : BitVec m} {f : BitVec width}

/-- A bit of a field. -/
theorem bit_of_field (h : v.extractLsb' lo width = f) {i j : Nat} (hi : i < width) (hj : j = lo + i) :
    v.getLsbD j = f.getLsbD i := by
  rw [← h, hj, BitVec.getLsbD_extractLsb', decide_eq_true hi, Bool.true_and]

/-- A flag that stands alone in its field. -/
theorem bit_of_flag {b : Bool} (h : v.extractLsb' lo 1 = BitVec.ofBool b) : v.getLsbD lo = b := by
  rw [bit_of_field h Nat.one_pos (Nat.add_zero lo).symm, BitVec.getLsbD_ofBool]
  rfl
end


section
variable (s : State)

/-! ## The parts of a STATUS_REPLY (§8.9) -/

theorem statusPart_number (part : Fin 5) : (s.statusPart part).extractLsb' 61 3 = BitVec.ofNat 3 part.val := by
  fin_cases part <;>
    simp (disch := omega) only [State.statusPart, State.statusPart0, State.statusPart1, State.statusPart2, State.statusPart3,
      State.statusPart4, extract_append_above, extract_whole, Nat.reduceSub]

theorem statusPart0_fields :
    let v := s.statusPart 0
    v.extractLsb' 49 12 = BitVec.ofNat 12 s.cs.steps.length ∧ v.extractLsb' 39 10 = BitVec.ofNat 10 s.cs.headers.length ∧
      v.extractLsb' 27 12 = s.flagField ∧ v.extractLsb' 24 3 = BitVec.ofNat 3 (reasonCode s.fi.lastReason) ∧
      v.extractLsb' 18 6 = BitVec.ofNat 6 s.fi.counters.loadsRefused ∧
      v.extractLsb' 12 6 = BitVec.ofNat 6 s.fi.counters.goRefused ∧
      v.extractLsb' 6 6 = BitVec.ofNat 6 s.fi.counters.remoteIgnored ∧ v.extractLsb' 0 6 = BitVec.ofNat 6 s.fi.counters.txDrops := by
  intro v
  and_intros <;>
    simp (disch := omega) only [v, State.statusPart, State.statusPart0, extract_append_above, extract_append_last, Nat.reduceSub]

theorem statusPart1_fields :
    let v := s.statusPart 1
    v.extractLsb' 60 1 = BitVec.ofBool (s.sl.state == .running) ∧ v.extractLsb' 58 2 = BitVec.ofNat 2 (linkSideCode s.linkSide) ∧
      v.extractLsb' 46 12 = BitVec.ofNat 12 s.seq.currentCue.val ∧ v.extractLsb' 45 1 = BitVec.ofBool s.seq.held ∧
      v.extractLsb' 44 1 = BitVec.ofBool s.pi.locked ∧ v.extractLsb' 36 8 = BitVec.ofInt 8 s.pi.calOffset ∧
      v.extractLsb' 35 1 = BitVec.ofBool s.pi.calFault ∧ v.extractLsb' 30 5 = BitVec.ofNat 5 s.faultedChannels ∧
      v.extractLsb' 27 3 = BitVec.ofNat 3 s.faultedMasters ∧ v.extractLsb' 22 5 = BitVec.ofNat 5 s.fadesRunning ∧
      v.extractLsb' 17 5 = BitVec.ofNat 5 s.fe.waiting.length ∧ v.extractLsb' 5 12 = BitVec.ofNat 12 s.lowestCue.val ∧
      v.extractLsb' 0 5 = BitVec.ofNat 5 s.channelsInAction := by
  intro v
  and_intros <;>
    simp (disch := omega) only [v, State.statusPart, State.statusPart1, extract_append_above, extract_append_last, Nat.reduceSub]

theorem statusPart2_fields :
    let v := s.statusPart 2
    v.extractLsb' 36 5 = BitVec.ofNat 5 s.linksHeld ∧ v.extractLsb' 5 31 = s.peerMask ∧
      v.extractLsb' 0 5 = BitVec.ofNat 5 s.disagreement := by
  intro v
  and_intros <;>
    simp (disch := omega) only [v, State.statusPart, State.statusPart2, extract_append_above, extract_append_last, Nat.reduceSub]

theorem statusPart2_takeovers :
    ∀ e ∈ [(Takeover.touched, 56), (.latched, 51), (.returning, 46), (.overridden, 41)],
      (s.statusPart 2).extractLsb' e.2 5 = BitVec.ofNat 5 (s.channelsIn e.1) := by
  simp only [List.forall_mem_cons, List.not_mem_nil, false_implies, implies_true, and_true]
  and_intros <;>
    simp (disch := omega) only [State.statusPart, State.statusPart2, extract_append_above, extract_append_last, Nat.reduceSub]

theorem statusPart3_fields :
    let v := s.statusPart 3
    v.extractLsb' 53 8 = s.freshMask ∧ v.extractLsb' 0 9 = 0 := by
  intro v
  and_intros <;>
    simp (disch := omega) only [v, State.statusPart, State.statusPart3, extract_append_above, extract_append_last, Nat.reduceSub,
      BitVec.ofNat_eq_ofNat]

theorem statusPart4_fields :
    let v := s.statusPart 4
    v.extractLsb' 1 16 = s.mutingMask ∧ v.extractLsb' 0 1 = BitVec.ofBool false := by
  intro v
  and_intros <;>
    simp (disch := omega) only [v, State.statusPart, State.statusPart4, extract_append_above, extract_append_last, Nat.reduceSub,
      BitVec.ofBool_false, BitVec.ofNat_eq_ofNat]

/-- The levels of the masters, in parts 3 and 4. -/
theorem statusPart_levels :
    ∀ e ∈ [((0 : MasterNo), (3 : Fin 5), 42), (1, 3, 31), (2, 3, 20), (3, 3, 9), (4, 4, 50), (5, 4, 39), (6, 4, 28), (7, 4, 17)],
      (s.statusPart e.2.1).extractLsb' e.2.2 11 = s.masterField e.1 := by
  simp only [List.forall_mem_cons, List.not_mem_nil, false_implies, implies_true, and_true]
  and_intros <;>
    simp (disch := omega) only [State.statusPart, State.statusPart3, State.statusPart4, extract_append_above, extract_append_last,
      Nat.reduceSub]

/-! ## What the fields tell -/

theorem flagField_bit (f : Flag) : s.flagField.getLsbD f.bit.val = s.flag f := getLsbD_mask _ f.bit

theorem reasonCode_number :
    ∀ e ∈ [(none, 0), (some Reason.badChannel, 1), (some .badCue, 2), (some .badKind, 3), (some .tableFull, 4), (some .notJoining, 5),
      (some .badItem, 6)], reasonCode e.1 = e.2 := by decide

/-- The code of the link side: LINK_OFF before ALONE (R148, R150). -/
theorem linkSideField_eq :
    BitVec.ofNat 2 (linkSideCode s.linkSide) = if 256 ≤ s.sl.txErrors then 1 else if s.sl.aloneCond then 2 else 0 := by
  rw [State.linkSide, if_congr busOff_iff rfl rfl]
  split
  · rfl
  · split <;> rfl

theorem channelsInAction_eq :
    s.channelsInAction = (List.finRange 24).countP fun c => decide ((s.gc.chan.get c).action ≠ .none) := by
  simp only [State.channelsInAction, countIndex, bne, beq_eq_decide, decide_not]

theorem linksHeld_eq :
    s.linksHeld = (List.finRange 32).countP fun l => decide ((s.tk.link.get l).holder = some s.sl.station) := by
  simp only [State.linksHeld, countIndex, State.holdsLink, beq_eq_decide]

theorem present_eq (p : Station) :
    s.present p = (decide (p ≠ 0) && decide (p ≠ s.sl.station) && decide ((s.sl.peer.get p).state = .present)) := by
  simp only [State.present, bne, beq_eq_decide, decide_not]

theorem disagreement_eq :
    s.disagreement =
      (List.finRange 32).countP fun p =>
        s.present p && !(s.sl.peer.get p).joining && decide ((s.sl.peer.get p).cue ≠ s.seq.currentCue) := by
  simp only [State.disagreement, countIndex, bne, beq_eq_decide, decide_not]

/-- Peer `p` stands on bit `p − 1`. -/
theorem peerMask_bit {p : Station} (hp : p ≠ 0) : s.peerMask.getLsbD (p.val - 1) = s.present p := by
  obtain ⟨i, rfl⟩ := Fin.exists_succ_eq.mpr hp
  exact getLsbD_mask (fun i => s.present i.succ) i

/-- The cues of the fade records and the pending entries. -/
def State.movingCues : List Cue :=
  ((List.finRange 24).filterMap fun c => (s.fe.chan.get c).slot.map FadeRecord.cue) ++ s.fe.waiting.map PendingStep.cue

theorem mem_movingCues {n : Cue} :
    n ∈ s.movingCues ↔ (∃ c r, (s.fe.chan.get c).slot = some r ∧ r.cue = n) ∨ ∃ p ∈ s.fe.waiting, p.cue = n := by
  simp [State.movingCues]

theorem lowestCue_eq : s.lowestCue = s.movingCues.min?.getD 0 := by
  rw [← foldl_lowerCue]; rfl

theorem lowestCue_none (h : ∀ n, n ∉ s.movingCues) : s.lowestCue = 0 := by
  rw [lowestCue_eq, List.eq_nil_iff_forall_not_mem.mpr h]; rfl

theorem lowestCue_least {n : Cue} (hn : n ∈ s.movingCues) (hle : ∀ m ∈ s.movingCues, n ≤ m) : s.lowestCue = n := by
  rw [lowestCue_eq, List.min?_eq_some_iff.mpr ⟨hn, hle⟩]; rfl

theorem muting_iff (g : GroupNo) : s.muting g = true ↔ ∃ p, (s.sg.asserters.get g).get p = true := anyIndex_iff _

/-! ## The fields of a PRESENCE (§8.9) -/

theorem ownMask_bit (g : GroupNo) : s.ownMask.getLsbD g.val = s.pi.ownAssert.get g := getLsbD_mask _ g

theorem faultSummary_line : s.faultSummary.getLsbD 7 = s.faultActive := by
  refine bit_of_flag ?_
  simp (disch := omega) only [State.faultSummary, extract_append_above, extract_whole, Nat.reduceSub]

theorem faultSummary_flag :
    ∀ e ∈ [(Flag.calFault, 6), (.anyFaderFault, 5), (.anyGroupStale, 4), (.anyReadbackMismatch, 3), (.linkAlone, 2), (.tableFull, 1),
      (.stationClash, 0)], s.faultSummary.getLsbD e.2 = s.flag e.1 := by
  simp only [List.forall_mem_cons, List.not_mem_nil, false_implies, implies_true, and_true]
  and_intros <;> refine bit_of_flag ?_ <;>
    simp (disch := omega) only [State.faultSummary, extract_append_above, extract_append_last, Nat.reduceSub]

theorem presence_fields (joining held : Bool) (cue : Cue) (mask : BitVec 16) (summary : BitVec 8) :
    let v := BitVec.ofBool joining ++ BitVec.ofBool held ++ BitVec.ofNat 12 cue.val ++ mask ++ summary ++ 0#2
    v.extractLsb' 39 1 = BitVec.ofBool joining ∧ v.extractLsb' 38 1 = BitVec.ofBool held ∧
      v.extractLsb' 26 12 = BitVec.ofNat 12 cue.val ∧ v.extractLsb' 10 16 = mask ∧ v.extractLsb' 2 8 = summary ∧
      v.extractLsb' 0 2 = 0 := by
  intro v
  and_intros <;>
    simp (disch := omega) only [v, extract_append_above, extract_append_last, extract_whole, Nat.reduceSub, BitVec.ofNat_eq_ofNat]

end

/-- Settles O41, part by part from the fields of its layout. -/
theorem statusAndPresenceContents : Obligations.StatusAndPresenceContents := by
  intro s field bit isPresent driven flags reasons moving
  obtain ⟨hsteps, hheaders, hflags, hreason, hloads, hgos, hignored, hdrops⟩ := statusPart0_fields s
  obtain ⟨hrunning, hside, hcue, hheld, hlocked, hoffset, hcalFault, hchannels, hmasters, hfades, hwaiting, hlowest, hactions⟩ :=
    statusPart1_fields s
  obtain ⟨hlinks, hpeers, hdisagreement⟩ := statusPart2_fields s
  obtain ⟨hfresh, hpad3⟩ := statusPart3_fields s
  obtain ⟨hmuting, hpad4⟩ := statusPart4_fields s
  refine ⟨statusPart_number s, ⟨hsteps, hheaders, ?flags, ?reason, hloads, hgos, hignored, hdrops⟩,
    ⟨bit_of_flag hrunning, hside.trans (linkSideField_eq s), hcue, bit_of_flag hheld, bit_of_flag hlocked, hoffset,
      bit_of_flag hcalFault, hchannels, hmasters, hfades, hwaiting, ?noCue, ?lowest, ?actions⟩,
    ⟨fun x lo h => statusPart2_takeovers s _ h, ?links, ?peers, ?disagreement⟩, ?fresh, hpad3,
    fun m part lo h => statusPart_levels s _ h, ?muting, bit_of_flag hpad4, rfl, ownMask_bit s, ?line,
    fun f i h => faultSummary_flag s _ h, ?presence⟩
  case flags =>
    intro f n h
    have hn : f.bit.val + 1 = n := flag_number _ h
    exact (bit_of_field hflags f.bit.isLt (by omega)).trans (flagField_bit s f)
  case reason =>
    rintro r n h rfl
    exact hreason.trans (congrArg _ (reasonCode_number _ h))
  case noCue =>
    intro h
    exact hlowest.trans (by rw [lowestCue_none s fun n hn => h n ((mem_movingCues s).mp hn)]; rfl)
  case lowest =>
    intro n hn hle
    exact hlowest.trans (by rw [lowestCue_least s ((mem_movingCues s).mpr hn) fun m hm => hle m ((mem_movingCues s).mp hm)])
  case actions => exact hactions.trans (by rw [channelsInAction_eq])
  case links => exact hlinks.trans (by rw [linksHeld_eq])
  case peers =>
    intro p hp
    have hpos : 0 < p.val := Fin.pos_iff_ne_zero.mpr hp
    exact (bit_of_field hpeers (by omega) (by omega)).trans ((peerMask_bit s hp).trans (present_eq s p))
  case disagreement =>
    refine hdisagreement.trans ?_
    rw [disagreement_eq]
    simp only [present_eq, isPresent]
  case fresh => exact fun m => (bit_of_field hfresh m.isLt rfl).trans (getLsbD_mask _ m)
  case muting =>
    intro g
    have hbit : bit 4 (1 + g.val) = s.muting g := (bit_of_field hmuting g.isLt rfl).trans (getLsbD_mask _ g)
    rw [hbit, muting_iff]
  case line => rw [faultSummary_line, faultActive_iff]
  case presence =>
    intro joining held cue mask summary
    obtain ⟨hjoining, hheld, hfields⟩ := presence_fields joining held cue mask summary
    exact ⟨_, rfl, bit_of_flag hjoining, bit_of_flag hheld, hfields⟩

end Sys2Proof.Machine
